-- ==== Sys2Proof/Word.lean ====
section
/-! DEFINITION. The words of the part: a byte, a 32-bit register, a board station, and four of a kind. -/

namespace Sys2Proof

/-- One byte of host memory, record memory or a descriptor. -/
abbrev Byte := BitVec 8

/-- One 32-bit register of the window, and one reading of the millisecond clock (R192, R197). -/
abbrev Word := BitVec 32

/-- The number of a station, 0..3 (00_scope, "Block overview"). -/
inductive StationNo where
  | s0 | s1 | s2 | s3
  deriving DecidableEq, Repr

/-- The station's number as the layouts count it. -/
def StationNo.toNat : StationNo → Nat
  | .s0 => 0
  | .s1 => 1
  | .s2 => 2
  | .s3 => 3

/-- The station a number names, 0..3. -/
def StationNo.ofNat? : Nat → Option StationNo
  | 0 => some .s0
  | 1 => some .s1
  | 2 => some .s2
  | 3 => some .s3
  | _ => none

/-- The four stations in ascending number. -/
def StationNo.all : List StationNo := [.s0, .s1, .s2, .s3]

/-- One of the five ring channels, in the order of the BMA's circle (R101). -/
inductive Chan where
  | control
  | station (n : StationNo)
  deriving DecidableEq, Repr

/-- The ring number r of R192: 0 for the control ring, 1..4 for stations 0..3. -/
def Chan.toNat : Chan → Nat
  | .control => 0
  | .station n => n.toNat + 1

/-- The circle RCH-C, RCH-0, RCH-1, RCH-2, RCH-3 (R101). -/
def Chan.all : List Chan :=
  [.control, .station .s0, .station .s1, .station .s2, .station .s3]

/-- The channel that follows a channel in the circle (R102). -/
def Chan.next : Chan → Chan
  | .control => .station .s0
  | .station .s0 => .station .s1
  | .station .s1 => .station .s2
  | .station .s2 => .station .s3
  | .station .s3 => .control

/-- Four of a kind, one for each station. -/
structure Four (α : Type) where
  s0 : α
  s1 : α
  s2 : α
  s3 : α
  deriving DecidableEq, Repr

/-- The entry of station n. -/
def Four.get {α : Type} (f : Four α) : StationNo → α
  | .s0 => f.s0
  | .s1 => f.s1
  | .s2 => f.s2
  | .s3 => f.s3

/-- The four with the entry of station n replaced. -/
def Four.set {α : Type} (f : Four α) (n : StationNo) (a : α) : Four α :=
  match n with
  | .s0 => { f with s0 := a }
  | .s1 => { f with s1 := a }
  | .s2 => { f with s2 := a }
  | .s3 => { f with s3 := a }

/-- The same entry for each station. -/
def Four.fill {α : Type} (a : α) : Four α := ⟨a, a, a, a⟩

end Sys2Proof
end

