-- ==== Sys2Proof/Syntax.lean ====
section
/-! DEFINITION. The commands of the part: one constructor for each row of spec/opcode_table.json.
A register write carries the word written; the end of a read transfer carries the bytes read from
host memory; an event of a lane carries what the lane's inputs show in it. -/

namespace Sys2Proof

/-- The steps of the part, each whole and indivisible (95_what_each_step_holds). -/
inductive Instr where
  /-- HARDWARE_RESET (R206): the reset signal of the card. -/
  | hardwareReset
  /-- CONFIG_ROM_LOAD_END (R207): the 16 bytes read, or none from a ROM that does not answer. -/
  | configRomLoadEnd (rom : Option (List Byte))
  /-- ENGINE_RESET (R194): the word written to engine control. -/
  | engineReset (w : Word)
  /-- RING_START (R95): START of channel c by the word written to engine control. -/
  | ringStart (c : Chan) (w : Word)
  /-- RING_STOP (R97, R98): STOP of channel c by the word written to engine control. -/
  | ringStop (c : Chan) (w : Word)
  /-- SET_AUTO_POLL_INTERVAL (R87): the word written to engine control. -/
  | setAutoPollInterval (w : Word)
  /-- SET_ARBITER_MODE (R102): the word written to engine control. -/
  | setArbiterMode (w : Word)
  /-- POLL_DEMAND (R86): the word written to poll demand. -/
  | pollDemand (w : Word)
  /-- RING_BASE_WRITE (R83). -/
  | ringBaseWrite (c : Chan) (v : Word)
  /-- RING_SIZE_WRITE (R83). -/
  | ringSizeWrite (c : Chan) (v : Word)
  /-- RING_FETCH_INDEX_WRITE (R83). -/
  | ringFetchIndexWrite (c : Chan) (v : Word)
  /-- EVENT_STATUS_CLEAR (R201). -/
  | eventStatusClear (v : Word)
  /-- EVENT_ENABLE_WRITE (R202). -/
  | eventEnableWrite (v : Word)
  /-- INSPECTION_ADDRESS_WRITE (R203). -/
  | inspectionAddressWrite (v : Word)
  /-- INSPECTION_DATA_READ (R204): the bytes of the word that are read (R193). -/
  | inspectionDataRead (lanes : BitVec 4)
  /-- STATUS_A_READ (R199): the bytes of the word that are read (R193). -/
  | statusARead (n : StationNo) (lanes : BitVec 4)
  /-- REGISTER_WRITE_IGNORED (R193): offset, bytes written, word written. -/
  | registerWriteIgnored (offset : BitVec 8) (lanes : BitVec 4) (v : Word)
  /-- HOLD (R152). -/
  | hold (n : StationNo)
  /-- RESUME (R153). -/
  | resume (n : StationNo)
  /-- FLUSH (R154). -/
  | flush (n : StationNo)
  /-- WAKE (R156). -/
  | wake (n : StationNo)
  /-- PARK (R156). -/
  | park (n : StationNo)
  /-- STATION_COMMAND_BAD_CODE (R151): the word written to the station command register. -/
  | stationCommandBadCode (n : StationNo) (v : Word)
  /-- DESCRIPTOR_FETCH_END (R85): the 64 bytes of the descriptor read. -/
  | descriptorFetchEnd (c : Chan) (bytes : List Byte)
  /-- DEFINE (R15), taken by the Resource Table from RCH-C's descriptor in hand. -/
  | define
  /-- AMEND (R19). -/
  | amend
  /-- RETIRE (R24). -/
  | retire
  /-- QUERY (R26). -/
  | query
  /-- SET_PROFILE (R132): the 64 bytes of the profile, whose read ends here (R90). -/
  | setProfile (bytes : List Byte)
  /-- SET_LIMITS (R174). -/
  | setLimits
  /-- CALIBRATE (R159). -/
  | calibrate
  /-- DOTCHECK (R183). -/
  | dotcheck
  /-- BODY_BURST_END (R16): the bytes of the burst. -/
  | bodyBurstEnd (bytes : List Byte)
  /-- LABEL_DATA_TRANSFER_END (R111): the bytes of the transfer. -/
  | labelDataTransferEnd (n : StationNo) (bytes : List Byte)
  /-- COMPLETION_WRITE_END (R88). -/
  | completionWriteEnd (c : Chan)
  /-- TRANSFER_BUS_ERROR (R99). -/
  | transferBusError (c : Chan)
  /-- AUTO_POLL_EXPIRY (R87). -/
  | autoPollExpiry (c : Chan)
  /-- COMPOSER_FIELD_STEP (R117). -/
  | composerFieldStep
  /-- COMPOSER_COMPLETE (R123). -/
  | composerComplete
  /-- MARKED_HEAD_FINISH (R126). -/
  | markedHeadFinish (n : StationNo)
  /-- TRIGGER_LEVEL_CHANGE (R134): the level of TRIGGER after the change, true for high. -/
  | triggerLevelChange (n : StationNo) (high : Bool)
  /-- TRIGGER_ARRIVAL (R135): the filter timer reaches the filter time. -/
  | triggerArrival (n : StationNo)
  /-- LAST_START_EXPIRY (R137) of entry k of the trigger queue. -/
  | lastStartExpiry (n : StationNo) (k : Nat)
  /-- DEADLINE_EXPIRY (R138) of entry k of the trigger queue. -/
  | deadlineExpiry (n : StationNo) (k : Nat)
  /-- LINE_PERIOD_EXPIRY (R164). -/
  | linePeriodExpiry (n : StationNo)
  /-- STROBE_SUBPHASE_END (R169). -/
  | strobeSubphaseEnd (n : StationNo)
  /-- GAP_EDGE (R145). -/
  | gapEdge (n : StationNo)
  /-- MEDIA_PRESENT_FALL (R199): a change of MEDIA_PRESENT, false for its fall, true for its return
  to active, which R199 names beside the fall and the table gives no row of its own (log 7). -/
  | mediaPresentFall (n : StationNo) (active : Bool)
  /-- APPLIED (R148). -/
  | applied (n : StationNo)
  /-- APPLY_TIMEOUT (R148). -/
  | applyTimeout (n : StationNo)
  /-- HEAD_OPEN_ACTIVE (R149). -/
  | headOpenActive (n : StationNo)
  /-- HEAD_OPEN_INACTIVE (R150). -/
  | headOpenInactive (n : StationNo)
  /-- PARK_TIMER_EXPIRY (R157). -/
  | parkTimerExpiry (n : StationNo)
  /-- WAKE_SETTLE_EXPIRY (R158). -/
  | wakeSettleExpiry (n : StationNo)
  /-- DCU_SETTLE_EXPIRY (R184). -/
  | dcuSettleExpiry
  /-- ELEMENT_MEASUREMENT_END (R187): the reading 0..255. -/
  | elementMeasurementEnd (reading : Byte)
  /-- THERMAL_SAMPLE (R176): the head's temperature in whole degrees. -/
  | thermalSample (n : StationNo) (degrees : Int)
  deriving DecidableEq, Repr

end Sys2Proof
end

