-- ==== Sys2Proof/Decode.lean ====
section
/-! DEFINITION. The command a word of the opcode table's bits spells. -/

namespace Sys2Proof

/-- spec/opcode_table.json gives no row any bits ("fields": [] in all 57), so no word spells a
command. -/
def decodeTableWord (_nbits _w : Nat) : Option Instr := none

end Sys2Proof
end

