-- ==== Sys2Proof/Machine/Types.lean ====
section
/-! DEFINITION. The kinds of thing the state is made of: enumerations of the manual's names, and the
structures for records, label contexts, channels, stations, monitors and checks. -/

namespace Sys2Proof.Machine

/-! ### Completion statuses (R208) -/

/-- Every command and finish status of R208's table. -/
inductive Status where
  | ok | retirePending | badHandle | badKind | handleInUse | badBody | noSpace | noRecord
  | kindMismatch | priorInUse | busyLoading | referenced | badRef
  | badCommand | noHead | stationOffline | stationBusy | badProfile | badLimits | dcuBusy
  | formMissing | versionMismatch | formTooLarge | badData | busError | aborted
  | mediaFault | headOpen | applied | printed | late | skipped | flushed | applyTimeout
  | mediaMismatch | counterExhausted | dataRejected
  deriving DecidableEq, Repr

/-! ### Records (Chapter 1) -/

/-- What a record's body describes (R1). -/
inductive Kind where
  | form | font | symbology | counter
  deriving DecidableEq, Repr

/-- Lifecycle state of a record (R1, R2). -/
inductive RecState where
  | free | loading | active | retiring
  deriving DecidableEq, Repr

/-- A current or prior body: block list, length in bytes, the version it carries, its pin count and,
for a FORM, its reference list (R5, R6, R53). -/
structure Body where
  blocks : List Nat
  length : Nat
  version : Nat
  pins : Nat
  refs : List Nat
  deriving DecidableEq, Repr

/-- The body of a DEFINE or AMEND in flight (R5). -/
structure LoadingBody where
  blocks : List Nat
  length : Nat
  loaded : Nat
  deriving DecidableEq, Repr

/-- One record of the Resource Table (R1). -/
structure Record where
  state : RecState
  kind : Option Kind
  version : Nat
  tag : List Byte
  current : Option Body
  prior : Option Body
  loading : Option LoadingBody
  referrers : Nat
  deriving DecidableEq, Repr

/-- A FREE record: version 0, all-zero name tag, no bodies, no referrers (R1). -/
def Record.empty : Record :=
  { state := .free, kind := none, version := 0, tag := List.replicate 8 0, current := none,
    prior := none, loading := none, referrers := 0 }

/-! ### Labels (Chapter 6) -/

/-- Where a label stands (R105); fetching stands for the absent state of a label whose data is
being fetched. -/
inductive LabelState where
  | fetching | accepted | composing | ready | failed | printing | presenting
  deriving DecidableEq, Repr

/-- The warnings a label may carry (R105). -/
structure Warnings where
  clipped : Bool
  substituted : Bool
  dotsInBars : Bool
  deadlineOverrun : Bool
  deriving DecidableEq, Repr

/-- No warning. -/
def Warnings.none : Warnings := ⟨false, false, false, false⟩

/-- The warnings of either. -/
def Warnings.or (a b : Warnings) : Warnings :=
  ⟨a.clipped || b.clipped, a.substituted || b.substituted, a.dotsInBars || b.dotsInBars,
    a.deadlineOverrun || b.deadlineOverrun⟩

/-- One label context (R105). Its number is the context's place among the station's eight. -/
structure Label where
  ctx : Nat
  state : LabelState
  mark : Option Status
  index : Nat
  form : Nat
  formVersion : Nat
  pinned : List (Nat × Nat)
  counterPins : List Nat
  drawn : List (Nat × List Byte)
  dotAvoid : Bool
  slotCount : Nat
  slots : List (Nat × Nat)
  dataLength : Nat
  reservation : List Nat
  elementCount : Option Nat
  shifts : List Int
  warnings : Warnings
  failure : Option Status
  stamp : Option Nat
  deriving DecidableEq, Repr

/-- Kind of a placed mark (R122). -/
inductive ElemKind where
  | glyph | bar | rule
  deriving DecidableEq, Repr

/-- One element entry (R122): the visible box and, for a GLYPH, the glyph and its whole cell. -/
structure Element where
  kind : ElemKind
  top : Nat
  left : Nat
  lines : Nat
  dots : Nat
  glyphBody : Nat
  bitmap : Nat
  width : Nat
  height : Nat
  rot90 : Bool
  cellTop : Nat
  cellLeft : Nat
  deriving DecidableEq, Repr

/-- Byte number `byte` of the 16 bytes that hold an element entry in record memory (R36, R37). -/
structure ElemByte where
  entry : Element
  byte : Nat
  deriving DecidableEq, Repr

/-! ### Ring channels (Chapter 5) -/

/-- What a channel is doing (R82). -/
inductive ChanState where
  | stopped | running | suspended | full
  deriving DecidableEq, Repr

/-- Why a channel last entered STOPPED (R82). -/
inductive StopCause where
  | none | host | busError | reset | noRing
  deriving DecidableEq, Repr

/-- The work a descriptor in hand stands for (R89 to R92). -/
inductive Work where
  /-- Control: handed to its owner, which has not yet taken it (R89). -/
  | owner
  /-- Control: SET_PROFILE whose profile is being read (R90). -/
  | profile
  /-- Control: a DEFINE or AMEND load with `bursts` bursts stored; `aborting` after a STOP (R98). -/
  | load (bursts : Nat) (aborting : Bool)
  /-- Control: a CALIBRATE or DOTCHECK its owner has not yet ended (R91). -/
  | busy
  /-- Station: a label's data with `parts` transfers stored (R92). -/
  | data (parts : Nat)
  /-- The completion to be written (R88). -/
  | complete (bytes : List Byte)
  deriving DecidableEq, Repr

/-- A channel's descriptor in hand (R82, R84). -/
structure Hand where
  copy : List Byte
  index : Nat
  work : Work
  deriving DecidableEq, Repr

/-- A transfer of R101's table that a channel has requested or been granted. -/
inductive Xfer where
  | fetch | burst | profile | data | handCompletion | pendingCompletion
  deriving DecidableEq, Repr

/-- A finished label's completion not yet written (R93, R127). -/
structure Completion where
  index : Nat
  bytes : List Byte
  deriving DecidableEq, Repr

/-- The bytes of a completion write and the host address of the first (R88, R209). -/
structure HostWrite where
  address : Nat
  bytes : List Byte
  deriving DecidableEq, Repr

/-- A transfer the part makes as bus master: the host address of its first byte, its length in bytes,
and whether it writes (R85, R88, R90, R92, R101). -/
structure HostTransfer where
  address : Nat
  length : Nat
  writes : Bool
  deriving DecidableEq, Repr

/-- One ring channel (R82). -/
structure Channel where
  base : Word
  size : Nat
  fetchIndex : Nat
  state : ChanState
  stopCause : StopCause
  stopPending : Bool
  pollLatch : Bool
  hand : Option Hand
  held : List Nat
  pendingCompletions : List Completion
  autoPollTimer : Option Word
  refetchDue : Bool
  failing : Bool
  xfer : Option Xfer
  written : Option HostWrite
  deriving DecidableEq, Repr

/-- A channel after a hardware reset (R82, R103). -/
def Channel.initial : Channel :=
  { base := 0, size := 0, fetchIndex := 0, state := .stopped, stopCause := .none,
    stopPending := false, pollLatch := false, hand := none, held := [], pendingCompletions := [],
    autoPollTimer := none, refetchDue := false, failing := false, xfer := none, written := none }

/-- The BMA's mode (R101). -/
inductive ArbiterMode where
  | labelsFirst | rotate
  deriving DecidableEq, Repr

/-! ### The Composer (Chapter 6) -/

/-- The Composer's label in hand and its progress (R114). -/
structure Job where
  station : StationNo
  ctx : Nat
  nextField : Nat
  entries : Nat
  deriving DecidableEq, Repr

/-! ### Thermal monitors (Chapter 8) -/

/-- One limit record (R173). The direction and action are held as the codes of R208, since the
items of a limit given as not valid are stored unchecked (R174). -/
structure Limit where
  valid : Bool
  threshold : Nat
  direction : Nat
  action : Nat
  report : Bool
  crossed : Bool
  verdictValid : Bool
  frozen : Bool
  deriving DecidableEq, Repr

/-- A limit record after either reset (R173). -/
def Limit.initial : Limit := ⟨false, 0, 0, 0, false, false, false, false⟩

/-- Which limit the turn names (R173). -/
inductive Turn where
  | limA | limB
  deriving DecidableEq, Repr

/-- One Head Thermal Monitor (R173). -/
structure Thermal where
  interval : Option Nat
  turn : Turn
  limA : Limit
  limB : Limit
  timer : Option Word
  deriving DecidableEq, Repr

/-- A monitor after either reset (R173, R180). -/
def Thermal.initial : Thermal :=
  { interval := none, turn := .limA, limA := Limit.initial, limB := Limit.initial, timer := none }

/-- The energy band of a station (R177). -/
inductive Band where
  | normal | warm | cold
  deriving DecidableEq, Repr

/-! ### Head drives (Chapter 8) -/

/-- One strobe sub-phase: its dots, as head elements, and its width in microseconds (R169, R170). -/
structure SubPhase where
  dots : List Nat
  width : Nat
  deriving DecidableEq, Repr

/-- A Head Drive that has taken up a label (R163), with the dots of the line in progress and the
sub-phases of it still to be fired, the first being fired (R169). -/
structure Drive where
  nextLine : Nat
  live : List Element
  listPosition : Nat
  older : List Nat
  previous : List Nat
  lineDots : List Nat
  firing : List SubPhase
  deriving DecidableEq, Repr

/-- The drive at the start of a label (R163). -/
def Drive.initial : Drive :=
  { nextLine := 0, live := [], listPosition := 0, older := [], previous := [], lineDots := [],
    firing := [] }

/-! ### Stations (Chapter 7) -/

/-- What the lane is doing (R130). -/
inductive StationState where
  | offline | parked | waking | idle | printing | presenting | ejecting | checking
  | calibrating | held | fault
  deriving DecidableEq, Repr

/-- Why the station last entered FAULT (R130). -/
inductive FaultCause where
  | none | headOpen | mediaFault | applyTimeout | overrun
  deriving DecidableEq, Repr

/-- Why the station last entered WAKING (R130). -/
inductive WakeCause where
  | none | label | trigger | command | check
  deriving DecidableEq, Repr

/-- Outcome of the last station command (R151, R198). -/
inductive CommandResult where
  | none | done | state | headOpen | noMedia | loading | noHead | badCode
  deriving DecidableEq, Repr

/-- Where CHECKING, CALIBRATING or EJECTING goes when it ends (R130). -/
inductive ReturnState where
  | idle | held
  deriving DecidableEq, Repr

/-- The station's mode (R131). -/
inductive Mode where
  | apply | stream
  deriving DecidableEq, Repr

/-- The settings loaded by SET_PROFILE (R131). -/
structure Profile where
  mode : Mode
  activeLow : Bool
  filter : Nat
  applyWindow : Nat
  applyTimeout : Nat
  skipOnFault : Bool
  parkDelay : Nat
  linePeriod : Nat
  leftMargin : Nat
  pitch : Nat
  tolerance : Nat
  feedToPeel : Nat
  strobe : List Nat
  maxDots : Nat
  autoCheck : Bool
  deriving DecidableEq, Repr

/-- One pending carton (R135, R136). -/
structure Trigger where
  arrival : Word
  deadline : Word
  lastStart : Option Word
  deriving DecidableEq, Repr

/-- The kind of a line of feed: the three of PRINTING (R164), a line of EJECTING (R155), and a line
of CALIBRATING with the lines fed and edges seen since its start (R160). -/
inductive LineKind where
  | leading
  | printed
  | peel (k : Nat)
  | eject
  | calibrate (lines : Nat) (edges : Nat)
  deriving DecidableEq, Repr

/-- The line in progress, or waiting while hot hold pauses the station before it begins (R144). -/
structure Feed where
  kind : LineKind
  paused : Bool
  period : Nat
  deriving DecidableEq, Repr

/-- Class of a head element (R182). -/
inductive DotClass where
  | good | open | short
  deriving DecidableEq, Repr

/-- One failed element of a summary (R182). -/
structure FailedDot where
  element : Nat
  cls : DotClass
  reading : Byte
  deriving DecidableEq, Repr

/-- A station's last dot check summary (R182). -/
structure Summary where
  count : Nat
  dots : List FailedDot
  deriving DecidableEq, Repr

/-- One station: its controller (R130), Label Queue (R107), Head Drive, Thermal Monitor, failed-dot
map and the inputs of its lane. -/
structure Station where
  dotCount : Nat
  state : StationState
  profile : Option Profile
  power : Bool
  faultCause : FaultCause
  wakeCause : WakeCause
  holdPending : Bool
  returnState : Option ReturnState
  triggers : List Trigger
  printDeadline : Option Word
  sinceEdge : Nat
  registered : Bool
  aligned : Bool
  checkDue : Bool
  labelOut : Bool
  motor : Bool
  lastCode : BitVec 4
  lastResult : CommandResult
  filterTimer : Option Word
  parkTimer : Option Word
  wakeTimer : Option Word
  applyTimer : Option Word
  feed : Option Feed
  queue : List Label
  fetching : Option Label
  drive : Option Drive
  thermal : Thermal
  mediaLatch : Bool
  mediaPresent : Bool
  headOpen : Bool
  triggerHigh : Bool
  map : List (DotClass × Byte)
  summary : Summary
  deriving DecidableEq, Repr

/-- A station after a hardware reset (R130, R173, R182, R198, R199). DESIGN CHOICE (log 7): the
lane inputs stand at stock present, head closed, trigger low. -/
def Station.initial : Station :=
  { dotCount := 0, state := .offline, profile := none, power := false, faultCause := .none,
    wakeCause := .none, holdPending := false, returnState := none, triggers := [],
    printDeadline := none, sinceEdge := 0, registered := false, aligned := false,
    checkDue := false, labelOut := false, motor := false, lastCode := 0, lastResult := .none,
    filterTimer := none, parkTimer := none, wakeTimer := none, applyTimer := none, feed := none,
    queue := [], fetching := none, drive := none, thermal := Thermal.initial, mediaLatch := true,
    mediaPresent := true, headOpen := false, triggerHigh := false, map := [],
    summary := ⟨0, []⟩ }

/-! ### The Dot Check Unit (Chapter 9) -/

/-- How a check was asked for (R181). -/
inductive CheckOrigin where
  | command | auto
  deriving DecidableEq, Repr

/-- Where a check stands (R181). -/
inductive CheckPhase where
  | waiting | settling | measuring
  deriving DecidableEq, Repr

/-- A check in progress: the items the DCU holds while BUSY (R181). -/
structure Check where
  station : StationNo
  origin : CheckOrigin
  phase : CheckPhase
  next : Nat
  count : Nat
  dots : List FailedDot
  map : List (DotClass × Byte)
  settleTimer : Option Word
  deriving DecidableEq, Repr

/-! ### The inspection window (Chapter 10) -/

/-- The inspection address register (R203). -/
structure InspectAddress where
  offset : BitVec 8
  block : BitVec 13
  mapArea : Bool
  mapStation : BitVec 2
  postIncrement : Bool
  deriving DecidableEq, Repr

/-- The event causes of R200. -/
inductive Cause where
  | controlDone
  | stationDone (n : StationNo)
  | ringSuspended (c : Chan)
  | ringError
  | stationFault (n : StationNo)
  | cartonMissed (n : StationNo)
  | therm (n : StationNo)
  | dotcheckDone (n : StationNo)
  | recordFreed
  | configDefaulted
  deriving DecidableEq, Repr

end Sys2Proof.Machine
end

