-- ==== Sys2Proof/Config.lean ====
section
/-! DEFINITION. What the manual leaves open, as constants without a value, and the constants it fixes. -/

namespace Sys2Proof

/-- FREE VALUE (log 4). R143 and R184 let a print start and the begin of a dot check that both become
possible at an IDLE station in one event be taken in either order: true where the check comes first.
Applied to the counter State.freeIndex. -/
opaque Config.checkBeforeStart : Nat → Bool

/-- FREE VALUE (log 5). R122 gives the items of an element entry and R36 its size of 16 bytes, and no
rule says which item stands in which byte: byte j of the entry. -/
opaque Config.elementByte : Machine.Element → Nat → Byte

/-- Bytes in a block of record memory (R29). -/
def Config.blockBytes : Nat := 256

/-- The largest number of blocks a card may have (R29). -/
def Config.maxBlocks : Nat := 8192

/-- Settle time of a wake and of the DCU, in milliseconds (R158, R184). -/
def Config.settleMs : Nat := 30

/-- Overhead of a printed line in microseconds (R171). -/
def Config.lineOverhead : Nat := 30

/-- The line by which a calibration must have seen its second edge (R160). -/
def Config.calibrationLimit : Nat := 8400

end Sys2Proof
end

