-- ==== Sys2Proof/Machine/State.lean ====
section
/-! DEFINITION. The state of the part as plain data, the reasons a step can stop, and the state right
after a hardware reset. -/

namespace Sys2Proof.Machine

/-- Reasons the machine stops. -/
inductive Fault where
  /-- A write to a block of record memory that the card does not have (R29); raised by
  BODY_BURST_END, LABEL_DATA_TRANSFER_END, COMPOSER_FIELD_STEP and COMPOSER_COMPLETE when a block
  list names a block at or above the pool total. No run from reset reaches it. Safe (log 19). -/
  | noSuchBlock (block : Nat)
  deriving DecidableEq, Repr

/-- Commands that are given no meaning. -/
inductive Refusal where
  /-- An arm of exec that has no meaning yet; raised by exec. Safe. -/
  | notModelled (mnemonic : String)
  /-- A command that is not well formed, such as a descriptor of other than 64 bytes; raised by
  the meanings whose operand has a fixed form. Safe (log 18). -/
  | illFormed
  /-- A read transfer that brings other than the number of bytes R101 gives it; raised by
  BODY_BURST_END and LABEL_DATA_TRANSFER_END. Safe (log 18). -/
  | transferLength (expected : Nat)
  deriving DecidableEq, Repr

/-- Record memory as bytes: address and byte, addresses strictly rising, no entry equal to what an
unlisted address reads as. -/
abbrev Memory := List Host.Cell

/-- The state of the part. -/
structure State where
  /-- Commands waiting, first in first out. -/
  pending : List Instr
  /-- The model's own counter of free values taken (log 4). -/
  freeIndex : Nat
  /-- The data of the last read of a register whose read has an effect (log 17). -/
  readData : Word
  /-- The millisecond clock (R197). -/
  clock : Word
  /-- The configuration ROM is loading (R195, R206). -/
  loading : Bool
  /-- The last ROM load applied the defaults (R195, R207). -/
  defaulted : Bool
  /-- The board tag register (R195). -/
  boardTag : Word
  /-- The BMA's mode (R101). -/
  arbiter : ArbiterMode
  /-- The code of the auto-poll interval (R87, R194). -/
  autoPoll : BitVec 3
  /-- Event status, bits 0..28 (R200). -/
  eventStatus : BitVec 29
  /-- Event enable, bits 0..28 (R200). -/
  eventEnable : BitVec 29
  /-- The inspection address (R203). -/
  inspect : InspectAddress
  /-- The number of blocks (R29). -/
  total : Nat
  /-- The free list (R31). -/
  free : List Nat
  /-- The bytes of record memory (R29). -/
  memory : Memory
  /-- The bytes of record memory that hold element entries (R37, log 5). -/
  elements : List (Nat × Option ElemByte)
  /-- The records that are not FREE, by handle (R1). -/
  table : List (Nat × Record)
  /-- RCH-C (R82). -/
  control : Channel
  /-- RCH-0..RCH-3 (R82). -/
  rings : Four Channel
  /-- The channel whose transfer holds the bus master (R101). -/
  bus : Option Chan
  /-- The transfer in progress: where in host memory, how long, which way (R90, R92, R101). -/
  transfer : Option HostTransfer
  /-- The BMA's rotation pointer (R101). -/
  pointer : Chan
  /-- The Composer's label in hand, absent while IDLE (R114). -/
  composer : Option Job
  /-- The next acceptance stamp (R108). -/
  nextStamp : Nat
  /-- The four stations. -/
  stations : Four Station
  /-- The check in progress, absent while the DCU is IDLE (R181). -/
  check : Option Check
  /-- The DCU's pending set (R181). -/
  checkPending : Four Bool
  deriving DecidableEq, Repr

/-- The machine right after a hardware reset, while the ROM loads (R206). -/
def State.reset : State :=
  { pending := [], freeIndex := 0, readData := 0, clock := 0, loading := true, defaulted := false,
    boardTag := 0, arbiter := .labelsFirst, autoPoll := 0, eventStatus := 0, eventEnable := 0,
    inspect := ⟨0, 0, false, 0, false⟩, total := 0, free := [], memory := [], elements := [],
    table := [], control := Channel.initial, rings := Four.fill Channel.initial, bus := none,
    transfer := none, pointer := .station .s0, composer := none, nextStamp := 0,
    stations := Four.fill Station.initial, check := none, checkPending := Four.fill false }

end Sys2Proof.Machine
end

