-- ==== Sys2Proof/Machine/Ops.lean ====
section
/-! DEFINITION. The named operations over the state: sparse maps, record memory, records, channels,
stations, event causes and the clock. -/

namespace Sys2Proof.Machine

/-! ### Numbers and bytes -/

/-- The quotient rounded up to the next whole number (00_scope, "Ranges"). -/
def ceilDiv (x y : Nat) : Nat := (x + y - 1) / y

/-- The byte of a number. -/
def byte (n : Nat) : Byte := BitVec.ofNat 8 n

/-- A number as k bytes, least significant first (R208). -/
def bytesLE : Nat → Nat → List Byte
  | 0, _ => []
  | k + 1, n => byte n :: bytesLE k (n / 256)

/-- How the content of a body, a descriptor or a profile is read: the byte at a position. -/
abbrev Reader := Nat → Nat

/-- Two bytes at a position, little-endian (R208, R211). -/
def le16 (rd : Reader) (i : Nat) : Nat := rd i + 256 * rd (i + 1)

/-- Three bytes at a position, little-endian. -/
def le24 (rd : Reader) (i : Nat) : Nat := le16 rd i + 65536 * rd (i + 2)

/-- Four bytes at a position, little-endian. -/
def le32 (rd : Reader) (i : Nat) : Nat := le16 rd i + 65536 * le16 rd (i + 2)

/-- The reader of a list of bytes. -/
def listReader (b : List Byte) : Reader := fun i => (b.getD i 0).toNat

/-! ### Sparse maps in canonical form -/

/-- The value at a key; an unlisted key has the default. -/
def sparseGet {α : Type} (d : α) : List (Nat × α) → Nat → α
  | [], _ => d
  | (k, v) :: m, a => if a = k then v else sparseGet d m a

/-- Enter a value at a key, keeping the keys rising. -/
def sparsePut {α : Type} : List (Nat × α) → Nat → α → List (Nat × α)
  | [], a, v => [(a, v)]
  | (k, w) :: m, a, v =>
    if a < k then (a, v) :: (k, w) :: m
    else if a = k then (a, v) :: m
    else (k, w) :: sparsePut m a v

/-- Remove a key. -/
def sparseDel {α : Type} : List (Nat × α) → Nat → List (Nat × α)
  | [], _ => []
  | (k, w) :: m, a =>
    if a < k then (k, w) :: m else if a = k then m else (k, w) :: sparseDel m a

/-- Set a key: the default is not listed. -/
def sparseSet {α : Type} [DecidableEq α] (d : α) (m : List (Nat × α)) (a : Nat) (v : α) :
    List (Nat × α) :=
  if v = d then sparseDel m a else sparsePut m a v

/-- Every key of the map is above a bound. -/
def sparseAbove {α : Type} (b : Nat) : List (Nat × α) → Bool
  | [] => true
  | (k, _) :: _ => decide (b < k)

/-- The canonical form: keys strictly rising, no entry equal to the default. -/
def sparseWf {α : Type} [DecidableEq α] (d : α) : List (Nat × α) → Bool
  | [] => true
  | (k, v) :: m => decide (v ≠ d) && sparseAbove k m && sparseWf d m

/-! ### Record memory (Chapter 2) -/

/-- What a byte of record memory that nothing has written reads as. DESIGN CHOICE (log 6), unsafe:
R31 says only that a block holds whatever the SRAM held. -/
def unwrittenByte : Byte := 0

/-- Record memory is in canonical form. -/
def Memory.wf (m : Memory) : Bool := sparseWf unwrittenByte m

/-- The byte at an address. -/
def Memory.read (m : Memory) (a : Nat) : Byte := sparseGet unwrittenByte m a

/-- The memory with one byte written. -/
def Memory.write (m : Memory) (a : Nat) (b : Byte) : Memory := sparseSet unwrittenByte m a b

/-- The byte of record memory at an address: a byte of an element entry is a free value (log 5). -/
def State.readByte (s : State) (a : Nat) : Byte :=
  match sparseGet none s.elements a with
  | some e => Config.elementByte e.entry e.byte
  | none => s.memory.read a

/-- Write one byte of record memory. -/
def State.writeByte (s : State) (a : Nat) (b : Byte) : State :=
  { s with memory := s.memory.write a b, elements := sparseSet none s.elements a none }

/-- Write bytes of record memory at rising addresses. -/
def State.writeBytes (s : State) (a : Nat) : List Byte → State
  | [] => s
  | b :: bs => (s.writeByte a b).writeBytes (a + 1) bs

/-- The address of a block (R29). -/
def blockAddress (b : Nat) : Nat := b * Config.blockBytes

/-- The address of byte i of the content of a block list: entry k of the list carries bytes
256 k to 256 k + 255 (R30). A byte beyond the list has no address. -/
def contentAddress? (blocks : List Nat) (i : Nat) : Option Nat :=
  (blocks[i / Config.blockBytes]?).map fun b => blockAddress b + i % Config.blockBytes

/-- The reader of the content of a block list (R30). -/
def State.content (s : State) (blocks : List Nat) : Reader := fun i =>
  match contentAddress? blocks i with
  | some a => (s.readByte a).toNat
  | none => 0

/-- Write one byte of the content of a block list. -/
def State.writeContent (s : State) (blocks : List Nat) (i : Nat) (b : Byte) : State :=
  match contentAddress? blocks i with
  | some a => s.writeByte a b
  | none => s

/-- Entries of 16 bytes in a block (R36). -/
def entriesPerBlock : Nat := 16

/-- The address of element entry e of the element blocks of a reservation (R37). -/
def entryAddress? (blocks : List Nat) (e : Nat) : Option Nat :=
  (blocks[e / entriesPerBlock]?).map fun b => blockAddress b + 16 * (e % entriesPerBlock)

/-- Write byte j and the bytes after it of an element entry at an address. -/
def State.writeEntryFrom (s : State) (a : Nat) (x : Element) : Nat → Nat → State
  | 0, _ => s
  | k + 1, j =>
    State.writeEntryFrom
      { s with memory := s.memory.write (a + j) unwrittenByte,
               elements := sparseSet none s.elements (a + j) (some ⟨x, j⟩) } a x k (j + 1)

/-- Write an element entry as entry e of the element blocks (R122). -/
def State.writeEntry (s : State) (blocks : List Nat) (e : Nat) (x : Element) : State :=
  match entryAddress? blocks e with
  | some a => s.writeEntryFrom a x 16 0
  | none => s

/-- Write element entries from entry e onward. -/
def State.writeEntries (s : State) (blocks : List Nat) (e : Nat) : List Element → State
  | [] => s
  | x :: xs => (s.writeEntry blocks e x).writeEntries blocks (e + 1) xs

/-- Element entry e of the element blocks, where one stands whole at its place. -/
def State.entryAt? (s : State) (blocks : List Nat) (e : Nat) : Option Element :=
  match entryAddress? blocks e with
  | some a => (sparseGet none s.elements a).map fun b => b.entry
  | none => none

/-- The first k element entries of the element blocks. -/
def State.entries (s : State) (blocks : List Nat) (k : Nat) : List Element :=
  (List.range k).filterMap fun e => s.entryAt? blocks e

/-- The first block of a list that the card does not have (R29). -/
def State.missingBlock? (s : State) (blocks : List Nat) : Option Nat :=
  blocks.find? fun b => decide (s.total ≤ b)

/-! ### The Block Pool (Chapter 2) -/

/-- An allocation request: the count from the front of the free list, or refused (R32). -/
def State.allocate (s : State) (count : Nat) : Option (List Nat × State) :=
  if count ≤ s.free.length then
    some (s.free.take count, { s with free := s.free.drop count })
  else none

/-- A freeing: the list goes to the back of the free list (R35). -/
def State.freeBlocks (s : State) (blocks : List Nat) : State :=
  { s with free := s.free ++ blocks }

/-! ### Event causes (R200, R201) -/

/-- The bit of a cause (R200). -/
def Cause.bit : Cause → Nat
  | .controlDone => 0
  | .stationDone n => 1 + n.toNat
  | .ringSuspended c => 5 + c.toNat
  | .ringError => 10
  | .stationFault n => 11 + n.toNat
  | .cartonMissed n => 15 + n.toNat
  | .therm n => 19 + n.toNat
  | .dotcheckDone n => 23 + n.toNat
  | .recordFreed => 27
  | .configDefaulted => 28

/-- A raise of a cause sets its status bit (R201). -/
def State.raise (s : State) (c : Cause) : State :=
  { s with eventStatus := s.eventStatus ||| BitVec.ofNat 29 (2 ^ c.bit) }

/-! ### The clock (R197) -/

/-- A time lies at or before the clock when their difference modulo 2^32 is below 2^31 (R197). -/
def atOrBefore (t clock : Word) : Bool := decide ((clock - t).toNat < 2 ^ 31)

/-- A time lies before another (R197). -/
def earlier (t u : Word) : Bool := decide (t ≠ u) && atOrBefore t u

/-- An expiry at time t is taken when the clock has reached it: where the clock still stands before
t, it comes to t. DESIGN CHOICE (log 2). -/
def State.reachTime (s : State) (t : Word) : State :=
  if atOrBefore t s.clock then s else { s with clock := t }

/-- A time of so many milliseconds after another. -/
def afterMs (t : Word) (ms : Nat) : Word := t + BitVec.ofNat 32 ms

/-! ### Stations and channels -/

/-- Station n. -/
def State.station (s : State) (n : StationNo) : Station := s.stations.get n

/-- Change station n. -/
def State.updStation (s : State) (n : StationNo) (f : Station → Station) : State :=
  { s with stations := s.stations.set n (f (s.stations.get n)) }

/-- Channel c. -/
def State.chan (s : State) : Chan → Channel
  | .control => s.control
  | .station n => s.rings.get n

/-- Change channel c. -/
def State.updChan (s : State) (c : Chan) (f : Channel → Channel) : State :=
  match c with
  | .control => { s with control := f s.control }
  | .station n => { s with rings := s.rings.set n (f (s.rings.get n)) }

/-- A station is fitted when the ROM gives it a dot count (R130). -/
def Station.fitted (t : Station) : Bool := t.dotCount != 0

/-! ### Records (Chapter 1) -/

/-- The record of a handle (R1). -/
def State.record (s : State) (h : Nat) : Record := sparseGet Record.empty s.table h

/-- Change the record of a handle. -/
def State.setRecord (s : State) (h : Nat) (r : Record) : State :=
  { s with table := sparseSet Record.empty s.table h r }

/-- Raise the referrer count of every handle of a reference list (R8). -/
def State.raiseReferrers (s : State) : List Nat → State
  | [] => s
  | h :: hs =>
    let r := s.record h
    (s.setRecord h { r with referrers := r.referrers + 1 }).raiseReferrers hs

/-- Lower the referrer count of every handle of a reference list (R8). -/
def State.lowerReferrers (s : State) : List Nat → State
  | [] => s
  | h :: hs =>
    let r := s.record h
    (s.setRecord h { r with referrers := r.referrers - 1 }).lowerReferrers hs

/-- A current or prior body is freed: its blocks return to the pool and the referrers it named fall
(R5, R35). -/
def State.freeBody (s : State) (b : Body) : State :=
  (s.freeBlocks b.blocks).lowerReferrers b.refs

/-- The bodies of an absent or present body are freed. -/
def State.freeBody? (s : State) : Option Body → State
  | none => s
  | some b => s.freeBody b

/-- The pins on all bodies of a record together. -/
def Record.pins (r : Record) : Nat :=
  (match r.current with | some b => b.pins | none => 0) +
  (match r.prior with | some b => b.pins | none => 0)

/-- A record becomes FREE with its current and then its prior body freed (R13, R24, log 10). -/
def State.freeRecord (s : State) (h : Nat) : State :=
  let r := s.record h
  ((s.setRecord h Record.empty).freeBody? r.current).freeBody? r.prior

/-- A RETIRING record whose pins on all bodies have fallen to zero is freed and RECORD_FREED is
raised (R13). -/
def State.freeIfRetired (s : State) (h : Nat) : State :=
  let r := s.record h
  if r.state = .retiring ∧ r.pins = 0 then (s.freeRecord h).raise .recordFreed else s

/-- Take a pin on the current body of a handle (R10). -/
def State.pinCurrent (s : State) (h : Nat) : State :=
  let r := s.record h
  match r.current with
  | some b => s.setRecord h { r with current := some { b with pins := b.pins + 1 } }
  | none => s

/-- Take pins on the current bodies of several handles. -/
def State.pinAll (s : State) : List Nat → State
  | [] => s
  | h :: hs => (s.pinCurrent h).pinAll hs

/-- Release a pin on the body of a handle that carries a version (R6, R11): a prior body without
pins is freed (R7), and then a RETIRING record without pins (R13), so that where both come in one event
the prior body's blocks go back before the current body's (log 33). -/
def State.unpinBody (s : State) (h v : Nat) : State :=
  let r := s.record h
  match r.current, r.prior with
  | some c, p =>
    if c.version = v then
      (s.setRecord h { r with current := some { c with pins := c.pins - 1 } }).freeIfRetired h
    else
      match p with
      | some b =>
        if b.version = v then
          if b.pins ≤ 1 then
            ((s.setRecord h { r with prior := none }).freeBody b).freeIfRetired h
          else
            s.setRecord h { r with prior := some { b with pins := b.pins - 1 } }
        else s
      | none => s
  | none, _ => s

/-- Release a counter pin, which counts on the counter's current body (R6, R12). -/
def State.unpinCounter (s : State) (h : Nat) : State :=
  let r := s.record h
  match r.current with
  | some c =>
    (s.setRecord h { r with current := some { c with pins := c.pins - 1 } }).freeIfRetired h
  | none => s

/-- Release the pins of a list of pinned bodies, one entry after another (log 43). -/
def State.unpinBodies (s : State) : List (Nat × Nat) → State
  | [] => s
  | (h, v) :: rest => (s.unpinBody h v).unpinBodies rest

/-- Release the counter pins of a list of handles, one after another (log 43). -/
def State.unpinCounters (s : State) : List Nat → State
  | [] => s
  | h :: rest => (s.unpinCounter h).unpinCounters rest

/-- Release every pin a context still holds (R11). DESIGN CHOICE (log 43): where this frees bodies of several
records, their block lists go back entry by entry, the pinned bodies first and then the counter pins, each in
the order of R105; R11 and R35 name no order between records. -/
def State.releasePins (s : State) (l : Label) : State :=
  (s.unpinBodies l.pinned).unpinCounters l.counterPins

/-- The body of a handle that carries a version, current or prior (R6). -/
def State.versionBody? (s : State) (h v : Nat) : Option Body :=
  let r := s.record h
  match r.current with
  | some c => if c.version = v then some c else r.prior.filter fun b => b.version == v
  | none => none

/-- The content of the body of a handle that carries a version. -/
def State.versionContent (s : State) (h v : Nat) : Reader :=
  match s.versionBody? h v with
  | some b => s.content b.blocks
  | none => fun _ => 0

/-- The content of the form body a label pinned (R43, R51). -/
def State.formContent (s : State) (l : Label) : Reader := s.versionContent l.form l.formVersion

end Sys2Proof.Machine
end

