-- ==== Sys2Proof/WellFormed.lean ====
section
/-! DEFINITION. Which commands are well formed: operand sizes that no rule of the part lets differ. -/

namespace Sys2Proof

/-- The offsets of the registers that take a write (R192). -/
def writableOffset (o : Nat) : Bool :=
  o == 0x00 || o == 0x1C || o == 0x20 || o == 0x24 || o == 0x28 ||
  (decide (0x40 ≤ o) && decide (o < 0x90) && (o % 16 == 0 || o % 16 == 4 || o % 16 == 8)) ||
  (decide (0xA0 ≤ o) && decide (o < 0xE0) && o % 16 == 0)

/-- The station command codes of R198: 1 HOLD, 2 RESUME, 3 FLUSH, 4 WAKE, 5 PARK. -/
def knownCommandCode (v : Word) : Bool :=
  let c := v.toNat % 16
  decide (1 ≤ c) && decide (c ≤ 5)

/-- A register access reads or writes at least one byte (R193). -/
def lanesOk (l : BitVec 4) : Bool := l != 0

/-- A command is well formed: the ROM brings its 16 bytes (R205), a descriptor and a profile their 64
(R101), a burst or data transfer 1 to 256 (R101), a trigger queue has places 0..3 (R135), an access
addresses a byte, an ignored write is one that R193 ignores, and a bad code is no command's code. -/
def Instr.wellFormed : Instr → Bool
  | .hardwareReset => true
  | .configRomLoadEnd none => true
  | .configRomLoadEnd (some rom) => rom.length == 16
  | .engineReset _ => true
  | .ringStart _ _ => true
  | .ringStop _ _ => true
  | .setAutoPollInterval _ => true
  | .setArbiterMode _ => true
  | .pollDemand _ => true
  | .ringBaseWrite _ _ => true
  | .ringSizeWrite _ _ => true
  | .ringFetchIndexWrite _ _ => true
  | .eventStatusClear _ => true
  | .eventEnableWrite _ => true
  | .inspectionAddressWrite _ => true
  | .inspectionDataRead l => lanesOk l
  | .statusARead _ l => lanesOk l
  | .registerWriteIgnored o l _ => lanesOk l && (!writableOffset o.toNat || l != 15)
  | .hold _ => true
  | .resume _ => true
  | .flush _ => true
  | .wake _ => true
  | .park _ => true
  | .stationCommandBadCode _ v => !knownCommandCode v
  | .descriptorFetchEnd _ b => b.length == 64
  | .define => true
  | .amend => true
  | .retire => true
  | .query => true
  | .setProfile b => b.length == 64
  | .setLimits => true
  | .calibrate => true
  | .dotcheck => true
  | .bodyBurstEnd b => decide (1 ≤ b.length) && decide (b.length ≤ 256)
  | .labelDataTransferEnd _ b => decide (1 ≤ b.length) && decide (b.length ≤ 256)
  | .completionWriteEnd _ => true
  | .transferBusError _ => true
  | .autoPollExpiry _ => true
  | .composerFieldStep => true
  | .composerComplete => true
  | .markedHeadFinish _ => true
  | .triggerLevelChange _ _ => true
  | .triggerArrival _ => true
  | .lastStartExpiry _ k => decide (k < 4)
  | .deadlineExpiry _ k => decide (k < 4)
  | .linePeriodExpiry _ => true
  | .strobeSubphaseEnd _ => true
  | .gapEdge _ => true
  | .mediaPresentFall _ _ => true
  | .applied _ => true
  | .applyTimeout _ => true
  | .headOpenActive _ => true
  | .headOpenInactive _ => true
  | .parkTimerExpiry _ => true
  | .wakeSettleExpiry _ => true
  | .dcuSettleExpiry => true
  | .elementMeasurementEnd _ => true
  | .thermalSample _ _ => true

end Sys2Proof
end

