-- ==== Sys2Proof/Machine/Operands.lean ====
section
/-! DEFINITION. The fields of register writes, descriptors and profiles (R194, R196, R203, R208, R210, R211). -/

namespace Sys2Proof.Machine

/-! ### Register writes -/

/-- Bit 0 of engine control: engine reset (R194). -/
def ctlReset (w : Word) : Bool := w.getLsbD 0

/-- Bits 4..8 of engine control: START of a ring (R194). -/
def ctlStart (w : Word) (c : Chan) : Bool := w.getLsbD (4 + c.toNat)

/-- Bits 12..16 of engine control: STOP of a ring (R194). -/
def ctlStop (w : Word) (c : Chan) : Bool := w.getLsbD (12 + c.toNat)

/-- Bit 20 of engine control: the arbiter mode (R194). -/
def ctlArbiter (w : Word) : ArbiterMode := if w.getLsbD 20 then .rotate else .labelsFirst

/-- Bits 24..26 of engine control: the auto-poll interval code (R194). -/
def ctlAutoPoll (w : Word) : BitVec 3 := w.extractLsb' 24 3

/-- Bit 31 of engine control: the settings of this write are taken (R194). -/
def ctlSettings (w : Word) : Bool := w.getLsbD 31

/-- The auto-poll interval of a code in milliseconds, none for OFF (R194). -/
def autoPollMs (code : BitVec 3) : Option Nat :=
  match code.toNat with
  | 1 => some 1
  | 2 => some 2
  | 3 => some 5
  | 4 => some 10
  | 5 => some 20
  | 6 => some 50
  | 7 => some 100
  | _ => none

/-- Bits 0..4 of poll demand name rings (R196). -/
def pollNames (w : Word) (c : Chan) : Bool := w.getLsbD c.toNat

/-- The address a ring base write gives: its low six bits are ignored (R83). -/
def ringBaseOf (v : Word) : Word := v &&& 0xFFFFFFC0#32

/-- The size a ring size write gives: bits 0..10 name it, unnamed bits are ignored (R83, R193, R196, log 27). -/
def ringSizeOf (v : Word) : Nat := v.toNat % 2048

/-- The index a fetch index write gives: bits 0..9 (R193, R196, log 27). -/
def ringIndexOf (v : Word) : Nat := v.toNat % 1024

/-- The fields of an inspection address write; bits 0..1 of the offset are taken as 0 (R203). -/
def inspectAddressOf (v : Word) : InspectAddress :=
  { offset := v.extractLsb' 0 8 &&& 0xFC#8, block := v.extractLsb' 8 13,
    mapArea := v.getLsbD 24, mapStation := v.extractLsb' 25 2, postIncrement := v.getLsbD 28 }

/-- The word of which the addressed bytes alone are read (R193). -/
def laneMask (lanes : BitVec 4) : Word :=
  (if lanes.getLsbD 0 then 0x000000FF#32 else 0) ||| (if lanes.getLsbD 1 then 0x0000FF00#32 else 0)
    ||| (if lanes.getLsbD 2 then 0x00FF0000#32 else 0)
    ||| (if lanes.getLsbD 3 then 0xFF000000#32 else 0)

/-! ### Descriptors (R208, R210) -/

/-- The owner field is byte 63: 01h is PART, any other value is read as HOST (R84, R208). -/
def ownedByPart (d : List Byte) : Bool := d.getD 63 0 == 1

/-- The eight control commands and the codes that name none (R208). -/
inductive ControlCode where
  | define | amend | retire | query | setProfile | setLimits | calibrate | dotcheck | unknown
  deriving DecidableEq, Repr

/-- The command code of a control descriptor: byte 0 (R208). -/
def controlCode (d : List Byte) : ControlCode :=
  match (d.getD 0 0).toNat with
  | 1 => .define
  | 2 => .amend
  | 3 => .retire
  | 4 => .query
  | 5 => .setProfile
  | 6 => .setLimits
  | 7 => .calibrate
  | 8 => .dotcheck
  | _ => .unknown

/-- Whether a command names a station (R208). -/
def ControlCode.namesStation : ControlCode → Bool
  | .setProfile | .setLimits | .calibrate | .dotcheck => true
  | .define | .amend | .retire | .query | .unknown => false

/-- Whether a command is a record command (R14). -/
def ControlCode.isRecord : ControlCode → Bool
  | .define | .amend | .retire | .query => true
  | .setProfile | .setLimits | .calibrate | .dotcheck | .unknown => false

/-- Station number: byte 1 (R208). -/
def ctlStation? (d : List Byte) : Option StationNo := StationNo.ofNat? (d.getD 1 0).toNat

/-- Handle: bytes 2..3 (R208). -/
def ctlHandle (d : List Byte) : Nat := le16 (listReader d) 2

/-- A kind by its code (R208). -/
def kindOf? (code : Nat) : Option Kind :=
  match code with
  | 1 => some .form
  | 2 => some .font
  | 3 => some .symbology
  | 4 => some .counter
  | _ => none

/-- Kind or expected kind: byte 4 (R208). -/
def ctlKind? (d : List Byte) : Option Kind := kindOf? (d.getD 4 0).toNat

/-- Expected version: bytes 6..7 (R208). -/
def ctlVersion (d : List Byte) : Nat := le16 (listReader d) 6

/-- Name tag: bytes 8..15 (R208). -/
def ctlTag (d : List Byte) : List Byte := (List.range 8).map fun i => d.getD (8 + i) 0

/-- Body or profile address: bytes 16..19 (R208). -/
def ctlAddress (d : List Byte) : Nat := le32 (listReader d) 16

/-- Body length: bytes 20..23 (R208). -/
def ctlLength (d : List Byte) : Nat := le32 (listReader d) 20

/-- Sample interval: byte 8 (R208). -/
def ctlInterval (d : List Byte) : Nat := (d.getD 8 0).toNat

/-- A limit of a SET_LIMITS descriptor: flags, threshold, direction, action at a position; its
verdict and flags are as SET_LIMITS leaves them (R174, R208). -/
def ctlLimit (d : List Byte) (at_ : Nat) : Limit :=
  { valid := (d.getD at_ 0).getLsbD 0, report := (d.getD at_ 0).getLsbD 1,
    threshold := (d.getD (at_ + 1) 0).toNat, direction := (d.getD (at_ + 2) 0).toNat,
    action := (d.getD (at_ + 3) 0).toNat, crossed := false, verdictValid := false,
    frozen := false }

/-- Kind code 10h LABEL in byte 0 of a label descriptor (R210). -/
def isLabel (d : List Byte) : Bool := d.getD 0 0 == 0x10

/-- The dot-avoid option: bit 0 of byte 1 (R210). -/
def labelDotAvoid (d : List Byte) : Bool := (d.getD 1 0).getLsbD 0

/-- Form handle: bytes 2..3 (R210). -/
def labelForm (d : List Byte) : Nat := le16 (listReader d) 2

/-- Required version: bytes 4..5 (R210). -/
def labelVersion (d : List Byte) : Nat := le16 (listReader d) 4

/-- Slot count: byte 6 (R210). -/
def labelSlotCount (d : List Byte) : Nat := (d.getD 6 0).toNat

/-- Data length: bytes 7..8 (R210). -/
def labelDataLength (d : List Byte) : Nat := le16 (listReader d) 7

/-- Data address: bytes 13..16 (R210). -/
def labelDataAddress (d : List Byte) : Nat := le32 (listReader d) 13

/-! ### The profile (R131, R211) -/

/-- A value lies in lo..hi. -/
def within (lo hi v : Nat) : Bool := decide (lo ≤ v) && decide (v ≤ hi)

/-- The items of R131 in order, each with whether its value is in range for a head of so many dots. -/
def profileChecks (rd : Reader) (dotCount : Nat) : List (Nat × Bool) :=
  [ (1, within 0 1 (rd 0)),
    (2, within 0 1 (rd 1)),
    (3, rd 2 == 0 || rd 2 == 1 || rd 2 == 2 || rd 2 == 4 || rd 2 == 8),
    (4, within 50 10000 (le16 rd 4)),
    (5, within 10 5000 (le16 rd 6)),
    (6, within 0 1 (rd 3)),
    (7, within 0 255 (rd 8)),
    (8, within 200 5000 (le16 rd 10)),
    (9, decide (le16 rd 12 + 8 ≤ dotCount)),
    (10, within 16 4200 (le16 rd 14)),
    (11, within 1 64 (rd 16)),
    (12, within 0 1024 (le16 rd 18)),
    (13, (List.range 12).all fun i => rd (22 + i) != 0),
    (14, within 32 1024 (le16 rd 20)),
    (15, within 0 1 (rd 9)) ]

/-- The number of the first item out of range (R131). -/
def profileFault? (rd : Reader) (dotCount : Nat) : Option Nat :=
  ((profileChecks rd dotCount).find? fun p => !p.2).map fun p => p.1

/-- The profile a block of 64 bytes holds (R211). -/
def profileOf (rd : Reader) : Profile :=
  { mode := if rd 0 = 0 then .apply else .stream,
    activeLow := rd 1 == 1,
    filter := rd 2,
    applyWindow := le16 rd 4,
    applyTimeout := le16 rd 6,
    skipOnFault := rd 3 == 1,
    parkDelay := rd 8,
    linePeriod := le16 rd 10,
    leftMargin := le16 rd 12,
    pitch := le16 rd 14,
    tolerance := rd 16,
    feedToPeel := le16 rd 18,
    strobe := (List.range 12).map fun i => 10 * rd (22 + i),
    maxDots := le16 rd 20,
    autoCheck := rd 9 == 1 }

end Sys2Proof.Machine
end

