-- ==== Sys2Proof/Machine/Bodies.lean ====
section
/-! DEFINITION. The content of FORM, FONT, SYMBOLOGY and COUNTER bodies and their validation (Chapters 3
and 4, layouts of R211 and R212). -/

namespace Sys2Proof.Machine

/-! ### Entry indices of a refused body (R54, R61, R69, R76) -/

/-- A header fault (R54). -/
def idxHeader : Nat := 0xFFFE
/-- A substitute or start pattern fault (R61, R69). -/
def idxThird : Nat := 0xFFFD
/-- A stop pattern fault (R69). -/
def idxStop : Nat := 0xFFFC
/-- A coverage fault (R69). -/
def idxCoverage : Nat := 0xFFFB
/-- A body length refused when the command is taken (R15, R19). -/
def idxLength : Nat := 0xFFFF

/-- The first true condition's index. -/
def firstFault : List (Bool × Nat) → Option Nat
  | [] => none
  | (b, i) :: rest => if b then some i else firstFault rest

/-! ### FORM bodies (R41 to R57) -/

/-- Form length in lines (R41, R211). -/
def formLength (rd : Reader) : Nat := le16 rd 0
/-- Form width in dots. -/
def formWidth (rd : Reader) : Nat := le16 rd 2
/-- Darkness, signed. -/
def formDarkness (rd : Reader) : Int := (BitVec.ofNat 8 (rd 4)).toInt
/-- Field count. -/
def formFieldCount (rd : Reader) : Nat := rd 5

/-- What a field draws (R44). -/
inductive FieldKind where
  | text | barcode | rule
  deriving DecidableEq, Repr

/-- Where a field's string comes from (R44). -/
inductive Source where
  | constant | slot | counter
  deriving DecidableEq, Repr

/-- The items of a field entry (R44, R211); kind, rotation and source as their codes name them. -/
structure Field where
  kind : Option FieldKind
  rot90 : Option Bool
  x : Nat
  y : Nat
  source : Option Source
  maxChars : Nat
  drawHandle : Nat
  counterHandle : Nat
  slot : Nat
  constLength : Nat
  moduleDots : Nat
  maxShift : Nat
  barHeight : Nat
  ruleWidth : Nat
  ruleHeight : Nat
  constText : List Nat
  deriving DecidableEq, Repr

/-- The position of field entry i (R41). -/
def fieldOffset (i : Nat) : Nat := 32 + 64 * i

/-- Field entry i of a form body (R211). -/
def formField (rd : Reader) (i : Nat) : Field :=
  let o := fieldOffset i
  { kind := match rd o with
      | 1 => some .text
      | 2 => some .barcode
      | 3 => some .rule
      | _ => none,
    rot90 := match rd (o + 1) with
      | 0 => some false
      | 1 => some true
      | _ => none,
    x := le16 rd (o + 2), y := le16 rd (o + 4),
    source := match rd (o + 6) with
      | 1 => some .constant
      | 2 => some .slot
      | 3 => some .counter
      | _ => none,
    maxChars := rd (o + 7), drawHandle := le16 rd (o + 8), counterHandle := le16 rd (o + 10),
    slot := rd (o + 12), constLength := rd (o + 13), moduleDots := rd (o + 14),
    maxShift := rd (o + 15), barHeight := le16 rd (o + 16), ruleWidth := le16 rd (o + 18),
    ruleHeight := le16 rd (o + 20),
    constText := (List.range 32).map fun j => rd (o + 32 + j) }

/-- The fields of a form body in field order. -/
def formFields (rd : Reader) : List Field :=
  (List.range (formFieldCount rd)).map (formField rd)

/-- A TEXT or BARCODE field has a source (R44). -/
def Field.sourced (f : Field) : Bool := f.kind == some .text || f.kind == some .barcode

/-- The handles a field names, in the order of R52, each with the kind of record required (R57). -/
def Field.handles (f : Field) : List (Nat × Kind) :=
  let counter := if f.source = some .counter then [(f.counterHandle, Kind.counter)] else []
  match f.kind with
  | some .text => (f.drawHandle, .font) :: counter
  | some .barcode => (f.drawHandle, .symbology) :: counter
  | some .rule => []
  | none => []

/-- Add a handle to a list that holds each once (R52). -/
def addHandle (l : List Nat) (h : Nat) : List Nat := if l.contains h then l else l ++ [h]

/-- The reference list of a form's fields (R52). -/
def referenceList (fields : List Field) : List Nat :=
  fields.foldl (fun l f => f.handles.foldl (fun l p => addHandle l p.1) l) []

/-- Checks 1 to 13 of R55 on one field: some check fails. -/
def Field.faulty (f : Field) (width length : Nat) : Bool :=
  f.kind.isNone || f.rot90.isNone || decide (width ≤ f.x) || decide (length ≤ f.y) ||
  (f.sourced && (f.source.isNone || !within 1 96 f.maxChars ||
    (f.source == some .constant &&
      (!within 1 32 f.constLength || decide (f.maxChars < f.constLength))) ||
    (f.source == some .slot && decide (15 < f.slot)))) ||
  (f.kind == some .barcode && (!within 1 16 f.moduleDots || !within 1 1024 f.barHeight ||
    decide (63 < f.maxShift))) ||
  (f.kind == some .rule && (!within 1 4096 f.ruleWidth || !within 1 4096 f.ruleHeight))

/-- The running counts of the field pass (R56). -/
structure FieldCounts where
  barcodes : Nat
  counters : List Nat
  handles : List Nat
  deriving DecidableEq, Repr

/-- The counts with a field taken in (R56). -/
def FieldCounts.take (c : FieldCounts) (f : Field) : FieldCounts :=
  { barcodes := if f.kind = some .barcode then c.barcodes + 1 else c.barcodes,
    counters := if f.sourced && f.source == some .counter then addHandle c.counters f.counterHandle
      else c.counters,
    handles := f.handles.foldl (fun l p => addHandle l p.1) c.handles }

/-- A limit of R56 is passed. -/
def FieldCounts.over (c : FieldCounts) : Bool :=
  decide (4 < c.barcodes) || decide (4 < c.counters.length) || decide (16 < c.handles.length)

/-- The field pass: the index of the first field with a failing check (R55, R56). -/
def fieldPass (width length : Nat) : Nat → FieldCounts → List Field → Option Nat
  | _, _, [] => none
  | i, c, f :: fs =>
    if f.faulty width length then some i
    else if (c.take f).over then some i
    else fieldPass width length (i + 1) (c.take f) fs

/-- The header pass (R54). -/
def formHeaderFault? (rd : Reader) (length : Nat) : Option Nat :=
  firstFault
    [ (decide (length < 32), idxHeader),
      (!within 1 64 (formFieldCount rd), idxHeader),
      (decide (length < 32 + 64 * formFieldCount rd), idxHeader),
      (!within 8 4096 (formLength rd), idxHeader),
      (!within 8 1024 (formWidth rd), idxHeader),
      (decide (formDarkness rd < -8) || decide (7 < formDarkness rd), idxHeader) ]

/-- The reference pass: the index of the first field with a failing handle (R57). -/
def referencePass (names : Nat → Kind → Bool) : Nat → List Field → Option Nat
  | _, [] => none
  | i, f :: fs =>
    if f.handles.all fun p => names p.1 p.2 then referencePass names (i + 1) fs else some i

/-- The outcome of a validation: passed, or the status and index of the completion. -/
abbrev Validation := Option (Status × Nat)

/-- Validation of a FORM body in its three passes (R54 to R57). -/
def validateForm (names : Nat → Kind → Bool) (rd : Reader) (length : Nat) : Validation :=
  match formHeaderFault? rd length with
  | some i => some (.badBody, i)
  | none =>
    match fieldPass (formWidth rd) (formLength rd) 0 ⟨0, [], []⟩ (formFields rd) with
    | some i => some (.badBody, i)
    | none => (referencePass names 0 (formFields rd)).map fun i => (Status.badRef, i)

/-! ### FONT bodies (R59 to R61) -/

/-- Cell height (R59). -/
def fontHeight (rd : Reader) : Nat := rd 0
/-- Substitute code. -/
def fontSubstitute (rd : Reader) : Nat := rd 1
/-- Glyph count. -/
def fontCount (rd : Reader) : Nat := le16 rd 2

/-- One entry of the glyph directory (R59). -/
structure Glyph where
  code : Nat
  width : Nat
  advance : Nat
  bitmap : Nat
  deriving DecidableEq, Repr

/-- Directory entry i (R211). -/
def fontGlyph (rd : Reader) (i : Nat) : Glyph :=
  let o := 16 + 8 * i
  { code := rd o, width := rd (o + 1), advance := rd (o + 2), bitmap := le32 rd (o + 4) }

/-- The glyph directory. -/
def fontGlyphs (rd : Reader) : List Glyph := (List.range (fontCount rd)).map (fontGlyph rd)

/-- The glyph pass (R61): seen holds the codes of the glyphs with lower index. -/
def glyphPass (base height length : Nat) : Nat → List Nat → List Glyph → Option Nat
  | _, _, [] => none
  | i, seen, g :: gs =>
    if g.width = 0 ∨ g.bitmap < base ∨ length < g.bitmap + height * ceilDiv g.width 8 ∨
        seen.contains g.code = true then some i
    else glyphPass base height length (i + 1) (g.code :: seen) gs

/-- Validation of a FONT body (R61). -/
def validateFont (rd : Reader) (length : Nat) : Validation :=
  let base := 16 + 8 * fontCount rd
  match firstFault
    [ (decide (length < 16), idxHeader),
      (!within 4 255 (fontHeight rd), idxHeader),
      (!within 1 256 (fontCount rd), idxHeader),
      (decide (length < base), idxHeader) ] with
  | some i => some (.badBody, i)
  | none =>
    match glyphPass base (fontHeight rd) length 0 [] (fontGlyphs rd) with
    | some i => some (.badBody, i)
    | none =>
      if (fontGlyphs rd).any fun g => g.code == fontSubstitute rd then none
      else some (.badBody, idxThird)

/-! ### SYMBOLOGY bodies (R66 to R69) -/

/-- The pattern whose element count stands at a position, with the widths behind it (R67). -/
def patternAt (rd : Reader) (o : Nat) : List Nat :=
  (List.range (min (rd o) 12)).map fun j => rd (o + 1 + j)

/-- A pattern's element count is in range and of a parity, and its widths are 1..4 (R69). -/
def patternOk (rd : Reader) (o lo hi parity : Nat) : Bool :=
  within lo hi (rd o) && rd o % 2 == parity && (patternAt rd o).all (within 1 4)

/-- Sum of the element widths of a pattern (R67). -/
def moduleWidth (p : List Nat) : Nat := p.sum

/-- The number of elements of a pattern that are bars (R67). -/
def barCount (p : List Nat) : Nat := (p.length + 1) / 2

/-- Map count (R66). -/
def symCount (rd : Reader) : Nat := rd 0
/-- Minimum length. -/
def symMin (rd : Reader) : Nat := rd 1
/-- Maximum length. -/
def symMax (rd : Reader) : Nat := rd 2
/-- Quiet zone. -/
def symQuiet (rd : Reader) : Nat := rd 3
/-- The check rule is MODULUS. -/
def symModulus (rd : Reader) : Bool := rd 4 == 1
/-- Modulus M. -/
def symM (rd : Reader) : Nat := rd 5
/-- The weight kind is CYCLE. -/
def symCycle (rd : Reader) : Bool := rd 6 == 1
/-- Weight count. -/
def symWeightCount (rd : Reader) : Nat := rd 7
/-- The weights that are read. -/
def symWeights (rd : Reader) : List Nat :=
  (List.range (min (symWeightCount rd) 8)).map fun j => rd (8 + j)
/-- Start pattern. -/
def symStart (rd : Reader) : List Nat := patternAt rd 16
/-- Stop pattern. -/
def symStop (rd : Reader) : List Nat := patternAt rd 29

/-- One entry of the character map (R66). -/
structure MapEntry where
  code : Nat
  value : Nat
  pattern : List Nat
  deriving DecidableEq, Repr

/-- The position of map entry i. -/
def symEntryOffset (i : Nat) : Nat := 64 + 16 * i

/-- Map entry i (R211). -/
def symEntry (rd : Reader) (i : Nat) : MapEntry :=
  let o := symEntryOffset i
  { code := rd o, value := rd (o + 1), pattern := patternAt rd (o + 2) }

/-- The character map in map index order. -/
def symEntries (rd : Reader) : List MapEntry := (List.range (symCount rd)).map (symEntry rd)

/-- The map pass (R69): the index of the first entry at fault. -/
def mapPass (rd : Reader) : Nat → List Nat → List Nat → Option Nat
  | _, _, [] => none
  | i, seen, k :: ks =>
    let o := symEntryOffset k
    if 127 < rd (o + 1) ∨ patternOk rd (o + 2) 2 12 0 = false ∨ seen.contains (rd o) = true then
      some i
    else mapPass rd (i + 1) (rd o :: seen) ks

/-- Validation of a SYMBOLOGY body in its five passes (R69). -/
def validateSymbology (rd : Reader) (length : Nat) : Validation :=
  match firstFault
    [ (decide (length < 64), idxHeader),
      (!within 1 128 (symCount rd), idxHeader),
      (decide (length < 64 + 16 * symCount rd), idxHeader),
      (!within 1 96 (symMin rd) || !within 1 96 (symMax rd), idxHeader),
      (decide (symMax rd < symMin rd), idxHeader),
      (decide (20 < symQuiet rd), idxHeader),
      (!within 0 1 (rd 4), idxHeader),
      (symModulus rd && !within 2 127 (symM rd), idxHeader),
      (symModulus rd && !within 0 1 (rd 6), idxHeader),
      (symModulus rd && symCycle rd &&
        (!within 1 8 (symWeightCount rd) || !(symWeights rd).all (within 1 99)), idxHeader),
      (!patternOk rd 16 2 12 0, idxThird),
      (!patternOk rd 29 3 11 1, idxStop) ] with
  | some i => some (.badBody, i)
  | none =>
    match mapPass rd 0 [] (List.range (symCount rd)) with
    | some i => some (.badBody, i)
    | none =>
      if symModulus rd &&
          !(List.range (symM rd)).all fun v => (symEntries rd).any fun e => e.value == v then
        some (.badBody, idxCoverage)
      else none

/-! ### COUNTER bodies (R75, R76, R212) -/

/-- The number held by k bytes of decimal digits, one to a half-byte, least significant first (R212). -/
def bcd (rd : Reader) (o : Nat) : Nat → Nat
  | 0 => 0
  | k + 1 => rd o % 16 + 10 * (rd o / 16) + 100 * bcd rd (o + 1) k

/-- A number as k bytes of decimal digits (R212). -/
def bcdBytes : Nat → Nat → List Byte
  | 0, _ => []
  | k + 1, n => byte (n % 10 + 16 * (n / 10 % 10)) :: bcdBytes k (n / 100)

/-- Digits (R75). -/
def ctrDigits (rd : Reader) : Nat := rd 0
/-- The end action is HALT. -/
def ctrHalt (rd : Reader) : Bool := rd 1 == 1
/-- The exhausted flag. -/
def ctrExhausted (rd : Reader) : Bool := rd 2 == 1
/-- A check digit follows the number. -/
def ctrWeighted (rd : Reader) : Bool := rd 3 == 1
/-- Weight count. -/
def ctrWeightCount (rd : Reader) : Nat := rd 4
/-- The weights that are read. -/
def ctrWeights (rd : Reader) : List Nat :=
  (List.range (min (ctrWeightCount rd) 4)).map fun j => rd (5 + j)
/-- Value. -/
def ctrValue (rd : Reader) : Nat := bcd rd 16 6
/-- Low. -/
def ctrLow (rd : Reader) : Nat := bcd rd 22 6
/-- High. -/
def ctrHigh (rd : Reader) : Nat := bcd rd 28 6
/-- Step. -/
def ctrStep (rd : Reader) : Nat := bcd rd 34 3

/-- Validation of a COUNTER body (R76). -/
def validateCounter (rd : Reader) (length : Nat) : Validation :=
  (firstFault
    [ (decide (length < 64), idxHeader),
      ((List.range 21).any fun j =>
        decide (9 < rd (16 + j) % 16) || decide (9 < rd (16 + j) / 16), idxHeader),
      (!within 1 12 (ctrDigits rd), idxHeader),
      (decide (10 ^ ctrDigits rd ≤ ctrHigh rd), idxHeader),
      (decide (ctrHigh rd < ctrLow rd), idxHeader),
      (decide (ctrValue rd < ctrLow rd) || decide (ctrHigh rd < ctrValue rd), idxHeader),
      (ctrStep rd == 0, idxHeader),
      (!within 0 1 (rd 1), idxHeader),
      (!within 0 1 (rd 2), idxHeader),
      (!within 0 1 (rd 3), idxHeader),
      (ctrWeighted rd &&
        (!within 1 4 (ctrWeightCount rd) || !(ctrWeights rd).all (within 1 9)), idxHeader) ]).map
    fun i => (Status.badBody, i)

/-- A handle names an ACTIVE record of a kind (R57). -/
def State.names (s : State) (h : Nat) (k : Kind) : Bool :=
  decide (h ≤ 1023) && (s.record h).state == .active && (s.record h).kind == some k

/-- Validation of a loading body by the kind of its record (R17). -/
def State.validate (s : State) (k : Kind) (rd : Reader) (length : Nat) : Validation :=
  match k with
  | .form => validateForm s.names rd length
  | .font => validateFont rd length
  | .symbology => validateSymbology rd length
  | .counter => validateCounter rd length

/-! ### Counter draws (R77, R78) -/

/-- The decimal digits of a number, rightmost first, k of them. -/
def digitsRev : Nat → Nat → List Nat
  | 0, _ => []
  | k + 1, n => n % 10 :: digitsRev k (n / 10)

/-- The sum of values by a cycle of weights, the first value taking the first weight (R71, R77). -/
def cycleSum (weights : List Nat) : Nat → List Nat → Nat
  | _, [] => 0
  | i, v :: vs => v * weights.getD (i % weights.length) 0 + cycleSum weights (i + 1) vs

/-- The drawn string of a counter (R77). -/
def drawString (rd : Reader) : List Byte :=
  let rev := digitsRev (ctrDigits rd) (ctrValue rd)
  let number := rev.reverse.map fun d => byte (0x30 + d)
  if ctrWeighted rd then
    number ++ [byte (0x30 + (10 - cycleSum (ctrWeights rd) 0 rev % 10) % 10)]
  else number

/-- The value and exhausted flag after a draw (R78). -/
def drawAdvance (rd : Reader) : Nat × Bool :=
  if ctrValue rd + ctrStep rd ≤ ctrHigh rd then (ctrValue rd + ctrStep rd, ctrExhausted rd)
  else if ctrHalt rd then (ctrValue rd, true)
  else (ctrLow rd, ctrExhausted rd)

end Sys2Proof.Machine
end

