-- ==== Sys2Proof/Machine/Flags.lean ====
section
/-! DEFINITION. The register window as it is read (R192 to R204): engine, ring and station status words, the
interrupt line, the thermal band and hot-hold condition, and the inspection window's bytes. -/

namespace Sys2Proof.Machine

/-- A flag as a number at a bit. -/
def flagAt (b : Bool) (bit : Nat) : Nat := if b then 2 ^ bit else 0

/-! ### Interrupt line (R202) -/

/-- The interrupt line is asserted while some cause has both its status and its enable bit (R202). -/
def State.interruptLine (s : State) : Bool := (s.eventStatus &&& s.eventEnable) != 0

/-! ### Thermal band and hot hold (R177, R178) -/

/-- The direction codes of R208. -/
def dirAbove : Nat := 0
/-- BELOW. -/
def dirBelow : Nat := 1
/-- The action codes of R208. -/
def actWarm : Nat := 1
/-- COLD_BAND. -/
def actCold : Nat := 2
/-- HOT_HOLD. -/
def actHotHold : Nat := 3

/-- A crossed limit in use with an action. -/
def Limit.acts (l : Limit) (action : Nat) : Bool := l.valid && l.crossed && l.action == action

/-- The band formed from the two verdicts (R177). -/
def Thermal.band (t : Thermal) : Band :=
  if t.limA.acts actWarm || t.limB.acts actWarm then .warm
  else if t.limA.acts actCold || t.limB.acts actCold then .cold
  else .normal

/-- The hot-hold condition (R178). -/
def Thermal.hotHold (t : Thermal) : Bool := t.limA.acts actHotHold || t.limB.acts actHotHold

/-! ### Engine registers (R194, R195) -/

/-- A read of engine control: the arbiter mode and interval held, all else 0 (R194). -/
def State.engineControl (s : State) : Word :=
  BitVec.ofNat 32 (flagAt (s.arbiter == .rotate) 20 + s.autoPoll.toNat * 2 ^ 24)

/-- The engine status register (R195). -/
def State.engineStatus (s : State) : Word :=
  BitVec.ofNat 32 (flagAt s.loading 0 + flagAt s.defaulted 1
    + flagAt s.checkPending.s0 4 + flagAt s.checkPending.s1 5
    + flagAt s.checkPending.s2 6 + flagAt s.checkPending.s3 7
    + (match s.check with | some c => 2 ^ 8 + c.station.toNat * 2 ^ 9 | none => 0))

/-- The station configuration register: dot count / 8 of station n in byte n (R195). -/
def State.stationConfig (s : State) : Word :=
  BitVec.ofNat 32 (s.stations.s0.dotCount / 8 + s.stations.s1.dotCount / 8 * 2 ^ 8
    + s.stations.s2.dotCount / 8 * 2 ^ 16 + s.stations.s3.dotCount / 8 * 2 ^ 24)

/-! ### Ring registers (R196) -/

/-- The code of a channel state (R196). -/
def ChanState.code : ChanState → Nat
  | .stopped => 0
  | .running => 1
  | .suspended => 2
  | .full => 3

/-- The code of a stop cause (R196). -/
def StopCause.code : StopCause → Nat
  | .none => 0
  | .host => 1
  | .busError => 2
  | .reset => 3
  | .noRing => 4

/-- The state register of a ring (R196). -/
def Channel.stateWord (c : Channel) : Word :=
  BitVec.ofNat 32 (c.state.code + c.stopCause.code * 2 ^ 4 + flagAt c.stopPending 8
    + flagAt c.hand.isSome 9 + c.held.length * 2 ^ 12 + c.pendingCompletions.length * 2 ^ 16)

/-! ### Station registers (R198) -/

/-- The code of a station state (R198). -/
def StationState.code : StationState → Nat
  | .offline => 0
  | .parked => 1
  | .waking => 2
  | .idle => 3
  | .printing => 4
  | .presenting => 5
  | .ejecting => 6
  | .checking => 7
  | .calibrating => 8
  | .held => 9
  | .fault => 10

/-- The code of a fault cause (R198). -/
def FaultCause.code : FaultCause → Nat
  | .none => 0
  | .headOpen => 1
  | .mediaFault => 2
  | .applyTimeout => 3
  | .overrun => 4

/-- The code of a wake cause (R198). -/
def WakeCause.code : WakeCause → Nat
  | .none => 0
  | .label => 1
  | .trigger => 2
  | .command => 3
  | .check => 4

/-- The code of a band in status A (R198). -/
def Band.code : Band → Nat
  | .normal => 0
  | .warm => 1
  | .cold => 2

/-- The code of a last command result (R198). -/
def CommandResult.code : CommandResult → Nat
  | .none => 0
  | .done => 1
  | .state => 2
  | .headOpen => 3
  | .noMedia => 4
  | .loading => 5
  | .noHead => 6
  | .badCode => 7

/-- A station known not to be fitted: the ROM has been loaded and gives it dot count 0 (R130). -/
def State.notFitted (s : State) (n : StationNo) : Bool := !s.loading && !(s.station n).fitted

/-- Station status A (R198). A station that is not fitted reads the values R130 gives, all 0 (log 15). -/
def State.statusA (s : State) (n : StationNo) : Word :=
  let t := s.station n
  if s.notFitted n then 0
  else BitVec.ofNat 32 (t.state.code + t.faultCause.code * 2 ^ 4 + t.wakeCause.code * 2 ^ 7
    + flagAt t.power 10 + flagAt t.holdPending 11 + t.queue.length * 2 ^ 12
    + t.triggers.length * 2 ^ 16 + flagAt t.mediaLatch 19 + t.thermal.band.code * 2 ^ 20
    + flagAt t.thermal.hotHold 22 + flagAt t.headOpen 23)

/-- The four flags of a limit in status B (R198). -/
def Limit.flags (l : Limit) : Nat :=
  flagAt l.valid 0 + flagAt l.crossed 1 + flagAt l.verdictValid 2 + flagAt l.frozen 3

/-- Station status B (R198). -/
def State.statusB (s : State) (n : StationNo) : Word :=
  let t := s.station n
  let cmd := t.lastCode.toNat * 2 ^ 20 + t.lastResult.code * 2 ^ 24
  if s.notFitted n then BitVec.ofNat 32 cmd
  else BitVec.ofNat 32 (t.thermal.limA.flags + t.thermal.limB.flags * 2 ^ 4
    + t.summary.count * 2 ^ 8 + cmd)

/-! ### The inspection window (R203, R204) -/

/-- The inspection address register as it is read (R203). -/
def InspectAddress.word (i : InspectAddress) : Word :=
  BitVec.ofNat 32 (i.offset.toNat + i.block.toNat * 2 ^ 8 + flagAt i.mapArea 24
    + i.mapStation.toNat * 2 ^ 25 + flagAt i.postIncrement 28)

/-- The code of an element class in the map area (R203). -/
def DotClass.code : DotClass → Nat
  | .good => 0
  | .open => 1
  | .short => 2

/-- A failed element as three bytes (R208): reading; element bits 0..7; element bits 8..9 in bits
0..1 and class in bits 4..5. -/
def FailedDot.bytes (d : FailedDot) : List Byte :=
  [d.reading, byte d.element, byte (d.element / 256 % 4 + d.cls.code * 16)]

/-- The map entry of an element: GOOD with reading 0 where nothing has been measured (R182). -/
def Station.mapEntry (t : Station) (e : Nat) : DotClass × Byte := t.map.getD e (.good, 0)

/-- A byte of the map area of a station (R203). While the ROM loads every map reads empty (R206). -/
def State.mapByte (s : State) (n : StationNo) (block offset : Nat) : Byte :=
  let t := s.station n
  if block < 8 then
    let e := block * 128 + offset / 2
    if s.loading then 0
    else if t.dotCount ≤ e then (if offset % 2 = 0 then 0xFF else 0)
    else if offset % 2 = 0 then byte (t.mapEntry e).1.code else (t.mapEntry e).2
  else if block = 8 then
    (bytesLE 2 t.summary.count ++ (t.summary.dots.map FailedDot.bytes).flatten).getD offset 0
  else 0

/-- A byte of record memory as the window shows it: 0 at or above the total and while the ROM
loads (R204). -/
def State.windowByte (s : State) (block offset : Nat) : Byte :=
  if s.loading ∨ s.total ≤ block then 0 else s.readByte (blockAddress block + offset)

/-- The byte at the held address plus j (R204). -/
def State.inspectByte (s : State) (j : Nat) : Byte :=
  let i := s.inspect
  if i.mapArea then
    match StationNo.ofNat? i.mapStation.toNat with
    | some n => s.mapByte n i.block.toNat (i.offset.toNat + j)
    | none => 0
  else s.windowByte i.block.toNat (i.offset.toNat + j)

/-- The inspection data word (R204). -/
def State.inspectData (s : State) : Word :=
  s.inspectByte 3 ++ s.inspectByte 2 ++ s.inspectByte 1 ++ s.inspectByte 0

/-- The address after a read in POST_INCREMENT (R204). In the map area a block above 8 moves to the next
in its 13 bits, from 8191 to 0 (log 37). -/
def InspectAddress.advance (i : InspectAddress) : InspectAddress :=
  if i.offset = 252 then
    { i with offset := 0,
             block := if i.block = (if i.mapArea then 8 else 8191) then 0 else i.block + 1 }
  else { i with offset := i.offset + 4 }

/-! ### Every register of the window (R192, R193) -/

/-- A 32-bit read of the window as its owner holds the register, before any effect of the read:
unlisted offsets and write-only registers read 0 (R192, R193). -/
def State.readRegister (s : State) (offset : Nat) : Word :=
  if offset = 0x00 then s.engineControl
  else if offset = 0x04 then s.engineStatus
  else if offset = 0x08 then s.stationConfig
  else if offset = 0x0C then s.boardTag
  else if offset = 0x10 then s.clock
  else if offset = 0x14 then BitVec.ofNat 32 s.free.length
  else if offset = 0x18 then BitVec.ofNat 32 s.total
  else if offset = 0x20 then s.eventStatus.setWidth 32
  else if offset = 0x24 then s.eventEnable.setWidth 32
  else if offset = 0x28 then s.inspect.word
  else if offset = 0x2C then s.inspectData
  else if 0x40 ≤ offset ∧ offset < 0x90 then
    let c := s.chan (if offset < 0x50 then .control
      else if offset < 0x60 then .station .s0
      else if offset < 0x70 then .station .s1
      else if offset < 0x80 then .station .s2 else .station .s3)
    if offset % 16 = 0 then c.base
    else if offset % 16 = 4 then BitVec.ofNat 32 c.size
    else if offset % 16 = 8 then BitVec.ofNat 32 c.fetchIndex
    else if offset % 16 = 12 then c.stateWord
    else 0
  else if 0xA0 ≤ offset ∧ offset < 0xE0 then
    let n := if offset < 0xB0 then StationNo.s0 else if offset < 0xC0 then .s1
      else if offset < 0xD0 then .s2 else .s3
    if offset % 16 = 4 then s.statusA n
    else if offset % 16 = 8 then s.statusB n
    else 0
  else 0

end Sys2Proof.Machine
end

