-- ==== Sys2Proof/Machine/Compose.lean ====
section
/-! DEFINITION. How a field's string becomes marks: text layout, barcode encoding and layout, rules, dot
avoidance and the clip test (R45 to R50, R62 to R65, R70 to R73, R117 to R122). -/

namespace Sys2Proof.Machine

/-! ### Boxes and the clip test (R42, R122) -/

/-- A box of dots and lines: first dot, first line, extents. -/
structure Box where
  left : Int
  top : Int
  dots : Nat
  lines : Nat
  deriving DecidableEq, Repr

/-- The extent of the form. -/
structure FormSize where
  width : Nat
  length : Nat
  deriving DecidableEq, Repr

/-- The part of an interval starting at a with extent n that lies in 0..limit - 1: its first
position and extent. -/
def clipInterval (a : Int) (n limit : Nat) : Nat × Nat :=
  let lo := max a 0
  let hi := min (a + n) limit
  (lo.toNat, (hi - lo).toNat)

/-- The visible box of a mark, none where it has no visible box (R122). -/
def visibleBox (f : FormSize) (b : Box) : Option (Nat × Nat × Nat × Nat) :=
  let d := clipInterval b.left b.dots f.width
  let l := clipInterval b.top b.lines f.length
  if d.2 = 0 ∨ l.2 = 0 then none else some (d.1, l.1, d.2, l.2)

/-- A mark whose visible box is smaller than its extent, or which has none, sets CLIPPED (R122). -/
def boxClipped (f : FormSize) (b : Box) : Bool :=
  match visibleBox f b with
  | some v => decide (v.2.2.1 < b.dots) || decide (v.2.2.2 < b.lines)
  | none => true

/-- The warning CLIPPED alone. -/
def clippedIf (b : Bool) : Warnings := { Warnings.none with clipped := b }

/-- The warning DOTS_IN_BARS alone. -/
def dotsInBarsIf (b : Bool) : Warnings := { Warnings.none with dotsInBars := b }

/-- A bar or rule entry with a box, if any of it is visible (R122). -/
def plainElement (k : ElemKind) (f : FormSize) (b : Box) : Option Element :=
  (visibleBox f b).map fun v =>
    { kind := k, left := v.1, top := v.2.1, dots := v.2.2.1, lines := v.2.2.2, glyphBody := 0,
      bitmap := 0, width := 0, height := 0, rot90 := false, cellTop := 0, cellLeft := 0 }

/-- The outcome of laying out a field: entries in the order made, warnings, and the shift of a
BARCODE field; or a rejected string (R119). -/
inductive Laid where
  | rejected
  | placed (entries : List Element) (warnings : Warnings) (shift : Option Int)
  deriving DecidableEq, Repr

/-! ### TEXT (R48, R62 to R65) -/

/-- The glyph of a character code, and whether it is the substitute (R62). -/
def glyphFor (rd : Reader) (code : Nat) : Option (Glyph × Bool) :=
  match (fontGlyphs rd).find? fun g => g.code == code with
  | some g => some (g, false)
  | none => ((fontGlyphs rd).find? fun g => g.code == fontSubstitute rd).map fun g => (g, true)

/-- The cell of a glyph at a pen position (R63, R64). -/
def glyphBox (x y : Nat) (rot90 : Bool) (height pen : Nat) (g : Glyph) : Box :=
  if rot90 then { left := x, top := (y + pen : Nat), dots := height, lines := g.width }
  else { left := (x + pen : Nat), top := y, dots := g.width, lines := height }

/-- The entry of a glyph mark, if any of its cell is visible (R65, R122). -/
def glyphElement (f : FormSize) (body : Nat) (rot90 : Bool) (height : Nat) (g : Glyph) (b : Box) :
    Option Element :=
  (visibleBox f b).map fun v =>
    { kind := .glyph, left := v.1, top := v.2.1, dots := v.2.2.1, lines := v.2.2.2,
      glyphBody := body, bitmap := g.bitmap, width := g.width, height := height, rot90 := rot90,
      cellTop := b.top.toNat, cellLeft := b.left.toNat }

/-- Lay out characters from a pen position (R63). -/
def layText (rd : Reader) (f : FormSize) (body x y : Nat) (rot90 : Bool) :
    Nat → List Nat → List Element × Warnings
  | _, [] => ([], Warnings.none)
  | pen, c :: cs =>
    match glyphFor rd c with
    | none => layText rd f body x y rot90 pen cs
    | some (g, subst) =>
      let b := glyphBox x y rot90 (fontHeight rd) pen g
      let rest := layText rd f body x y rot90 (pen + g.advance) cs
      ((glyphElement f body rot90 (fontHeight rd) g b).toList ++ rest.1,
        ({ Warnings.none with clipped := boxClipped f b, substituted := subst }).or rest.2)

/-- A TEXT field (R118): the first max_chars characters; a longer string is CLIPPED (R47). -/
def layTextField (rd : Reader) (f : FormSize) (body : Nat) (fld : Field) (rot90 : Bool)
    (chars : List Nat) : Laid :=
  let r := layText rd f body fld.x fld.y rot90 0 (chars.take fld.maxChars)
  .placed r.1 (r.2.or (clippedIf (decide (fld.maxChars < chars.length)))) none

/-! ### BARCODE (R49, R70 to R73) -/

/-- The map entry of a code (R68, R70). -/
def entryFor (rd : Reader) (code : Nat) : Option MapEntry :=
  (symEntries rd).find? fun e => e.code == code

/-- The data characters of a string, none where a code has no entry (R70). -/
def dataCharacters (rd : Reader) : List Nat → Option (List MapEntry)
  | [] => some []
  | c :: cs =>
    match entryFor rd c, dataCharacters rd cs with
    | some e, some es => some (e :: es)
    | _, _ => none

/-- The string is rejected (R70). -/
def stringRejected (rd : Reader) (maxChars : Nat) (chars : List Nat) : Bool :=
  decide (maxChars < chars.length) || decide (chars.length < symMin rd) ||
  decide (symMax rd < chars.length) || (dataCharacters rd chars).isNone

/-- Weights 1, 2, ... from the first data character (R71). -/
def positionSum : Nat → List Nat → Nat
  | _, [] => 0
  | i, v :: vs => v * i + positionSum (i + 1) vs

/-- The check value of the data characters (R71). -/
def checkValue (rd : Reader) (values : List Nat) : Nat :=
  (if symCycle rd then cycleSum (symWeights rd) 0 values.reverse else positionSum 1 values) % symM rd

/-- The check character, under MODULUS (R71). -/
def checkCharacter (rd : Reader) (values : List Nat) : Option MapEntry :=
  if symModulus rd then (symEntries rd).find? fun e => e.value == checkValue rd values else none

/-- The element widths of the symbol from start to stop, bars and spaces alternating (R67, R72). -/
def symbolWidths (rd : Reader) (chars : List MapEntry) : List Nat :=
  symStart rd ++ (chars.map fun e => e.pattern).flatten
    ++ (match checkCharacter rd (chars.map fun e => e.value) with
        | some e => e.pattern
        | none => [])
    ++ symStop rd

/-- The bars of a row of widths from a module on: first module and modules of each (R72). -/
def barsFrom : Bool → Nat → List Nat → List (Nat × Nat)
  | _, _, [] => []
  | true, m, w :: ws => (m, w) :: barsFrom false (m + w) ws
  | false, m, w :: ws => barsFrom true (m + w) ws

/-- A symbol laid out along its axis: its bars and its total modules (R72). -/
structure Symbol where
  bars : List (Nat × Nat)
  total : Nat
  deriving DecidableEq, Repr

/-- The symbol of a list of data characters (R72). -/
def symbolOf (rd : Reader) (chars : List MapEntry) : Symbol :=
  let ws := symbolWidths rd chars
  { bars := barsFrom true (symQuiet rd) ws, total := 2 * symQuiet rd + moduleWidth ws }

/-- The box of a bar (R72). -/
def barBox (fld : Field) (rot90 : Bool) (shift : Int) (bar : Nat × Nat) : Box :=
  if rot90 then
    { left := fld.x, top := (fld.y + bar.1 * fld.moduleDots : Nat), dots := fld.barHeight,
      lines := bar.2 * fld.moduleDots }
  else
    { left := fld.x + shift + (bar.1 * fld.moduleDots : Nat), top := fld.y,
      dots := bar.2 * fld.moduleDots, lines := fld.barHeight }

/-- The symbol fits the form, quiet zones included (R73). -/
def symbolFits (f : FormSize) (fld : Field) (rot90 : Bool) (shift : Int) (total : Nat) : Bool :=
  if rot90 then
    decide (fld.y + total * fld.moduleDots ≤ f.length) && decide (fld.x + fld.barHeight ≤ f.width)
  else
    decide (0 ≤ (fld.x : Int) + shift) &&
    decide ((fld.x : Int) + shift + (total * fld.moduleDots : Nat) ≤ f.width) &&
    decide (fld.y + fld.barHeight ≤ f.length)

/-! ### Dot avoidance (R120, R121) -/

/-- The candidate shifts in search order (R120). -/
def candidateShifts (maxShift : Nat) : List Int :=
  0 :: ((List.range maxShift).map fun (k : Nat) => [(k + 1 : Int), -(k + 1 : Int)]).flatten

/-- The form dots of a bar at a shift: first and extent (R120). -/
def barSpan (fld : Field) (shift : Int) (bar : Nat × Nat) : Int × Nat :=
  (fld.x + shift + (bar.1 * fld.moduleDots : Nat), bar.2 * fld.moduleDots)

/-- A candidate is skipped where a bar reaches below dot 0 or above form width - 1 (R120). -/
def shiftSkipped (width : Nat) (fld : Field) (bars : List (Nat × Nat)) (shift : Int) : Bool :=
  bars.any fun b =>
    let p := barSpan fld shift b
    decide (p.1 < 0) || decide ((width : Int) < p.1 + p.2)

/-- The failed head elements of a station: those its map classes OPEN or SHORT (R120, R182). -/
def Station.failedElement (t : Station) (e : Nat) : Bool :=
  decide (e < t.dotCount) && (t.mapEntry e).1 != .good

/-- The failed dots among the form dots a.. of extent n that lie inside the form (R120, R121). -/
def failedInSpan (t : Station) (margin width : Nat) (p : Int × Nat) : Nat :=
  ((List.range p.2).filter fun (j : Nat) =>
    let d := p.1 + j
    decide (0 ≤ d) && decide (d < width) && t.failedElement (d.toNat + margin)).length

/-- The failed dots in bars at a shift (R120). -/
def failedInBars (t : Station) (margin width : Nat) (fld : Field) (bars : List (Nat × Nat))
    (shift : Int) : Nat :=
  (bars.map fun b => failedInSpan t margin width (barSpan fld shift b)).sum

/-- The best of the candidates not skipped: the first with count 0, else the first with the smallest
count (R121). -/
def bestShift (count : Int → Nat) : Option (Int × Nat) → List Int → Option (Int × Nat)
  | best, [] => best
  | best, c :: cs =>
    match best with
    | some (b, n) =>
      if n = 0 then some (b, n)
      else if count c < n then bestShift count (some (c, count c)) cs
      else bestShift count (some (b, n)) cs
    | none => bestShift count (some (c, count c)) cs

/-- The shift chosen for a qualifying field, and whether DOTS_IN_BARS is given (R121). DESIGN CHOICE (log 41): with
an empty map too the first candidate not skipped is taken (R120), which is not shift 0 where a bar passes the
form's edge there. -/
def chooseShift (t : Station) (margin width : Nat) (fld : Field) (bars : List (Nat × Nat)) :
    Int × Bool :=
  let cands := (candidateShifts fld.maxShift).filter fun c => !shiftSkipped width fld bars c
  match bestShift (failedInBars t margin width fld bars) none cands with
  | some (c, n) => (c, decide (0 < n))
  | none => (0, decide (0 < failedInBars t margin width fld bars 0))

/-- A BARCODE field (R119): the station and its left margin as they stand in the step. -/
def layBarcodeField (rd : Reader) (f : FormSize) (t : Station) (margin : Nat) (dotAvoid : Bool)
    (fld : Field) (rot90 : Bool) (chars : List Nat) : Laid :=
  if stringRejected rd fld.maxChars chars then .rejected
  else
    match dataCharacters rd chars with
    | none => .rejected
    | some cs =>
      let sym := symbolOf rd cs
      let pick := if !rot90 && dotAvoid && decide (0 < fld.maxShift) then
          chooseShift t margin f.width fld sym.bars
        else (0, false)
      .placed (sym.bars.filterMap fun b => plainElement .bar f (barBox fld rot90 pick.1 b))
        ((clippedIf (!symbolFits f fld rot90 pick.1 sym.total)).or (dotsInBarsIf pick.2))
        (some pick.1)

/-! ### RULE (R50) -/

/-- The rectangle of a RULE field (R50). -/
def ruleBox (fld : Field) (rot90 : Bool) : Box :=
  if rot90 then { left := fld.x, top := fld.y, dots := fld.ruleHeight, lines := fld.ruleWidth }
  else { left := fld.x, top := fld.y, dots := fld.ruleWidth, lines := fld.ruleHeight }

/-- A RULE field (R50, R122). -/
def layRuleField (f : FormSize) (fld : Field) (rot90 : Bool) : Laid :=
  let b := ruleBox fld rot90
  .placed (plainElement .rule f b).toList (clippedIf (boxClipped f b)) none

/-! ### A field of a label (R117) -/

/-- The data blocks of a label's reservation (R37). -/
def Label.dataBlocks (l : Label) : List Nat := l.reservation.take (ceilDiv l.dataLength 256)

/-- The element blocks of a label's reservation (R37). -/
def Label.elementBlocks (l : Label) : List Nat := l.reservation.drop (ceilDiv l.dataLength 256)

/-- The bytes of a slot of a label's data copy (R111, R117). -/
def State.slotBytes (s : State) (l : Label) (slot : Nat) : List Nat :=
  match l.slots[slot]? with
  | some (off, len) => (List.range len).map fun j => s.content l.dataBlocks (off + j)
  | none => []

/-- The string of a field (R46, R117). -/
def State.fieldString (s : State) (l : Label) (fld : Field) : List Nat :=
  match fld.source with
  | some .constant => fld.constText.take fld.constLength
  | some .slot => s.slotBytes l fld.slot
  | some .counter =>
    match l.drawn.find? fun p => p.1 == fld.counterHandle with
    | some p => p.2.map fun b => b.toNat
    | none => []
  | none => []

/-- The position of a handle in the context's pinned bodies and the version pinned (R105, R122). -/
def pinnedPosition (l : Label) (h : Nat) : Option (Nat × Nat) :=
  let i := (l.pinned.drop 1).findIdx fun p => p.1 == h
  (l.pinned[i + 1]?).map fun p => (i + 1, p.2)

/-- The content of the pinned glyph set or symbology of a handle (R48, R49). -/
def State.pinnedContent (s : State) (l : Label) (h : Nat) : Reader :=
  match pinnedPosition l h with
  | some (_, v) => s.versionContent h v
  | none => fun _ => 0

/-- The left margin of a station's profile (R121). -/
def Station.margin (t : Station) : Nat :=
  match t.profile with
  | some p => p.leftMargin
  | none => 0

/-- Field i of a label of a station, resolved and laid out (R117 to R121). -/
def State.layField (s : State) (n : StationNo) (l : Label) (i : Nat) : Laid :=
  let rd := s.formContent l
  let size : FormSize := ⟨formWidth rd, formLength rd⟩
  let fld := formField rd i
  let rot := fld.rot90.getD false
  match fld.kind with
  | some .text =>
    layTextField (s.pinnedContent l fld.drawHandle) size
      ((pinnedPosition l fld.drawHandle).map (fun p => p.1)|>.getD 0) fld rot (s.fieldString l fld)
  | some .barcode =>
    layBarcodeField (s.pinnedContent l fld.drawHandle) size (s.station n) (s.station n).margin
      l.dotAvoid fld rot (s.fieldString l fld)
  | some .rule => layRuleField size fld rot
  | none => .placed [] Warnings.none none

/-! ### Sorting (R123) -/

/-- The order of the element list: top line, then left dot (R123). -/
def elementBefore (a b : Element) : Bool :=
  decide (a.top < b.top) || (a.top == b.top && decide (a.left < b.left))

/-- Insert an entry before the first that it does not come after; equal entries keep their order. -/
def insertElement (x : Element) : List Element → List Element
  | [] => [x]
  | y :: ys => if elementBefore y x then y :: insertElement x ys else x :: y :: ys

/-- The element list sorted, entries equal in both staying in the order written (R123). -/
def sortElements : List Element → List Element
  | [] => []
  | x :: xs => insertElement x (sortElements xs)

/-! ### The reservation (R36) -/

/-- The largest of a list of numbers. -/
def listMax (l : List Nat) : Nat := l.foldl max 0

/-- The bars a symbology lets one BARCODE field of so many characters write (R36). -/
def symbolMaximum (rd : Reader) (maxChars : Nat) : Nat :=
  (maxChars + 1) * listMax ((symEntries rd).map fun e => barCount e.pattern)
    + barCount (symStart rd) + barCount (symStop rd)

/-- The content of the current body of a handle. -/
def State.currentContent (s : State) (h : Nat) : Reader :=
  match (s.record h).current with
  | some b => s.content b.blocks
  | none => fun _ => 0

/-- The maximum elements of a form's fields (R36). -/
def State.maximumElements (s : State) (fields : List Field) : Nat :=
  (fields.map fun f =>
    match f.kind with
    | some .text => f.maxChars
    | some .barcode => symbolMaximum (s.currentContent f.drawHandle) f.maxChars
    | some .rule => 1
    | none => 0).sum

/-- The blocks of a reservation (R36). -/
def reservationBlocks (maximum dataLength : Nat) : Nat :=
  ceilDiv maximum entriesPerBlock + ceilDiv dataLength 256

end Sys2Proof.Machine
end

