-- ==== Sys2Proof/Machine/Completions.lean ====
section
/-! DEFINITION. The bytes of completions (R14, R113, R127, R188, R208 to R210). -/

namespace Sys2Proof.Machine

/-- The code of a status (R208). -/
def Status.code : Status → Nat
  | .ok => 0x00
  | .retirePending => 0x01
  | .badHandle => 0x02
  | .badKind => 0x03
  | .handleInUse => 0x04
  | .badBody => 0x05
  | .noSpace => 0x06
  | .noRecord => 0x07
  | .kindMismatch => 0x08
  | .priorInUse => 0x09
  | .busyLoading => 0x0A
  | .referenced => 0x0B
  | .badRef => 0x0C
  | .badCommand => 0x0F
  | .noHead => 0x10
  | .stationOffline => 0x11
  | .stationBusy => 0x12
  | .badProfile => 0x13
  | .badLimits => 0x14
  | .dcuBusy => 0x15
  | .formMissing => 0x16
  | .versionMismatch => 0x17
  | .formTooLarge => 0x18
  | .badData => 0x19
  | .busError => 0x1A
  | .aborted => 0x1B
  | .mediaFault => 0x1E
  | .headOpen => 0x1F
  | .applied => 0x20
  | .printed => 0x21
  | .late => 0x22
  | .skipped => 0x23
  | .flushed => 0x24
  | .applyTimeout => 0x25
  | .mediaMismatch => 0x26
  | .counterExhausted => 0x27
  | .dataRejected => 0x28

/-- A field of a completion: the number of its first byte in the descriptor, and its bytes. -/
abbrev CompletionField := Nat × List Byte

/-- The byte of a descriptor that the fields give; a byte that no field fills is 0 (R209). -/
def fieldByte : List CompletionField → Nat → Byte
  | [], _ => 0
  | (o, b) :: fs, i => if o ≤ i ∧ i < o + b.length then b.getD (i - o) 0 else fieldByte fs i

/-- The bytes of a completion area (R209). -/
def areaBytes (first count : Nat) (fields : List CompletionField) : List Byte :=
  (List.range count).map fun j => fieldByte fields (first + j)

/-- The first byte of the completion area of a channel's descriptors (R209). DEDUCED (log 23): the area goes by the
ring the descriptor stands on, whatever its code: bytes 32..62 on the control ring, the code of a LABEL descriptor
included, and bytes 17..62 on a station ring. -/
def completionStart : Chan → Nat
  | .control => 32
  | .station _ => 17

/-- Bytes 32..62 of a control descriptor (R208). -/
def controlCompletion (st : Status) (fields : List CompletionField) : List Byte :=
  areaBytes 32 31 ((32, [byte st.code]) :: fields)

/-- A record command's completion: handle, the record's version as it stands after the command, and
the fields its rule names (R14). -/
def State.recordCompletion (s : State) (h : Nat) (st : Status) (fields : List CompletionField) :
    List Byte :=
  controlCompletion st ((34, bytesLE 2 h) :: (36, bytesLE 2 (s.record h).version) :: fields)

/-- The index field of a refusal that carries one (R208). -/
def indexField (i : Nat) : CompletionField := (38, bytesLE 2 i)

/-- Bytes 17..62 of a label descriptor that carry a status alone (R113, R210, log 23). -/
def refusalCompletion (st : Status) : List Byte := areaBytes 17 46 [(17, [byte st.code])]

/-- A completion that carries the status alone, for either kind of ring (R209). -/
def statusCompletion (c : Chan) (st : Status) : List Byte :=
  match c with
  | .control => controlCompletion st []
  | .station _ => refusalCompletion st

/-- The completion written with BUS_ERROR: the status, and for a record command its handle (R209). -/
def busErrorCompletion (c : Chan) (d : List Byte) : List Byte :=
  match c with
  | .control =>
    if (controlCode d).isRecord then controlCompletion .busError [(34, bytesLE 2 (ctlHandle d))]
    else controlCompletion .busError []
  | .station _ => refusalCompletion .busError

/-- The warnings byte (R210). -/
def Warnings.byte (w : Warnings) : Byte :=
  Machine.byte (flagAt w.clipped 0 + flagAt w.substituted 1 + flagAt w.dotsInBars 2
    + flagAt w.deadlineOverrun 3)

/-- Digits two to a byte, the first in the low half (R210). -/
def packDigits : List Nat → List Byte
  | [] => []
  | [a] => [byte a]
  | a :: b :: rest => byte (a + 16 * b) :: packDigits rest

/-- A drawn-value entry of 9 bytes (R210). -/
def drawnEntry (p : Nat × List Byte) : List Byte :=
  let d := packDigits (p.2.map fun c => c.toNat % 16)
  bytesLE 2 (p.1 % 1024 + p.2.length * 4096) ++ d ++ List.replicate (7 - d.length) 0

/-- A barcode shift as a signed byte (R210). -/
def shiftByte (i : Int) : Byte := BitVec.ofInt 8 i

/-- Bytes 17..62 of a finished label's descriptor (R127, R210). -/
def Label.completion (l : Label) (st : Status) : List Byte :=
  areaBytes 17 46
    [ (17, [byte st.code]), (18, [l.warnings.byte]), (19, bytesLE 2 l.formVersion),
      (21, bytesLE 2 (l.elementCount.getD 0)),
      (23, (l.shifts.take 4).map shiftByte),
      (27, ((l.drawn.take 4).map drawnEntry).flatten) ]

/-- The code of a record state in a QUERY completion (R208). -/
def RecState.code : RecState → Nat
  | .free => 0
  | .loading => 1
  | .active => 2
  | .retiring => 3

/-- The code of a kind, 00h for none (R208). -/
def kindCode : Option Kind → Nat
  | none => 0
  | some .form => 1
  | some .font => 2
  | some .symbology => 3
  | some .counter => 4

/-- The pin count of a body, 0 where there is none (R26). -/
def bodyPins : Option Body → Nat
  | none => 0
  | some b => b.pins

/-- The QUERY completion of a record as it stands (R26, R208). -/
def State.queryCompletion (s : State) (h : Nat) : List Byte :=
  let r := s.record h
  let rd := s.currentContent h
  let counter := r.kind == some .counter && r.current.isSome
  s.recordCompletion h .ok
    [ (33, [byte r.state.code]), (38, bytesLE 2 r.referrers), (40, r.tag),
      (48, [byte (kindCode r.kind)]),
      (49, [byte (flagAt r.loading.isSome 0 + flagAt r.prior.isSome 1
        + flagAt (counter && ctrExhausted rd) 2)]),
      (50, [byte (bodyPins r.current), byte (bodyPins r.prior)]),
      (52, bytesLE 2 (match r.prior with | some b => b.version | none => 0)),
      (54, bytesLE 3 (match r.current with | some b => b.length | none => 0)),
      (57, if counter then (List.range 6).map fun j => byte (rd (16 + j)) else []) ]

/-- The pin counts a RETIRE_PENDING completion carries (R24). -/
def Record.pinFields (r : Record) : List CompletionField :=
  [(50, [byte (bodyPins r.current), byte (bodyPins r.prior)])]

/-- The completion of a DOTCHECK that ended OK (R188, R208). -/
def dotcheckCompletion (count : Nat) (dots : List FailedDot) : List Byte :=
  controlCompletion .ok
    [(36, bytesLE 2 count), (38, ((dots.take 8).map FailedDot.bytes).flatten)]

/-- The completion of a CALIBRATE that measured a pitch (R160, R208). -/
def calibrateCompletion (pitch : Nat) : List Byte :=
  controlCompletion .ok [(40, bytesLE 2 pitch)]

end Sys2Proof.Machine
end

