-- ==== Sys2Proof/Machine/Rings.lean ====
section
/-! DEFINITION. The ring channels and the Bus Master Arbiter (Chapter 5): requests, grants, suspension, stops
and the outcomes that owners hand to RCH-C. -/

namespace Sys2Proof.Machine

/-! ### Transfers (R101) -/

/-- Channel c's transfer of a kind holds the bus master. -/
def State.inTransfer (s : State) (c : Chan) (x : Xfer) : Bool :=
  s.bus == some c && (s.chan c).xfer == some x

/-- Channel c's transfer ends and the bus master falls free (R101). -/
def State.endTransfer (s : State) (c : Chan) : State :=
  { s.updChan c fun ch => { ch with xfer := none } with bus := none, transfer := none }

/-- An address of host memory so many bytes after another (log 38). -/
def hostAddress (a offset : Nat) : Nat := (a + offset) % 2 ^ 32

/-- The address of the descriptor at an index of a ring (R82, R85). -/
def Channel.descriptorAddress (ch : Channel) (i : Nat) : Nat := hostAddress ch.base.toNat (64 * i)

/-- The address of a descriptor's completion area (R82, R209). -/
def Channel.completionAddress (ch : Channel) (c : Chan) (i : Nat) : Nat :=
  hostAddress ch.base.toNat (64 * i + completionStart c)

/-- The bytes transfer k of so many bytes in parts of 256 carries (R90, R92, R101). -/
def burstLength (length k : Nat) : Nat := min 256 (length - 256 * k)

/-- The write of a completion: its bytes and then the owner field (R88, R101). -/
def Channel.completionTransfer (ch : Channel) (c : Chan) (i : Nat) (bytes : List Byte) :
    HostTransfer :=
  ⟨ch.completionAddress c i, bytes.length + 1, true⟩

/-- The transfer the descriptor in hand calls for, in host memory: burst k reads body address + 256 k,
the profile read the profile address, data transfer k data address + 256 k (R90, R92), and the
completion write the descriptor's completion area (R88). -/
def Channel.handTransfer? (ch : Channel) (c : Chan) (h : Hand) : Option HostTransfer :=
  match h.work with
  | .owner => none
  | .busy => none
  | .profile => some ⟨ctlAddress h.copy, 64, false⟩
  | .load k _ =>
    some ⟨hostAddress (ctlAddress h.copy) (256 * k), burstLength (ctlLength h.copy) k, false⟩
  | .data k =>
    some ⟨hostAddress (labelDataAddress h.copy) (256 * k), burstLength (labelDataLength h.copy) k,
      false⟩
  | .complete bytes => some (ch.completionTransfer c h.index bytes)

/-- The transfer channel c has requested, in host memory (R85, R88, R90, R92, R93, R101). -/
def Channel.hostTransfer? (ch : Channel) (c : Chan) : Option HostTransfer :=
  match ch.xfer with
  | none => none
  | some .fetch => some ⟨ch.descriptorAddress ch.fetchIndex, 64, false⟩
  | some .pendingCompletion =>
    ch.pendingCompletions.head?.map fun p => ch.completionTransfer c p.index p.bytes
  | some .burst => ch.hand.bind (ch.handTransfer? c)
  | some .profile => ch.hand.bind (ch.handTransfer? c)
  | some .data => ch.hand.bind (ch.handTransfer? c)
  | some .handCompletion => ch.hand.bind (ch.handTransfer? c)

/-- The conditions of FULL: the queue holds 8 contexts, or the fetch index is held (R94). -/
def State.fullCondition (s : State) (c : Chan) : Bool :=
  match c with
  | .control => false
  | .station n =>
    decide (8 ≤ (s.station n).queue.length) ||
      (s.rings.get n).held.contains (s.rings.get n).fetchIndex

/-- The transfer the descriptor in hand calls for next (R89 to R92). -/
def Work.transfer : Work → Option Xfer
  | .owner => none
  | .busy => none
  | .profile => some .profile
  | .load _ _ => some .burst
  | .data _ => some .data
  | .complete _ => some .handCompletion

/-- A channel with no transfer requested chooses its next: pending completions first (R93), then the
work in hand, then a fetch where it is free to fetch (R85) or the FULL state in its place where a
condition of FULL holds (R94), or an auto-poll refetch (R87). -/
def Channel.request (ch : Channel) (full : Bool) : Channel :=
  if ch.xfer.isSome then ch
  else if ch.pendingCompletions ≠ [] then { ch with xfer := some .pendingCompletion }
  else
    match ch.hand with
    | some h => { ch with xfer := h.work.transfer }
    | none =>
      match ch.state with
      | .running =>
        if full then { ch with state := .full }
        else { ch with xfer := some .fetch, pollLatch := false }
      | .suspended =>
        if ch.refetchDue then
          { ch with xfer := some .fetch, pollLatch := false, refetchDue := false }
        else ch
      | .stopped => ch
      | .full => ch

/-- The request of channel c. -/
def State.request (s : State) (c : Chan) : State :=
  s.updChan c fun ch => ch.request (s.fullCondition c)

/-- The circle searched from a channel on (R102). -/
def circleFrom (p : Chan) : List Chan :=
  [p, p.next, p.next.next, p.next.next.next, p.next.next.next.next]

/-- A channel has a request waiting. -/
def State.waiting (s : State) (c : Chan) : Bool := (s.chan c).xfer.isSome

/-- The channel the BMA grants among the requests waiting (R102). -/
def State.arbitrate (s : State) : Option Chan :=
  match s.arbiter with
  | .rotate => (circleFrom s.pointer).find? s.waiting
  | .labelsFirst =>
    match (circleFrom s.pointer).find? fun c => c != .control && s.waiting c with
    | some c => some c
    | none => if s.waiting .control then some .control else none

/-- The pointer after a grant (R102). -/
def State.pointerAfter (s : State) (c : Chan) : Chan :=
  if s.arbiter = .labelsFirst ∧ c = .control then s.pointer else c.next

/-- The BMA grants the bus master when it is free and a request is waiting, and the transfer granted
goes out (R101, R102). -/
def State.grant (s : State) : State :=
  if s.bus.isSome then s
  else
    match s.arbitrate with
    | some c =>
      { s with bus := some c, pointer := s.pointerAfter c, transfer := (s.chan c).hostTransfer? c }
    | none => s

/-- The end of an event at the channels and the BMA: every channel makes the request it has, and a
free bus master is granted (R85, R93, R101). The requests made in the event are candidates (log 8). -/
def State.settleBus (s : State) : State :=
  (Chan.all.foldl State.request s).grant

/-! ### Stopping and suspending (R85, R97 to R99) -/

/-- The channel enters STOPPED with a cause; its auto-poll timer stops (R97, R98). -/
def State.stopChannel (s : State) (c : Chan) (cause : StopCause) : State :=
  s.updChan c fun ch =>
    { ch with state := .stopped, stopCause := cause, stopPending := false, autoPollTimer := none,
              refetchDue := false, failing := false }

/-- The channel is STOPPED after a bus error: poll latch and stop pending are cleared (R99). -/
def State.stopFailed (s : State) (c : Chan) : State :=
  (s.stopChannel c .busError).updChan c fun ch => { ch with pollLatch := false }

/-- The descriptor in hand is dropped; a channel stopping after a bus error, or with a STOP pending,
enters STOPPED (R89, R97, R99). -/
def State.dropHand (s : State) (c : Chan) : State :=
  let s1 := s.updChan c fun ch => { ch with hand := none }
  if (s.chan c).failing then s1.stopFailed c
  else if (s.chan c).stopPending then s1.stopChannel c .host
  else s1

/-- The start of the auto-poll timer: the clock, unless the interval is OFF (R87). -/
def State.autoPollStart (s : State) : Option Word :=
  match autoPollMs s.autoPoll with
  | some _ => some s.clock
  | none => none

/-- A fetch found HOST with the poll latch clear: SUSPENDED, RING_SUSPENDED, timer (R85). -/
def State.suspend (s : State) (c : Chan) : State :=
  (s.updChan c fun ch =>
    { ch with state := .suspended, autoPollTimer := s.autoPollStart }).raise (.ringSuspended c)

/-- The FULL test made again at the end of a completion write (R94, log 11). -/
def State.retestFull (s : State) (c : Chan) : State :=
  if (s.chan c).state = .full ∧ s.fullCondition c = false then
    s.updChan c fun ch => { ch with state := .running }
  else s

/-! ### Work in hand -/

/-- Set the work of the descriptor in hand. -/
def State.setWork (s : State) (c : Chan) (w : Work) : State :=
  s.updChan c fun ch => { ch with hand := ch.hand.map fun h => { h with work := w } }

/-- The descriptor in hand of a channel at some work, if its work is that. -/
def State.handAt? (s : State) (c : Chan) (w : Work) : Option (List Byte) :=
  match (s.chan c).hand with
  | some h => if h.work = w then some h.copy else none
  | none => none

/-- RCH-C's descriptor in hand, when it is a command of a code handed to its owner (R89). -/
def State.commandInHand? (s : State) (code : ControlCode) : Option (List Byte) :=
  (s.handAt? .control .owner).filter fun d => controlCode d == code

/-- The outcome of the command in hand, which RCH-C writes as its completion (R89). -/
def State.outcome (s : State) (bytes : List Byte) : State := s.setWork .control (.complete bytes)

/-- The outcome of a CALIBRATE or DOTCHECK that RCH-C waits for (R91). -/
def State.report (s : State) (code : ControlCode) (bytes : List Byte) : State :=
  match s.handAt? .control .busy with
  | some d => if controlCode d = code then s.outcome bytes else s
  | none => s

/-- The completion bytes and then the owner field HOST leave for host memory (R88, R209). -/
def State.deliver (s : State) (c : Chan) (i : Nat) (bytes : List Byte) : State :=
  s.updChan c fun ch =>
    { ch with written := some ⟨ch.completionAddress c i, bytes ++ [0]⟩ }

/-- The DONE cause of a channel (R88). -/
def doneCause : Chan → Cause
  | .control => .controlDone
  | .station n => .stationDone n

/-! ### Body loads (R16, R18, R23) -/

/-- A load is aborted or its body refused: the loading body's blocks are freed; a record LOADING under
a DEFINE becomes FREE, a record under an AMEND stays as it was (R17, R18, R23). -/
def State.dropLoading (s : State) (h : Nat) : State :=
  let r := s.record h
  let s1 :=
    if r.state = .loading then s.setRecord h Record.empty
    else s.setRecord h { r with loading := none }
  match r.loading with
  | some b => s1.freeBlocks b.blocks
  | none => s1

/-- The load of the DEFINE or AMEND in hand is aborted by a STOP, with completion ABORTED (R18, R98). -/
def State.abortLoad (s : State) (d : List Byte) : State :=
  let h := ctlHandle d
  let s1 := s.dropLoading h
  s1.outcome (s1.recordCompletion h .aborted [])

end Sys2Proof.Machine
end

