-- ==== Sys2Proof/Machine/Labels.lean ====
section
/-! DEFINITION. Label contexts: acceptance, join, abandonment and finish, and the Composer's choice and draw
(Chapter 6). -/

namespace Sys2Proof.Machine

/-! ### Labels of a queue -/

/-- Change the label of a context number in a station's queue. -/
def State.updLabel (s : State) (n : StationNo) (ctx : Nat) (f : Label → Label) : State :=
  s.updStation n fun t =>
    { t with queue := t.queue.map fun l => if l.ctx = ctx then f l else l }

/-- The label of a context number in a station's queue. -/
def Station.label? (t : Station) (ctx : Nat) : Option Label := t.queue.find? fun l => l.ctx == ctx

/-- A label has not started while it is ACCEPTED, COMPOSING, READY or FAILED (R136). -/
def LabelState.unstarted : LabelState → Bool
  | .accepted => true
  | .composing => true
  | .ready => true
  | .failed => true
  | .fetching => false
  | .printing => false
  | .presenting => false

/-- A label that has not started and carries no abandon mark (R136). -/
def Label.eligible (l : Label) : Bool := l.state.unstarted && l.mark.isNone

/-- The labels that entries of the trigger queue are paired with, in order (R136). -/
def Station.eligible (t : Station) : List Label := t.queue.filter Label.eligible

/-- The trigger entry a label is paired with (R136). -/
def Station.pairedTrigger? (t : Station) (ctx : Nat) : Option Trigger :=
  t.triggers[t.eligible.findIdx fun l => l.ctx == ctx]?

/-! ### Finish (R126) and abandonment (R125) -/

/-- The head of LQ-n finishes with a status: it leaves the queue, its reservation is freed, its pins
are released, and its completion joins RCH-n's pending completions (R38, R126). The bodies of several records
that its pins free go back in the order of log 43. -/
def State.finishHead (s : State) (n : StationNo) (st : Status) : State :=
  match (s.station n).queue with
  | [] => s
  | l :: rest =>
    (((s.updStation n fun t => { t with queue := rest }).freeBlocks l.reservation).releasePins
      l).updChan (.station n) fun ch =>
        { ch with pendingCompletions := ch.pendingCompletions ++ [⟨l.index, l.completion st⟩] }

/-- An abandonment request with a status (R125). -/
def State.abandon (s : State) (n : StationNo) (ctx : Nat) (st : Status) : State :=
  match (s.station n).label? ctx with
  | none => s
  | some l =>
    if l.mark.isSome then s
    else if ((s.station n).queue.head?.map fun h => h.ctx) = some ctx ∧ l.state ≠ .composing then
      s.finishHead n st
    else s.updLabel n ctx fun l => { l with mark := some st }

/-- Abandonment requests for several labels, each against the queue as the one before left it (R154). -/
def State.abandonAll (s : State) (n : StationNo) (st : Status) : List Nat → State
  | [] => s
  | c :: cs => (s.abandon n c st).abandonAll n st cs

/-! ### Acceptance (R109, R110) -/

/-- A status that holds under a condition. -/
def refuseIf (b : Bool) (st : Status) : Option Status := if b then some st else none

/-- Check 3 passes: the handle names an ACTIVE FORM (R9, R109). -/
def State.formFound (s : State) (h : Nat) : Bool :=
  decide (h ≤ 1023) && (s.record h).state == .active && (s.record h).kind == some .form

/-- Check 5 fails (R109). -/
def formTooLarge (t : Station) (rd : Reader) : Bool :=
  match t.profile with
  | some p => decide (p.pitch < formLength rd) || decide (t.dotCount < formWidth rd + p.leftMargin)
  | none => false

/-- Check 6 fails (R109). -/
def labelDataBad (d : List Byte) (fields : List Field) : Bool :=
  let sc := labelSlotCount d
  let dl := labelDataLength d
  decide (16 < sc) || decide (1536 < dl) || (sc == 0 && decide (0 < dl)) ||
  (decide (0 < sc) && decide (dl < sc)) ||
  fields.any fun f => f.sourced && f.source == some .slot && decide (sc ≤ f.slot)

/-- The reservation a label asks for (R36). -/
def State.reservationFor (s : State) (d : List Byte) : Nat :=
  reservationBlocks (s.maximumElements (formFields (s.currentContent (labelForm d))))
    (labelDataLength d)

/-- Checks 1 to 6 of acceptance: the first that fails (R109). -/
def State.acceptanceFault? (s : State) (n : StationNo) (d : List Byte) : Option Status :=
  let t := s.station n
  let h := labelForm d
  let rd := s.currentContent h
  (refuseIf (!t.fitted) .noHead).or <|
  (refuseIf (t.state == .offline) .stationOffline).or <|
  (refuseIf (!s.formFound h) .formMissing).or <|
  (refuseIf (labelVersion d != 0 && labelVersion d != (s.record h).version) .versionMismatch).or <|
  (refuseIf (formTooLarge t rd) .formTooLarge).or <|
  refuseIf (labelDataBad d (formFields rd)) .badData

/-- The reference list of a body. -/
def bodyRefs : Option Body → List Nat
  | some b => b.refs
  | none => []

/-- The handles of a list whose record is of a kind or not a COUNTER (R10, R53). -/
def State.countersOf (s : State) (refs : List Nat) : List Nat :=
  refs.filter fun h => (s.record h).kind == some .counter

/-- The FONT and SYMBOLOGY handles of a reference list (R53). -/
def State.drawnOf (s : State) (refs : List Nat) : List Nat :=
  refs.filter fun h => (s.record h).kind != some .counter

/-- The lowest context number of a station that is unused (log 24). -/
def Station.freeContext (t : Station) : Nat :=
  ((List.range 8).find? fun c =>
    !(t.queue.any fun l => l.ctx == c) && !(t.fetching.any fun l => l.ctx == c)).getD 0

/-- The context an acceptance sets (R110). -/
def State.newContext (s : State) (n : StationNo) (d : List Byte) (index : Nat)
    (blocks : List Nat) : Label :=
  let h := labelForm d
  let refs := bodyRefs (s.record h).current
  { ctx := (s.station n).freeContext, state := .fetching, mark := none, index := index, form := h,
    formVersion := (s.record h).version,
    pinned := (h :: s.drawnOf refs).map fun k =>
      (k, match (s.record k).current with | some b => b.version | none => 0),
    counterPins := s.countersOf refs, drawn := [], dotAvoid := labelDotAvoid d,
    slotCount := labelSlotCount d, slots := [], dataLength := labelDataLength d,
    reservation := blocks, elementCount := none,
    shifts := (((formFields (s.currentContent h)).filter fun f =>
      f.kind == some .barcode).map fun _ => 0),
    warnings := Warnings.none, failure := none, stamp := none }

/-- The handles an acceptance pins: the form, its fonts and symbologies, its counters (R10). -/
def Label.pinHandles (l : Label) : List Nat := l.pinned.map (fun p => p.1) ++ l.counterPins

/-! ### Join (R111, R112) -/

/-- The label being fetched for joins the tail of its queue as ACCEPTED with the next stamp, its
index joins the held set, and the descriptor in hand is dropped (R92, R111). -/
def State.join (s : State) (n : StationNo) (l : Label) : State :=
  let l' := { l with state := LabelState.accepted, stamp := some s.nextStamp }
  let s1 := s.updStation n fun t =>
    { t with queue := t.queue ++ [l'], fetching := none, parkTimer := none }
  let s2 := { s1 with nextStamp := s1.nextStamp + 1 }
  (s2.updChan (.station n) fun ch => { ch with held := ch.held ++ [l.index] }).dropHand (.station n)

/-- A label refused after its pins were taken: the pins are released and then the reservation is
freed (log 10), bodies of several records in the order of log 43; the context becomes unused (R38, R111). -/
def State.discardFetching (s : State) (n : StationNo) : State :=
  match (s.station n).fetching with
  | none => s
  | some l =>
    ((s.updStation n fun t => { t with fetching := none }).releasePins l).freeBlocks l.reservation

/-- The slot directory and slots of a data copy, if it parses (R111). -/
def parseSlots (rd : Reader) (slotCount dataLength : Nat) : Option (List (Nat × Nat)) :=
  let dir := (List.range slotCount).map rd
  if (dir.any fun b => decide (96 < b)) || slotCount + dir.sum != dataLength then none
  else some ((List.range slotCount).map fun j => (slotCount + (dir.take j).sum, dir.getD j 0))

/-! ### The Composer's choice (R115) -/

/-- A label may be its station's candidate: ACCEPTED without a mark (R115). -/
def Label.mayCompose (l : Label) : Bool := l.state == .accepted && l.mark.isNone

/-- A station's candidate: its oldest ACCEPTED label without a mark (R115). -/
def Station.candidate? (t : Station) : Option Label := t.queue.find? Label.mayCompose

/-- The last-start time of a station's candidate, where the station is urgent (R115). -/
def Station.urgentTime? (t : Station) : Option Word :=
  match t.candidate? with
  | some l => (t.pairedTrigger? l.ctx).bind fun e => e.lastStart
  | none => none

/-- The urgent station with the earliest last-start, the lowest number on equal times (R115). -/
def State.urgentStation? (s : State) : Option StationNo :=
  (StationNo.all.foldl (fun (best : Option (StationNo × Word)) n =>
    match (s.station n).urgentTime?, best with
    | some t, some (b, u) => if earlier t u then some (n, t) else some (b, u)
    | some t, none => some (n, t)
    | none, b => b) none).map fun p => p.1

/-- The station whose candidate has the oldest stamp (R115). -/
def State.oldestStation? (s : State) : Option StationNo :=
  (StationNo.all.foldl (fun (best : Option (StationNo × Nat)) n =>
    match ((s.station n).candidate?.map fun l => l.stamp.getD 0), best with
    | some t, some (b, u) => if t < u then some (n, t) else some (b, u)
    | some t, none => some (n, t)
    | none, b => b) none).map fun p => p.1

/-- The station whose candidate the Composer takes (R115). -/
def State.composerPick? (s : State) : Option StationNo := s.urgentStation?.or s.oldestStation?

/-! ### The draw request (R79, R116) -/

/-- A named counter has its exhausted flag SET (R79). -/
def State.exhausted (s : State) (h : Nat) : Bool := ctrExhausted (s.currentContent h)

/-- Write bytes of the content of a block list from a position on. -/
def State.writeContents (s : State) (blocks : List Nat) (i : Nat) : List Byte → State
  | [] => s
  | b :: bs => (s.writeContent blocks i b).writeContents blocks (i + 1) bs

/-- One draw: the value and exhausted flag advance in the counter's current body and the label's
counter pin is released, in one event (R12, R78, R212). -/
def State.drawOne (s : State) (h : Nat) : State × List Byte :=
  match (s.record h).current with
  | none => (s, [])
  | some b =>
    let rd := s.content b.blocks
    let a := drawAdvance rd
    let s1 := (s.writeContents b.blocks 16 (bcdBytes 6 a.1)).writeContent b.blocks 2
      (byte (flagAt a.2 0))
    (s1.unpinCounter h, drawString rd)

/-- The draws of a granted request, in the order named (R79). -/
def State.drawAll (s : State) : List Nat → State × List (Nat × List Byte)
  | [] => (s, [])
  | h :: hs =>
    let d := s.drawOne h
    let r := d.1.drawAll hs
    (r.1, (h, d.2) :: r.2)

/-- Change the candidate of a station that has a context number. -/
def State.updCandidate (s : State) (n : StationNo) (ctx : Nat) (f : Label → Label) : State :=
  s.updLabel n ctx fun l => if l.mayCompose then f l else l

/-- The Composer takes the candidate of a station (R116). -/
def State.composerTake (s : State) (n : StationNo) (l : Label) : State :=
  if l.counterPins.any s.exhausted then
    s.updCandidate n l.ctx fun l =>
      { l with state := .failed, failure := some .counterExhausted }
  else
    let d := s.drawAll l.counterPins
    { d.1.updCandidate n l.ctx fun l =>
        { l with state := .composing, drawn := d.2, counterPins := [] }
      with composer := some ⟨n, l.ctx, 0, 0⟩ }

/-- The IDLE Composer chooses until it is BUSY or no candidate is left (R115, R116); at most one
round for each of the 32 contexts and one more. -/
def State.composerChoose : Nat → State → State
  | 0, s => s
  | k + 1, s =>
    if s.composer.isSome then s
    else
      match s.composerPick? with
      | none => s
      | some n =>
        match (s.station n).candidate? with
        | none => s
        | some l => State.composerChoose k (s.composerTake n l)

/-! ### The Composer's label in hand -/

/-- The Composer's job and label in hand (R114). -/
def State.inHand? (s : State) : Option (Job × Label) :=
  match s.composer with
  | none => none
  | some j => ((s.station j.station).label? j.ctx).map fun l => (j, l)

/-- The composition of a marked label ends in place of its next step: FAILED with the mark's status,
warnings and shifts cleared; at the head it finishes in the same event (R125). -/
def State.endMarked (s : State) (j : Job) (st : Status) : State :=
  let s1 := { s.updLabel j.station j.ctx fun l =>
      { l with state := .failed, failure := some st, warnings := Warnings.none,
               shifts := l.shifts.map fun _ => 0 }
    with composer := none }
  if ((s.station j.station).queue.head?.map fun h => h.ctx) = some j.ctx then
    s1.finishHead j.station st
  else s1

/-- The number of BARCODE fields before field i (R119). -/
def barcodesBefore (rd : Reader) (i : Nat) : Nat :=
  (((formFields rd).take i).filter fun f => f.kind == some .barcode).length

end Sys2Proof.Machine
end

