-- ==== Sys2Proof/Machine/HeadDrive.lean ====
section
/-! DEFINITION. The Head Drive: live set, rasterising, heat history, phases and line period (Chapter 8). -/

namespace Sys2Proof.Machine

/-! ### Live set and raster (R165 to R167) -/

/-- The last line of an entry's visible box (R165). -/
def Element.lastLine (e : Element) : Nat := e.top + e.lines - 1

/-- The entries from the list position on whose top line equals l: the walk stops at the first whose
top line is above l (R165). -/
def takeLine (l : Nat) : List Element → List Element
  | [] => []
  | e :: es => if e.top ≤ l then e :: takeLine l es else []

/-- The live set and list position brought up to date for a printed line (R165). -/
def Drive.updateLive (d : Drive) (elements : List Element) (l : Nat) : Drive :=
  let walked := takeLine l (elements.drop d.listPosition)
  { d with live := (d.live.filter fun e => decide (l ≤ e.lastLine)) ++
             walked.filter fun e => e.top == l,
           listPosition := d.listPosition + walked.length }

/-- The bit of a glyph bitmap at a row and column (R60, R212). -/
def glyphBit (rd : Reader) (bitmap width row col : Nat) : Bool :=
  (rd (bitmap + row * ceilDiv width 8 + col / 8)).testBit (7 - col % 8)

/-- Form dot d of a live entry is set in line l; glyphs are read by the content of the body at a
position of the pinned bodies (R166). -/
def Element.setsDot (glyphs : Nat → Reader) (e : Element) (l d : Nat) : Bool :=
  decide (e.left ≤ d) && decide (d < e.left + e.dots) &&
  match e.kind with
  | .bar => true
  | .rule => true
  | .glyph =>
    if e.rot90 then
      glyphBit (glyphs e.glyphBody) e.bitmap e.width (e.cellLeft + e.height - 1 - d) (l - e.cellTop)
    else glyphBit (glyphs e.glyphBody) e.bitmap e.width (l - e.cellTop) (d - e.cellLeft)

/-- The line's dots: the head elements fired, ascending (R166, R167). -/
def rasterLine (glyphs : Nat → Reader) (live : List Element) (l margin dotCount : Nat) : List Nat :=
  (List.range dotCount).filter fun e =>
    decide (margin ≤ e) && live.any fun x => x.setsDot glyphs l (e - margin)

/-! ### History and phases (R168 to R171) -/

/-- The history classes in the order their phases fire (R168, R169). -/
inductive HistoryClass where
  | both | prevOnly | olderOnly | neither
  deriving DecidableEq, Repr

/-- The number of a class in the strobe table (R211). -/
def HistoryClass.code : HistoryClass → Nat
  | .both => 0
  | .prevOnly => 1
  | .olderOnly => 2
  | .neither => 3

/-- The order of firing (R169). -/
def HistoryClass.all : List HistoryClass := [.both, .prevOnly, .olderOnly, .neither]

/-- The class of a dot (R168). -/
def historyClass (previous older : List Nat) (e : Nat) : HistoryClass :=
  match previous.contains e, older.contains e with
  | true, true => .both
  | true, false => .prevOnly
  | false, true => .olderOnly
  | false, false => .neither

/-- A list cut into parts of at most k, in order (R169); one round for each element is enough. -/
def chunks (k : Nat) : Nat → List Nat → List (List Nat)
  | 0, _ => []
  | r + 1, l => if l.isEmpty then [] else l.take k :: chunks k r (l.drop k)

/-- The width of the sub-phases of a class (R170). -/
def strobeWidth (p : Profile) (band : Band) (darkness : Int) (c : HistoryClass) : Nat :=
  p.strobe.getD (3 * c.code + band.code) 0 * (16 + darkness).toNat / 16

/-- The sub-phases of a line's dots (R169, R170). -/
def subPhases (p : Profile) (band : Band) (darkness : Int) (previous older dots : List Nat) :
    List SubPhase :=
  (HistoryClass.all.map fun c =>
    let ds := dots.filter fun e => historyClass previous older e == c
    (chunks p.maxDots ds.length ds).map fun part =>
      (⟨part, strobeWidth p band darkness c⟩ : SubPhase)).flatten

/-- The busy time of a printed line (R171). -/
def busyTime (phases : List SubPhase) : Nat :=
  (phases.map fun x => x.width).sum + Config.lineOverhead

/-- The period of a printed line (R171). -/
def printedPeriod (p : Profile) (phases : List SubPhase) : Nat := max p.linePeriod (busyTime phases)

/-- The history moves on when the line's phases have all been fired (R168). -/
def Drive.moveOn (d : Drive) : Drive :=
  { d with older := d.previous, previous := d.lineDots, lineDots := [], firing := [] }

/-- The content of the bodies a label pinned, by position (R166). -/
def State.glyphContents (s : State) (l : Label) : Nat → Reader := fun k =>
  match l.pinned[k]? with
  | some (h, v) => s.versionContent h v
  | none => fun _ => 0

/-- A printed line begins at the drive: live set, line's dots, phases; a line without dots moves the
history on at once (R165 to R169). The left margin is that of the profile as it stands (R167, log 31). -/
def State.rasterise (s : State) (n : StationNo) (p : Profile) (l : Label) (d : Drive) : Drive :=
  let t := s.station n
  let line := d.nextLine
  let d1 := d.updateLive (s.entries l.elementBlocks (l.elementCount.getD 0)) line
  let dots := rasterLine (s.glyphContents l) d1.live line p.leftMargin t.dotCount
  let phases := subPhases p t.thermal.band (formDarkness (s.formContent l)) d.previous d.older dots
  let d2 := { d1 with nextLine := line + 1, lineDots := dots, firing := phases }
  if phases.isEmpty then d2.moveOn else d2

end Sys2Proof.Machine
end

