-- ==== Sys2Proof/Machine/Stations.lean ====
section
/-! DEFINITION. The Station Controller's shared operations: entry to a state, skip-on-fault, lines of feed,
faults, ends of work, arrivals, pairing and the start test (Chapter 7). -/

namespace Sys2Proof.Machine

/-! ### Entering a state (R133) -/

/-- Head power after an entry to a state from a state (R133). -/
def powerAfter (old new : StationState) (power : Bool) : Bool :=
  match new with
  | .waking => true
  | .idle => true
  | .printing => true
  | .presenting => true
  | .ejecting => true
  | .checking => true
  | .calibrating => true
  | .offline => false
  | .parked => false
  | .held => if old = .parked ∨ old = .waking then false else power
  | .fault => if old = .parked ∨ old = .waking then false else power

/-- The station enters a state: head power by R133; MOTOR is stopped at entry, and the work items of
the state left are gone: line in progress, drive (R163), park, settle and apply timers, LABEL_OUT,
check due, return state, print deadline. -/
def Station.enter (t : Station) (new : StationState) (clock : Word) : Station :=
  { t with
    state := new, power := powerAfter t.state new t.power, motor := false, feed := none,
    drive := none, parkTimer := none,
    wakeTimer := if new = .waking then some clock else none,
    applyTimer := if new = .presenting then some clock else none,
    labelOut := new == .presenting,
    checkDue := t.checkDue && new == .waking,
    returnState := if new = .checking ∨ new = .calibrating ∨ new = .ejecting then t.returnState
      else none,
    printDeadline := if new = .printing ∨ new = .presenting then t.printDeadline else none }

/-- Station n enters a state. -/
def State.enter (s : State) (n : StationNo) (new : StationState) : State :=
  s.updStation n fun t => t.enter new s.clock

/-- Station n wakes with a cause (R158). -/
def State.wakeUp (s : State) (n : StationNo) (cause : WakeCause) : State :=
  (s.enter n .waking).updStation n fun t => { t with wakeCause := cause }

/-! ### Skip-on-fault (R139) -/

/-- The station's profile asks for skip-on-fault. -/
def Station.skips (t : Station) : Bool :=
  match t.profile with
  | some p => p.skipOnFault
  | none => false

/-- One arrival taken by skip-on-fault (R139). -/
def State.skipOne (s : State) (n : StationNo) : State :=
  if (s.station n).skips then
    match (s.station n).eligible.head? with
    | some l => s.abandon n l.ctx .skipped
    | none => s
  else s

/-- So many arrivals taken by skip-on-fault, oldest first. -/
def State.skipMany (s : State) (n : StationNo) : Nat → State
  | 0 => s
  | k + 1 => (s.skipOne n).skipMany n k

/-- The pending entries are taken by skip-on-fault and the trigger queue is empty (R139). -/
def State.skipPending (s : State) (n : StationNo) : State :=
  let k := (s.station n).triggers.length
  (s.updStation n fun t => { t with triggers := [] }).skipMany n k

/-! ### HELD, IDLE and FAULT -/

/-- The station enters HELD; pending entries are taken by skip-on-fault (R139, R152). -/
def State.enterHeld (s : State) (n : StationNo) : State :=
  ((s.enter n .held).updStation n fun t => { t with holdPending := false }).skipPending n

/-- The station enters HELD where a hold is pending, clearing it, and IDLE otherwise (R147, R148). -/
def State.enterRest (s : State) (n : StationNo) : State :=
  if (s.station n).holdPending then s.enterHeld n else s.enter n .idle

/-- The station enters its return state, or HELD where a hold is pending (R155, R160, R161). -/
def State.enterReturn (s : State) (n : StationNo) : State :=
  if (s.station n).holdPending ∨ (s.station n).returnState = some .held then s.enterHeld n
  else s.enter n .idle

/-- The station enters FAULT with a cause, raises STATION_FAULT-n, clears hold pending, and takes
its pending entries by skip-on-fault (R140, R146, R148, R149). -/
def State.enterFault (s : State) (n : StationNo) (cause : FaultCause) : State :=
  (((s.enter n .fault).updStation n fun t =>
    { t with faultCause := cause, holdPending := false }).raise (.stationFault n)).skipPending n

/-- Registration and alignment of the stock. -/
def State.setStock (s : State) (n : StationNo) (registered aligned : Bool) : State :=
  s.updStation n fun t => { t with registered := registered, aligned := aligned }

/-- The label printing or presenting at the head finishes with a status, where there is one. -/
def State.finishWorking (s : State) (n : StationNo) (st : Status) : State :=
  if (s.station n).state = .printing ∨ (s.station n).state = .presenting then s.finishHead n st
  else s

/-- A media fault in PRINTING or EJECTING (R146). -/
def State.mediaFault (s : State) (n : StationNo) : State :=
  ((s.finishWorking n .mediaFault).setStock n false false).enterFault n .mediaFault

/-! ### Calibration (R159, R160) -/

/-- A calibration ends with MEDIA_FAULT (R160). -/
def State.calibrationFails (s : State) (n : StationNo) : State :=
  ((s.report .calibrate (controlCompletion .mediaFault [])).setStock n false false).enterReturn n

/-- The second edge ends a calibration with the count at that edge (R160); lines since edge counts
afresh from that edge (R130, log 13). -/
def State.calibrationMeasured (s : State) (n : StationNo) (pitch : Nat) : State :=
  if within 16 4200 pitch then
    (((s.report .calibrate (calibrateCompletion pitch)).updStation n fun t =>
      { t with profile := t.profile.map (fun p => { p with pitch := pitch }),
               sinceEdge := 0 }).setStock n true
        true).enterReturn n
  else s.calibrationFails n

/-! ### Lines (R144, R145, R164) -/

/-- The nominal line period of the profile. -/
def Station.nominalPeriod (t : Station) : Nat :=
  match t.profile with
  | some p => p.linePeriod
  | none => 0

/-- The greatest count of lines since edge without an edge (R145). -/
def Station.edgeLimit (t : Station) : Nat :=
  match t.profile with
  | some p => p.pitch + p.tolerance
  | none => 0

/-- MOTOR makes one step: lines since edge rises by 1 (R145). -/
def State.stepMotor (s : State) (n : StationNo) : State :=
  s.updStation n fun t => { t with sinceEdge := t.sinceEdge + 1, motor := true }

/-- A line of a kind is in progress and lasts a period. -/
def State.setFeed (s : State) (n : StationNo) (k : LineKind) (period : Nat) : State :=
  s.updStation n fun t => { t with feed := some ⟨k, false, period⟩ }

/-- A printed line begins at the drive and lasts the period of R171. -/
def State.firePrinted (s : State) (n : StationNo) : State :=
  let t := s.station n
  match t.profile, t.queue.head?, t.drive with
  | some p, some l, some d =>
    let phases := (s.rasterise n p l d).firing
    (s.updStation n fun t => { t with drive := some (s.rasterise n p l d) }).setFeed n .printed
      (printedPeriod p phases)
  | _, _, _ => s.setFeed n .printed t.nominalPeriod

/-- A line of PRINTING begins (R144, R145, R146, R164): the hot-hold condition pauses it; an inactive
MEDIA_PRESENT, or a step past the edge limit, is a media fault. -/
def State.beginPrinting (s : State) (n : StationNo) (k : LineKind) : State :=
  let t := s.station n
  if t.thermal.hotHold then
    s.updStation n fun t =>
      { t with feed := some ⟨k, true, t.nominalPeriod⟩, motor := false }
  else if !t.mediaPresent then s.mediaFault n
  else if t.edgeLimit < t.sinceEdge + 1 then s.mediaFault n
  else
    match k with
    | .printed => (s.stepMotor n).firePrinted n
    | .leading => (s.stepMotor n).setFeed n k t.nominalPeriod
    | .peel _ => (s.stepMotor n).setFeed n k t.nominalPeriod
    | .eject => (s.stepMotor n).setFeed n k t.nominalPeriod
    | .calibrate _ _ => (s.stepMotor n).setFeed n k t.nominalPeriod

/-- A line of EJECTING begins (R155). -/
def State.beginEjecting (s : State) (n : StationNo) : State :=
  let t := s.station n
  if !t.mediaPresent then s.mediaFault n
  else if t.edgeLimit < t.sinceEdge + 1 then s.mediaFault n
  else (s.stepMotor n).setFeed n .eject t.nominalPeriod

/-- A line of CALIBRATING begins, after so many lines and edges (R160). -/
def State.beginCalibrating (s : State) (n : StationNo) (lines edges : Nat) : State :=
  let t := s.station n
  if !t.mediaPresent then s.calibrationFails n
  else if Config.calibrationLimit ≤ lines then s.calibrationFails n
  else (s.stepMotor n).setFeed n (.calibrate (lines + 1) edges) t.nominalPeriod

/-- Lines since edge is set to 0 when the station enters PRINTING or EJECTING not registered (R145). -/
def State.resetUnregistered (s : State) (n : StationNo) : State :=
  s.updStation n fun t => { t with sinceEdge := if t.registered then t.sinceEdge else 0 }

/-- The station's mode, where it holds a profile (R131). -/
def Station.mode? (t : Station) : Option Mode := t.profile.map fun p => p.mode

/-- The end of feed to peel (R147). -/
def State.peelEnd (s : State) (n : StationNo) : State :=
  let t := s.station n
  let s1 := s.updStation n fun t => { t with aligned := true }
  match t.mode? with
  | some .stream => (s1.finishHead n .printed).enterRest n
  | _ =>
    let late := match t.printDeadline with
      | some d => earlier d s.clock
      | none => false
    match t.queue.head? with
    | some l =>
      (s1.updLabel n l.ctx fun l =>
        { l with state := .presenting,
                 warnings := l.warnings.or { Warnings.none with deadlineOverrun := late } }).enter n
        .presenting
    | none => s1.enter n .presenting

/-- The lines of a label's form, from the form body it pinned (R43, R51). -/
def State.labelLines (s : State) (l : Label) : Nat := formLength (s.formContent l)

/-- After a printed line: the next line of the form, or feed to peel, or its end (R144, R147). -/
def State.afterPrinted (s : State) (n : StationNo) : State :=
  let t := s.station n
  match t.profile, t.queue.head?, t.drive with
  | some p, some l, some d =>
    if d.nextLine < s.labelLines l then s.beginPrinting n .printed
    else if p.feedToPeel = 0 then s.peelEnd n
    else s.beginPrinting n (.peel 1)
  | _, _, _ => s

/-- After feed-to-peel line k of feed_to_peel (R144, R147). -/
def State.afterPeel (s : State) (n : StationNo) (k : Nat) : State :=
  match (s.station n).profile with
  | some p => if k < p.feedToPeel then s.beginPrinting n (.peel (k + 1)) else s.peelEnd n
  | none => s

/-- The hot-hold condition has ceased: a paused line begins (R144, R178). -/
def State.releasePaused (s : State) (n : StationNo) : State :=
  let t := s.station n
  match t.feed with
  | some f =>
    if t.state = .printing ∧ f.paused = true ∧ t.thermal.hotHold = false then
      s.beginPrinting n f.kind
    else s
  | none => s

/-! ### Print start (R143) and eject (R154, R155) -/

/-- The head label starts; in APPLY mode the oldest entry leaves and its deadline becomes the print
deadline (R143). -/
def State.printStart (s : State) (n : StationNo) (l : Label) : State :=
  let t := s.station n
  let deadline := (t.triggers.head?).map fun e => e.deadline
  let s1 := (s.enter n .printing).updStation n fun t =>
    { t with triggers := t.triggers.drop 1, printDeadline := deadline,
             drive := some Drive.initial }
  let s2 := (s1.updLabel n l.ctx fun l => { l with state := .printing }).resetUnregistered n
  if t.aligned then s2.beginPrinting n .printed else s2.beginPrinting n .leading

/-- A label that was printing has been flushed: the station ejects (R154). -/
def State.startEject (s : State) (n : StationNo) : State :=
  let s1 := (s.enter n .ejecting).updStation n fun t =>
    { t with returnState := some (if t.holdPending then .held else .idle) }
  (s1.resetUnregistered n).beginEjecting n

/-! ### The dot check's ends at the station (R140, R149, R152, R189) -/

/-- A check of station n is aborted: the DCU becomes IDLE, a commanded check completes ABORTED, and an
automatic request is dropped or set again (R189). -/
def State.abortCheck (s : State) (n : StationNo) (again : Bool) : State :=
  match s.check with
  | none => s
  | some c =>
    if c.station = n then
      let s1 := { s with check := none }
      match c.origin with
      | .command => s1.report .dotcheck (controlCompletion .aborted [])
      | .auto =>
        if again then { s1 with checkPending := s1.checkPending.set n true } else s1
    else s

/-! ### Overrun (R140) and head open (R149) -/

/-- A calibration in progress ends with a status and the pitch unchanged (R140, R149). -/
def State.endCalibration (s : State) (n : StationNo) (st : Status) : State :=
  if (s.station n).state = .calibrating then s.report .calibrate (controlCompletion st []) else s

/-- TRIGGER_OVERRUN: the fifth arrival (R140). -/
def State.overrun (s : State) (n : StationNo) : State :=
  let old := (s.station n).state
  let s1 := ((s.finishWorking n .skipped).endCalibration n .aborted).abortCheck n true
  let s2 :=
    if old = .printing ∨ old = .presenting ∨ old = .ejecting then
      s1.updStation n fun t => { t with aligned := false }
    else s1
  (s2.enterFault n .overrun).skipOne n

/-- HEAD_OPEN becomes active in a state other than OFFLINE (R149). -/
def State.headOpened (s : State) (n : StationNo) : State :=
  ((((s.finishWorking n .headOpen).endCalibration n .headOpen).abortCheck n false).setStock n false
    false).enterFault n .headOpen

/-! ### Arrivals (R134, R135) -/

/-- The station watches its trigger input: APPLY mode with a profile present, not OFFLINE (R134). -/
def Station.watchesTrigger (t : Station) : Bool :=
  t.state != .offline && match t.profile with
    | some p => p.mode == .apply
    | none => false

/-- The level of TRIGGER is the active one (R131, R134). -/
def Station.triggerActive (t : Station) (high : Bool) : Bool :=
  match t.profile with
  | some p => high != p.activeLow
  | none => false

/-- An arrival joins the tail of the trigger queue, or is the overrun of the fifth (R135). -/
def State.joinTrigger (s : State) (n : StationNo) : State :=
  let t := s.station n
  if 4 ≤ t.triggers.length then s.overrun n
  else
    let window := match t.profile with
      | some p => p.applyWindow
      | none => 0
    s.updStation n fun t =>
      { t with triggers := t.triggers ++ [⟨s.clock, afterMs s.clock window, none⟩] }

/-- A trigger arrives (R135). -/
def State.arrive (s : State) (n : StationNo) : State :=
  match (s.station n).state with
  | .idle => s.joinTrigger n
  | .printing => s.joinTrigger n
  | .presenting => s.joinTrigger n
  | .ejecting => s.joinTrigger n
  | .checking => s.joinTrigger n
  | .calibrating => s.joinTrigger n
  | .waking => s.joinTrigger n
  | .parked =>
    if 4 ≤ (s.station n).triggers.length then s.overrun n
    else (s.joinTrigger n).wakeUp n .trigger
  | .held => s.skipOne n
  | .fault => s.skipOne n
  | .offline => s

/-! ### Pairing and expiry (R136, R137) -/

/-- The time before the deadline that a label needs (R136). -/
def State.leadTime (s : State) (n : StationNo) (l : Label) : Nat :=
  match (s.station n).profile with
  | some p => ceilDiv ((s.labelLines l + p.feedToPeel) * p.linePeriod) 1000
  | none => 0

/-- Remove entry k of the trigger queue (R137, R138). -/
def State.dropTrigger (s : State) (n : StationNo) (k : Nat) : State :=
  s.updStation n fun t => { t with triggers := t.triggers.eraseIdx k }

/-- The last-start of entry k, paired with a label, comes: the entry is removed; a FAILED label that
stands unmarked at the head finishes with its failure status, any other is abandoned LATE (R137). -/
def State.expireEntry (s : State) (n : StationNo) (k : Nat) (l : Label) : State :=
  let s1 := s.dropTrigger n k
  if l.state = .failed ∧ ((s.station n).queue.head?.map fun h => h.ctx) = some l.ctx then
    s1.finishHead n (l.failure.getD .late)
  else s1.abandon n l.ctx .late

/-- The first entry that is paired with a label and has no last-start time yet (R136). -/
def Station.newPair? (t : Station) : Option (Nat × Trigger × Label) :=
  ((List.range t.triggers.length).filterMap fun k =>
    match t.triggers[k]?, t.eligible[k]? with
    | some e, some l => if e.lastStart.isNone then some (k, e, l) else none
    | _, _ => none).head?

/-- Entries that become paired take their last-start times; one at or before the clock expires in the
same event (R136). One round sets or removes one entry. -/
def State.pair (n : StationNo) : Nat → State → State
  | 0, s => s
  | r + 1, s =>
    match (s.station n).newPair? with
    | none => s
    | some (k, e, l) =>
      let t := e.deadline - BitVec.ofNat 32 (s.leadTime n l)
      if atOrBefore t s.clock then State.pair n r (s.expireEntry n k l)
      else
        State.pair n r (s.updStation n fun st =>
          { st with triggers := st.triggers.set k { e with lastStart := some t } })

/-! ### The start test (R141, R142) -/

/-- What the start test finds at an IDLE station. -/
inductive StartResult where
  | wait
  | start (l : Label)
  | finish (st : Status)
  deriving DecidableEq, Repr

/-- The head of the queue may be started or disposed of: in APPLY mode it is paired with the oldest
entry (R141); in STREAM mode it needs none (R142). -/
def Station.headServed (t : Station) : Bool :=
  match t.mode? with
  | some .apply => !t.triggers.isEmpty
  | some .stream => true
  | none => false

/-- The start test of a station (R141, R142). -/
def State.startTest (s : State) (n : StationNo) : StartResult :=
  let t := s.station n
  match t.queue.head? with
  | none => .wait
  | some l =>
    if t.state ≠ .idle ∨ l.mark.isSome ∨ t.headServed = false then .wait
    else
      match l.state with
      | .ready =>
        match t.profile with
        | some p => if p.pitch < s.labelLines l then .finish .mediaMismatch else .start l
        | none => .wait
      | .failed => .finish (l.failure.getD .late)
      | .fetching => .wait
      | .accepted => .wait
      | .composing => .wait
      | .printing => .wait
      | .presenting => .wait

/-- The start test, repeated after each finish; in APPLY mode a finish consumes the oldest entry
(R141, R142). One round for each label of the queue and one more is enough. -/
def State.startLoop (n : StationNo) : Nat → State → State
  | 0, s => s
  | r + 1, s =>
    match s.startTest n with
    | .wait => s
    | .start l => s.printStart n l
    | .finish st =>
      State.startLoop n r ((s.updStation n fun t => { t with triggers := t.triggers.drop 1 }).finishHead
        n st)

end Sys2Proof.Machine
end

