-- ==== Sys2Proof/Machine/Dcu.lean ====
section
/-! DEFINITION. The Dot Check Unit: the begin of a check, its service test, a measurement and the
completion of a check (Chapter 9). -/

namespace Sys2Proof.Machine

/-- The working items of a check at its begin (R184). -/
def Check.begun (n : StationNo) (origin : CheckOrigin) (phase : CheckPhase) (timer : Option Word) :
    Check :=
  { station := n, origin := origin, phase := phase, next := 0, count := 0, dots := [], map := [],
    settleTimer := timer }

/-- The station records its state as the return state and enters CHECKING (R161, R184). -/
def State.enterChecking (s : State) (n : StationNo) (back : ReturnState) : State :=
  (s.updStation n fun t => { t with returnState := some back }).enter n .checking

/-- The station of a beginning check, by its state in that event (R184). -/
def State.beginAtStation (s : State) (n : StationNo) : State :=
  match (s.station n).state with
  | .idle => s.enterChecking n .idle
  | .held => s.enterChecking n .held
  | .parked => (s.wakeUp n .check).updStation n fun t => { t with checkDue := true }
  | .waking => s.updStation n fun t => { t with checkDue := true }
  | .offline => s
  | .printing => s
  | .presenting => s
  | .ejecting => s
  | .checking => s
  | .calibrating => s
  | .fault => s

/-- The phase in which a check begins (R184). -/
def Station.beginPhase (t : Station) : CheckPhase :=
  match t.state with
  | .held => if t.power then .measuring else .settling
  | .parked => .waiting
  | .waking => .waiting
  | .idle => .measuring
  | .offline => .measuring
  | .printing => .measuring
  | .presenting => .measuring
  | .ejecting => .measuring
  | .checking => .measuring
  | .calibrating => .measuring
  | .fault => .measuring

/-- A check of station n begins (R183 to R185): the station's pending flag is cleared. -/
def State.beginCheck (s : State) (n : StationNo) (origin : CheckOrigin) : State :=
  let phase := (s.station n).beginPhase
  { s.beginAtStation n with
    checkPending := s.checkPending.set n false,
    check := some (Check.begun n origin phase (if phase = .settling then some s.clock else none)) }

/-- A pending station that the service test may take (R186). -/
def State.checkEligible (s : State) (n : StationNo) : Bool :=
  s.checkPending.get n && ((s.station n).state == .idle || (s.station n).state == .parked)

/-- The station the service test takes: the lowest eligible one, while the DCU is IDLE (R186). -/
def State.serviceStation? (s : State) : Option StationNo :=
  if s.check.isSome then none else StationNo.all.find? s.checkEligible

/-! ### Measurement (R187) -/

/-- The class of a reading (R187). -/
def classOf (reading : Byte) : DotClass :=
  if reading.toNat ≤ 47 then .short else if reading.toNat ≤ 207 then .good else .open

/-- The working items after an element's measurement (R187). -/
def Check.measure (c : Check) (reading : Byte) : Check :=
  let cls := classOf reading
  let failed := cls != .good
  { c with
    map := c.map ++ [(cls, reading)],
    count := if failed then c.count + 1 else c.count,
    dots := if failed && decide (c.dots.length < 8) then c.dots ++ [⟨c.next, cls, reading⟩]
      else c.dots,
    next := c.next + 1 }

/-- The last measurement completes the check (R188, steps 1 to 6 before the service test). -/
def State.completeCheck (s : State) (c : Check) : State :=
  let s1 := (s.updStation c.station fun t =>
    { t with map := c.map, summary := ⟨c.count, c.dots⟩ }).raise (.dotcheckDone c.station)
  let s2 := match c.origin with
    | .command => s1.report .dotcheck (dotcheckCompletion c.count c.dots)
    | .auto => s1
  { s2.enterReturn c.station with check := none }

end Sys2Proof.Machine
end

