-- ==== Sys2Proof/Machine/Settle.lean ====
section
/-! DEFINITION. The end of an event: what the blocks do in the same event because of it. Pairing (R136), the
Composer's choice (R115), start tests (R141, R142), the DCU's service test (R186), park timers (R157),
and the channels' requests with the BMA's grant (R85, R93, R94, R101, R102). -/

namespace Sys2Proof.Machine

/-- Rounds that pairing needs: each sets a last-start time or removes an entry. -/
def Station.pairRounds (t : Station) : Nat := 2 * t.triggers.length

/-- Rounds that a start test needs: each but the last finishes a label of the queue. -/
def Station.startRounds (t : Station) : Nat := t.queue.length + 1

/-- Rounds that the Composer's choice needs: each but the last takes a label of a queue. -/
def State.choiceRounds (s : State) : Nat :=
  (StationNo.all.map fun n => (s.station n).queue.length).sum + 1

/-- Pairing made afresh at a station (R136). -/
def State.pairStation (s : State) (n : StationNo) : State := State.pair n (s.station n).pairRounds s

/-- Pairing made afresh at the four stations (R136). -/
def State.pairAll (s : State) : State := StationNo.all.foldl State.pairStation s

/-- The start test of a station (R141, R142). -/
def State.startStation (s : State) (n : StationNo) : State :=
  State.startLoop n (s.station n).startRounds s

/-- The start tests of the four stations (R141, R142). DESIGN CHOICE (log 42): where several stations dispose of
labels in one event, station 0 goes first and station 3 last. -/
def State.startAll (s : State) : State := StationNo.all.foldl State.startStation s

/-- The check offered to a station and a print start race at it: the station is IDLE and its start
test does not wait (R143, R184). -/
def State.races (s : State) (n : StationNo) : Bool :=
  (s.station n).state == .idle && s.startTest n != .wait

/-- The service test and the start tests. Where they race at the station the service test takes, the
order is a free value (log 4); the service test is made again where the start came first, and that station's
start test then goes before those of the others (log 42). -/
def State.serveAndStart (s : State) : Nat → State
  | 0 => s.startAll
  | k + 1 =>
    match s.serviceStation? with
    | none => s.startAll
    | some n =>
      if s.races n then
        let s1 := { s with freeIndex := s.freeIndex + 1 }
        if Config.checkBeforeStart s.freeIndex then (s1.beginCheck n .auto).startAll
        else (s1.startStation n).serveAndStart k
      else (s.beginCheck n .auto).startAll

/-- The park timer of a station runs while it is IDLE with an empty queue and a park delay, and
starts at the clock when that begins (R157). -/
def Station.parkTimerAt (t : Station) (clock : Word) : Option Word :=
  match t.profile with
  | none => none
  | some p =>
    if t.state = .idle ∧ t.queue = [] ∧ p.parkDelay ≠ 0 then some (t.parkTimer.getD clock) else none

/-- The park timer of a station is brought up to date (R157). -/
def State.parkStation (s : State) (n : StationNo) : State :=
  s.updStation n fun t => { t with parkTimer := t.parkTimerAt s.clock }

/-- The park timers of the four stations (R157). -/
def State.parkTimers (s : State) : State := StationNo.all.foldl State.parkStation s

/-- The Composer's choice at the end of an event (R115). -/
def State.chooseLabels (s : State) : State := State.composerChoose s.choiceRounds s

/-- The end of an event at the stations, the Composer and the DCU. DESIGN CHOICE (log 39): pairing, with the
expiry of a last-start that has already come (R136), goes before the Composer's choice (R115), so that a label
both would take expires without a draw. -/
def State.settleStations (s : State) : State :=
  ((s.pairAll.chooseLabels).serveAndStart 5).parkTimers

/-- The end of an event. -/
def State.finishEvent (s : State) : State := s.settleStations.settleBus

end Sys2Proof.Machine
end

