-- ==== Sys2Proof/Machine/Resets.lean ====
section
/-! DEFINITION. The card: hardware reset, the end of the configuration ROM load and the engine reset
(R28, R40, R104, R129, R162, R180, R191, R194, R202, R205 to R207). -/

namespace Sys2Proof.Machine

/-- What a step answers when it goes on. -/
abbrev Answer := Host.Outcome State Fault Refusal

/-! ### Hardware reset (R206) -/

/-- A station after a hardware reset: the inputs of its lane stand as they are and the media latch
takes the level of its input (R130, R199, log 28). -/
def Station.hardwareReset (t : Station) : Station :=
  { Station.initial with
    mediaPresent := t.mediaPresent, mediaLatch := t.mediaPresent, headOpen := t.headOpen,
    triggerHigh := t.triggerHigh }

/-- HARDWARE_RESET (R206). Record memory is not cleared (R31). -/
def execHardwareReset (s : State) : Answer :=
  .next { State.reset with
    pending := s.pending, freeIndex := s.freeIndex, readData := s.readData, memory := s.memory,
    elements := s.elements,
    stations := ⟨s.stations.s0.hardwareReset, s.stations.s1.hardwareReset,
      s.stations.s2.hardwareReset, s.stations.s3.hardwareReset⟩ }

/-! ### The configuration ROM (R205, R207) -/

/-- The total of a memory size code (R29, R205). -/
def sizeBlocks? (code : Nat) : Option Nat :=
  match code with
  | 0 => some 2048
  | 1 => some 4096
  | 2 => some 8192
  | _ => none

/-- A dot count a ROM may give (R205). -/
def dotCountOk (d : Nat) : Bool := d == 0 || (within 64 1024 d && d % 8 == 0)

/-- What a ROM load leaves: total, dot counts, board tag (R207). -/
structure CardConfig where
  total : Nat
  dots : Four Nat
  tag : Word
  deriving DecidableEq, Repr

/-- The defaults (R207). -/
def CardConfig.defaults : CardConfig := { total := 2048, dots := Four.fill 832, tag := 0 }

/-- The content of a ROM of 16 bytes, where every check of R207 holds. -/
def romConfig? (rom : List Byte) : Option CardConfig :=
  let rd := listReader rom
  let dots : Four Nat := ⟨le16 rd 2, le16 rd 4, le16 rd 6, le16 rd 8⟩
  match sizeBlocks? (rd 0) with
  | none => none
  | some total =>
    if ((List.range 14).map rd).sum % 65536 = le16 rd 14 ∧ dotCountOk dots.s0 = true ∧
        dotCountOk dots.s1 = true ∧ dotCountOk dots.s2 = true ∧ dotCountOk dots.s3 = true then
      some { total := total, dots := dots, tag := BitVec.ofNat 32 (le32 rd 10) }
    else none

/-- The event that ends the load leaves the part LOADED with a configuration (R207). -/
def State.loaded (s : State) (cfg : CardConfig) (defaulted : Bool) : State :=
  { s with
    loading := false, defaulted := defaulted, boardTag := cfg.tag, total := cfg.total,
    free := List.range cfg.total,
    stations := ⟨{ s.stations.s0 with dotCount := cfg.dots.s0 },
      { s.stations.s1 with dotCount := cfg.dots.s1 },
      { s.stations.s2 with dotCount := cfg.dots.s2 },
      { s.stations.s3 with dotCount := cfg.dots.s3 }⟩ }

/-- A ROM that does not answer is loaded as one whose checksum fails (R206). -/
def configOf (rom : Option (List Byte)) : Option CardConfig := rom.bind romConfig?

/-- CONFIG_ROM_LOAD_END (R207). -/
def execConfigRomLoadEnd (rom : Option (List Byte)) (s : State) : Answer :=
  if (Instr.configRomLoadEnd rom).wellFormed = false then .refused .illFormed
  else if s.loading = false then .next s
  else
    match configOf rom with
    | some cfg => .next (s.loaded cfg false)
    | none => .next ((s.loaded CardConfig.defaults true).raise .configDefaulted)

/-! ### Engine reset (R194) -/

/-- A body that stays: no pins (R28). -/
def Body.unpinned (b : Body) : Body := { b with pins := 0 }

/-- A record after an engine reset, its referrers not yet recounted (R28). -/
def Record.engineReset (r : Record) : Record :=
  match r.state with
  | .active =>
    { r with current := r.current.map Body.unpinned, prior := none, loading := none, referrers := 0 }
  | .free => Record.empty
  | .loading => Record.empty
  | .retiring => Record.empty

/-- The table of records with every record changed, in canonical form. -/
def resetTable : List (Nat × Record) → List (Nat × Record)
  | [] => []
  | (h, r) :: m =>
    if r.engineReset = Record.empty then resetTable m else (h, r.engineReset) :: resetTable m

/-- The reference lists of the current bodies of ACTIVE FORM records, one after another (R28). -/
def formReferences (table : List (Nat × Record)) : List Nat :=
  (table.map fun p =>
    if p.2.state = .active ∧ p.2.kind = some .form then
      match p.2.current with
      | some b => b.refs
      | none => []
    else []).flatten

/-- The blocks the current bodies of a table hold. -/
def heldBlocks (table : List (Nat × Record)) : List Nat :=
  (table.map fun p => match p.2.current with | some b => b.blocks | none => []).flatten

/-- The records after an engine reset (R28) and the free list rebuilt from every block now free, in
ascending number (R40). -/
def State.resetRecords (s : State) : State :=
  let table := resetTable s.table
  let held := heldBlocks table
  { s with table := table, free := (List.range s.total).filter fun b => !held.contains b }.raiseReferrers
    (formReferences table)

/-- A channel after an engine reset: base and size are kept (R104). -/
def Channel.engineReset (ch : Channel) : Channel :=
  { Channel.initial with base := ch.base, size := ch.size, stopCause := .reset, written := ch.written }

/-- A station after an engine reset: what the card, the DCU's records and the lane hold is kept, as
are the last command code and result (R162, R180, R191, R199). -/
def Station.engineReset (t : Station) : Station :=
  { Station.initial with
    dotCount := t.dotCount, lastCode := t.lastCode, lastResult := t.lastResult,
    mediaPresent := t.mediaPresent, mediaLatch := t.mediaPresent, headOpen := t.headOpen,
    triggerHigh := t.triggerHigh, map := t.map, summary := t.summary }

/-- Every block of the part after an engine reset. -/
def State.engineReset (s : State) : State :=
  { s.resetRecords with
    eventStatus := 0,
    control := s.control.engineReset,
    rings := ⟨s.rings.s0.engineReset, s.rings.s1.engineReset, s.rings.s2.engineReset,
      s.rings.s3.engineReset⟩,
    bus := none, transfer := none, pointer := .station .s0, composer := none, nextStamp := 0,
    stations := ⟨s.stations.s0.engineReset, s.stations.s1.engineReset, s.stations.s2.engineReset,
      s.stations.s3.engineReset⟩,
    check := none, checkPending := Four.fill false }

/-- ENGINE_RESET (R194): a write to engine control with bit 0; ignored while the ROM loads. -/
def execEngineReset (w : Word) (s : State) : Answer :=
  if ctlReset w = true ∧ s.loading = false then .next s.engineReset else .next s

end Sys2Proof.Machine
end

