-- ==== Sys2Proof/Machine/Window.lean ====
section
/-! DEFINITION. The register window as it is written, and the reads that have an effect: engine control, poll
demand, ring registers, events, the inspection window and station status A (R83, R86, R87, R95 to R98,
R102, R192 to R204). -/

namespace Sys2Proof.Machine

/-! ### START (R95, R96) -/

/-- START of a channel, the ROM being loaded (R95). -/
def State.startRing (s : State) (c : Chan) : State :=
  let ch := s.chan c
  if ch.state = .stopped then
    if ch.size = 0 then s.updChan c fun ch => { ch with stopCause := .noRing }
    else (s.updChan c fun ch => { ch with state := .running, stopCause := .none }).settleBus
  else s

/-- RING_START (R95): the START of channel c by a write to engine control. A stop bit for the same
ring (R96), an engine reset in the same write and a ROM that loads (R194) leave it ignored. -/
def execRingStart (c : Chan) (w : Word) (s : State) : Answer :=
  if ctlStart w c = true ∧ ctlStop w c = false ∧ ctlReset w = false ∧ s.loading = false then
    .next (s.startRing c)
  else .next s

/-! ### STOP (R97, R98) -/

/-- STOP is set pending on a channel. -/
def State.setStopPending (s : State) (c : Chan) : State :=
  s.updChan c fun ch => { ch with stopPending := true }

/-- STOP of RCH-C with a body load in flight: a burst in progress ends first; otherwise the abort is
taken at once and no further burst is requested (R18, R98, log 8). -/
def State.stopLoad (s : State) (d : List Byte) (bursts : Nat) : State :=
  let s1 := s.setStopPending .control
  if s.inTransfer .control .burst then s1.setWork .control (.load bursts true)
  else (s1.updChan .control fun ch => { ch with xfer := none }).abortLoad d

/-- STOP of a channel that has a descriptor in hand (R97, R98). -/
def State.stopHand (s : State) (c : Chan) (h : Hand) : State :=
  match c, h.work with
  | .control, .load bursts false => (s.stopLoad h.copy bursts).settleBus
  | _, _ => s.setStopPending c

/-- STOP of a channel without a descriptor in hand: a fetch in flight ends first (R97), and stop
pending shows set until it has (log 34). -/
def State.stopIdle (s : State) (c : Chan) : State :=
  if (s.chan c).xfer = some .fetch then
    (s.setStopPending c).updChan c fun ch => { ch with autoPollTimer := none }
  else s.stopChannel c .host

/-- STOP of a channel (R97, R98). -/
def State.stopRing (s : State) (c : Chan) : State :=
  match (s.chan c).state with
  | .stopped => s
  | .suspended => s.stopIdle c
  | .full => s.stopChannel c .host
  | .running =>
    match (s.chan c).hand with
    | some h => s.stopHand c h
    | none => s.stopIdle c

/-- RING_STOP (R97, R98): the STOP of channel c by a write to engine control; ignored in a write that
is taken as an engine reset (R194). -/
def execRingStop (c : Chan) (w : Word) (s : State) : Answer :=
  if ctlStop w c = true ∧ ¬(ctlReset w = true ∧ s.loading = false) then .next (s.stopRing c)
  else .next s

/-! ### Settings (R87, R102, R194) -/

/-- The auto-poll timer of a channel after a write of the interval (R87). A SUSPENDED channel with a STOP
pending keeps its timer stopped, and a refetch that has expired and waits is still made (log 35). -/
def Channel.repoll (ch : Channel) (start : Option Word) : Channel :=
  { ch with autoPollTimer := if ch.state = .suspended ∧ ch.stopPending = false then start else none }

/-- A write of the auto-poll interval (R87). -/
def State.setInterval (s : State) (code : BitVec 3) : State :=
  let s1 := { s with autoPoll := code }
  Chan.all.foldl (fun s c => s.updChan c fun ch => ch.repoll s1.autoPollStart) s1

/-- SET_AUTO_POLL_INTERVAL (R87, R194). -/
def execSetAutoPollInterval (w : Word) (s : State) : Answer :=
  if ctlSettings w then .next (s.setInterval (ctlAutoPoll w)) else .next s

/-- SET_ARBITER_MODE (R102, R194). -/
def execSetArbiterMode (w : Word) (s : State) : Answer :=
  if ctlSettings w then .next { s with arbiter := ctlArbiter w } else .next s

/-! ### Poll demand (R86) -/

/-- A poll demand at one channel (R86). -/
def Channel.polled (ch : Channel) : Channel :=
  match ch.state with
  | .suspended =>
    if ch.xfer = some .fetch then { ch with pollLatch := true }
    else { ch with state := .running, autoPollTimer := none, refetchDue := false }
  | .running => { ch with pollLatch := true }
  | .full => ch
  | .stopped => ch

/-- A poll demand at the channels a word names (R86, R196). -/
def State.pollNamed (s : State) (w : Word) : State :=
  Chan.all.foldl (fun s c => if pollNames w c then s.updChan c Channel.polled else s) s

/-- POLL_DEMAND (R86). -/
def execPollDemand (w : Word) (s : State) : Answer := .next (s.pollNamed w).settleBus

/-! ### Ring registers (R83) -/

/-- A write of base, size or fetch index is taken (R83). -/
def Channel.writable (ch : Channel) : Bool :=
  ch.state == .stopped && ch.held.isEmpty && ch.pendingCompletions.isEmpty

/-- RING_BASE_WRITE (R83). -/
def execRingBaseWrite (c : Chan) (v : Word) (s : State) : Answer :=
  if (s.chan c).writable then
    .next (s.updChan c fun ch => { ch with base := ringBaseOf v, fetchIndex := 0 })
  else .next s

/-- RING_SIZE_WRITE (R83). -/
def execRingSizeWrite (c : Chan) (v : Word) (s : State) : Answer :=
  if (s.chan c).writable = true ∧ within 16 1024 (ringSizeOf v) = true then
    .next (s.updChan c fun ch => { ch with size := ringSizeOf v, fetchIndex := 0 })
  else .next s

/-- RING_FETCH_INDEX_WRITE (R83). -/
def execRingFetchIndexWrite (c : Chan) (v : Word) (s : State) : Answer :=
  if (s.chan c).writable = true ∧ ringIndexOf v < (s.chan c).size then
    .next (s.updChan c fun ch => { ch with fetchIndex := ringIndexOf v })
  else .next s

/-! ### Events (R201, R202) -/

/-- EVENT_STATUS_CLEAR (R201). -/
def execEventStatusClear (v : Word) (s : State) : Answer :=
  .next { s with eventStatus := s.eventStatus &&& ~~~(v.setWidth 29) }

/-- EVENT_ENABLE_WRITE (R202). -/
def execEventEnableWrite (v : Word) (s : State) : Answer :=
  .next { s with eventEnable := v.setWidth 29 }

/-! ### The inspection window (R203, R204) and status A (R199) -/

/-- INSPECTION_ADDRESS_WRITE (R203). -/
def execInspectionAddressWrite (v : Word) (s : State) : Answer :=
  .next { s with inspect := inspectAddressOf v }

/-- The address after a read of the inspection data register (R204). -/
def InspectAddress.afterRead (i : InspectAddress) : InspectAddress :=
  if i.postIncrement then i.advance else i

/-- INSPECTION_DATA_READ (R204). -/
def execInspectionDataRead (lanes : BitVec 4) (s : State) : Answer :=
  if (Instr.inspectionDataRead lanes).wellFormed = false then .refused .illFormed
  else .next { s with readData := s.inspectData &&& laneMask lanes, inspect := s.inspect.afterRead }

/-- STATUS_A_READ (R199): the read returns the latch, which then takes the level of the input. -/
def execStatusARead (n : StationNo) (lanes : BitVec 4) (s : State) : Answer :=
  if (Instr.statusARead n lanes).wellFormed = false then .refused .illFormed
  else
    .next ({ s with readData := s.statusA n &&& laneMask lanes }.updStation n fun t =>
      { t with mediaLatch := t.mediaPresent })

/-- REGISTER_WRITE_IGNORED (R193). -/
def execRegisterWriteIgnored (offset : BitVec 8) (lanes : BitVec 4) (v : Word) (s : State) :
    Answer :=
  if (Instr.registerWriteIgnored offset lanes v).wellFormed = false then .refused .illFormed
  else .next s

end Sys2Proof.Machine
end

