-- ==== Sys2Proof/Machine/StationCommands.lean ====
section
/-! DEFINITION. The station commands HOLD, RESUME, FLUSH, WAKE and PARK (R151 to R156, R198). -/

namespace Sys2Proof.Machine

/-- What a station command's own rule answers: its result, and the state it leaves. -/
abbrev CommandOutcome := CommandResult × State

/-- The command is done, and its event ends. -/
def State.done (s : State) : CommandOutcome := (.done, s.finishEvent)

/-- The command is done with nothing further in its event. -/
def State.doneAsIs (s : State) : CommandOutcome := (.done, s)

/-- The command is refused with a reason and changes nothing else. -/
def State.refusedWith (s : State) (r : CommandResult) : CommandOutcome := (r, s)

/-- The last command code and result of a station (R151, R198). -/
def State.recordCommand (s : State) (n : StationNo) (code : BitVec 4) (r : CommandResult) : State :=
  s.updStation n fun t => { t with lastCode := code, lastResult := r }

/-- A write of a command code to station n's command register (R151): LOADING first, then NO_HEAD,
then the command's own rule; the code and the outcome are recorded. -/
def State.stationCommand (s : State) (n : StationNo) (code : BitVec 4)
    (act : State → CommandOutcome) : State :=
  let o :=
    if s.loading then s.refusedWith .loading
    else if (s.station n).fitted = false then s.refusedWith .noHead
    else act s
  o.2.recordCommand n code o.1

/-! ### HOLD (R152) -/

/-- HOLD by state (R152). A wake that ends aborts the check it was for (R189). -/
def State.hold (s : State) (n : StationNo) : CommandOutcome :=
  match (s.station n).state with
  | .idle => (s.enterHeld n).done
  | .parked => (s.enterHeld n).done
  | .waking => ((s.abortCheck n true).enterHeld n).done
  | .printing => (s.updStation n fun t => { t with holdPending := true }).doneAsIs
  | .presenting => (s.updStation n fun t => { t with holdPending := true }).doneAsIs
  | .ejecting => (s.updStation n fun t => { t with holdPending := true }).doneAsIs
  | .calibrating => (s.updStation n fun t => { t with holdPending := true }).doneAsIs
  | .held => s.doneAsIs
  | .offline => s.refusedWith .state
  | .fault => s.refusedWith .state
  | .checking => s.refusedWith .state

/-- HOLD (R152). -/
def execHold (n : StationNo) (s : State) : Answer := .next (s.stationCommand n 1 fun s => s.hold n)

/-! ### RESUME (R153) -/

/-- RESUME takes a station out of HELD or FAULT (R153). -/
def State.leaveRest (s : State) (n : StationNo) : CommandOutcome :=
  if (s.station n).power then (s.enter n .idle).done else (s.wakeUp n .command).done

/-- RESUME by state (R153). -/
def State.resume (s : State) (n : StationNo) : CommandOutcome :=
  match (s.station n).state with
  | .held => s.leaveRest n
  | .fault =>
    if (s.station n).headOpen then s.refusedWith .headOpen
    else if (s.station n).mediaPresent = false then s.refusedWith .noMedia
    else s.leaveRest n
  | .printing => (s.updStation n fun t => { t with holdPending := false }).doneAsIs
  | .presenting => (s.updStation n fun t => { t with holdPending := false }).doneAsIs
  | .ejecting => (s.updStation n fun t => { t with holdPending := false }).doneAsIs
  | .calibrating => (s.updStation n fun t => { t with holdPending := false }).doneAsIs
  | .parked => s.doneAsIs
  | .waking => s.doneAsIs
  | .idle => s.doneAsIs
  | .checking => s.doneAsIs
  | .offline => s.refusedWith .state

/-- RESUME (R153). -/
def execResume (n : StationNo) (s : State) : Answer :=
  .next (s.stationCommand n 2 fun s => s.resume n)

/-! ### FLUSH (R154) -/

/-- Steps 1 and 2 of FLUSH: the trigger queue is emptied and every label is abandoned with FLUSHED,
from head to tail. -/
def State.flushQueues (s : State) (n : StationNo) : State :=
  let labels := (s.station n).queue.map fun l => l.ctx
  (s.updStation n fun t => { t with triggers := [], printDeadline := none }).abandonAll n .flushed
    labels

/-- FLUSH by state (R154). -/
def State.flush (s : State) (n : StationNo) : CommandOutcome :=
  match (s.station n).state with
  | .offline => s.refusedWith .state
  | .calibrating => s.refusedWith .state
  | .printing => ((s.flushQueues n).startEject n).done
  | .presenting => ((s.flushQueues n).enterRest n).done
  | .parked => (s.flushQueues n).done
  | .waking => (s.flushQueues n).done
  | .idle => (s.flushQueues n).done
  | .ejecting => (s.flushQueues n).done
  | .checking => (s.flushQueues n).done
  | .held => (s.flushQueues n).done
  | .fault => (s.flushQueues n).done

/-- FLUSH (R154). -/
def execFlush (n : StationNo) (s : State) : Answer :=
  .next (s.stationCommand n 3 fun s => s.flush n)

/-! ### WAKE and PARK (R156) -/

/-- WAKE by state (R156). -/
def State.wake (s : State) (n : StationNo) : CommandOutcome :=
  match (s.station n).state with
  | .parked => (s.wakeUp n .command).done
  | .waking => s.doneAsIs
  | .offline => s.refusedWith .state
  | .idle => s.refusedWith .state
  | .printing => s.refusedWith .state
  | .presenting => s.refusedWith .state
  | .ejecting => s.refusedWith .state
  | .checking => s.refusedWith .state
  | .calibrating => s.refusedWith .state
  | .held => s.refusedWith .state
  | .fault => s.refusedWith .state

/-- WAKE (R156). -/
def execWake (n : StationNo) (s : State) : Answer := .next (s.stationCommand n 4 fun s => s.wake n)

/-- PARK by state (R156). -/
def State.park (s : State) (n : StationNo) : CommandOutcome :=
  if (s.station n).state = .idle ∧ (s.station n).queue = [] then (s.enter n .parked).done
  else s.refusedWith .state

/-- PARK (R156). -/
def execPark (n : StationNo) (s : State) : Answer := .next (s.stationCommand n 5 fun s => s.park n)

/-! ### A code that names no command (R151) -/

/-- STATION_COMMAND_BAD_CODE (R151): bits 0..3 of the word are the code (R198). -/
def execStationCommandBadCode (n : StationNo) (v : Word) (s : State) : Answer :=
  if (Instr.stationCommandBadCode n v).wellFormed = false then .refused .illFormed
  else .next (s.stationCommand n (v.setWidth 4) fun s => s.refusedWith .badCode)

end Sys2Proof.Machine
end

