-- ==== Sys2Proof/Machine/Control.lean ====
section
/-! DEFINITION. The control commands as their owners take them from RCH-C's descriptor in hand: DEFINE, AMEND,
RETIRE, QUERY, SET_PROFILE, SET_LIMITS, CALIBRATE and DOTCHECK (R14 to R26, R89 to R91, R132, R159,
R174, R183). -/

namespace Sys2Proof.Machine

/-- The first condition of a refusal table that holds (R14, R132, R159, R174, R183). -/
def firstRefusal {α : Type} : List (Bool × α) → Option α
  | [] => none
  | (b, a) :: rest => if b then some a else firstRefusal rest

/-- A record command refused with a status and the fields of the refusal (R14, log 26). -/
def State.refuseRecord (s : State) (h : Nat) (r : Status × List CompletionField) : State :=
  s.outcome (s.recordCompletion h r.1 r.2)

/-- The blocks of a body of a length (R5). -/
def bodyBlocks (length : Nat) : Nat := ceilDiv length Config.blockBytes

/-- A length outside 1..65536 (R15, R19). -/
def lengthBad (length : Nat) : Bool := !within 1 65536 length

/-- A body of no burst loaded, of some blocks (R5). -/
def LoadingBody.begun (blocks : List Nat) (length : Nat) : LoadingBody := ⟨blocks, length, 0⟩

/-- The command in hand goes on to its first body burst (R90). -/
def State.beginLoad (s : State) : State := s.setWork .control (.load 0 false)

/-! ### DEFINE (R15) -/

/-- The refusals of DEFINE before the allocation (R15). -/
def State.defineRefusal? (s : State) (d : List Byte) : Option (Status × List CompletionField) :=
  firstRefusal
    [ (decide (1023 < ctlHandle d), (.badHandle, [])),
      ((ctlKind? d).isNone, (.badKind, [])),
      ((s.record (ctlHandle d)).state != .free, (.handleInUse, [])),
      (lengthBad (ctlLength d), (.badBody, [indexField idxLength])) ]

/-- The record a DEFINE makes (R3, R4, R15). -/
def definedRecord (d : List Byte) (blocks : List Nat) : Record :=
  { Record.empty with
    state := .loading, kind := ctlKind? d, version := 1, tag := ctlTag d,
    loading := some (LoadingBody.begun blocks (ctlLength d)) }

/-- DEFINE is taken (R15). -/
def State.takeDefine (s : State) (d : List Byte) : State :=
  match s.defineRefusal? d with
  | some r => s.refuseRecord (ctlHandle d) r
  | none =>
    match s.allocate (bodyBlocks (ctlLength d)) with
    | none => s.refuseRecord (ctlHandle d) (.noSpace, [])
    | some (blocks, s1) => (s1.setRecord (ctlHandle d) (definedRecord d blocks)).beginLoad

/-- DEFINE (R15). -/
def execDefine (s : State) : Answer :=
  match s.commandInHand? .define with
  | none => .next s
  | some d => .next (s.takeDefine d).settleBus

/-! ### AMEND (R19) -/

/-- The refusals of AMEND before the allocation (R19). -/
def State.amendRefusal? (s : State) (d : List Byte) : Option (Status × List CompletionField) :=
  let r := s.record (ctlHandle d)
  firstRefusal
    [ (decide (1023 < ctlHandle d), (.badHandle, [])),
      (r.state != .active, (.noRecord, [])),
      ((ctlKind? d).isNone || ctlKind? d != r.kind, (.kindMismatch, [])),
      (ctlVersion d != 0 && ctlVersion d != r.version, (.versionMismatch, [])),
      (r.kind != some .counter && r.prior.isSome, (.priorInUse, [])),
      (lengthBad (ctlLength d), (.badBody, [indexField idxLength])) ]

/-- AMEND is taken (R19). -/
def State.takeAmend (s : State) (d : List Byte) : State :=
  match s.amendRefusal? d with
  | some r => s.refuseRecord (ctlHandle d) r
  | none =>
    match s.allocate (bodyBlocks (ctlLength d)) with
    | none => s.refuseRecord (ctlHandle d) (.noSpace, [])
    | some (blocks, s1) =>
      (s1.setRecord (ctlHandle d)
        { s1.record (ctlHandle d) with
          loading := some (LoadingBody.begun blocks (ctlLength d)) }).beginLoad

/-- AMEND (R19). -/
def execAmend (s : State) : Answer :=
  match s.commandInHand? .amend with
  | none => .next s
  | some d => .next (s.takeAmend d).settleBus

/-! ### RETIRE (R24) -/

/-- The refusals of RETIRE (R24). -/
def State.retireRefusal? (s : State) (d : List Byte) : Option (Status × List CompletionField) :=
  let r := s.record (ctlHandle d)
  firstRefusal
    [ (decide (1023 < ctlHandle d), (.badHandle, [])),
      (r.state != .active, (.noRecord, [])),
      (r.loading.isSome, (.busyLoading, [])),
      (ctlVersion d != 0 && ctlVersion d != r.version, (.versionMismatch, [])),
      (decide (0 < r.referrers), (.referenced, [])) ]

/-- RETIRE is taken (R24). -/
def State.takeRetire (s : State) (d : List Byte) : State :=
  let h := ctlHandle d
  match s.retireRefusal? d with
  | some r => s.refuseRecord h r
  | none =>
    let r := s.record h
    if r.pins = 0 then
      let s1 := s.freeRecord h
      s1.outcome (s1.recordCompletion h .ok r.pinFields)
    else
      let s1 := s.setRecord h { r with state := .retiring }
      s1.outcome (s1.recordCompletion h .retirePending r.pinFields)

/-- RETIRE (R24). -/
def execRetire (s : State) : Answer :=
  match s.commandInHand? .retire with
  | none => .next s
  | some d => .next (s.takeRetire d).settleBus

/-! ### QUERY (R26) -/

/-- QUERY is taken (R26). -/
def State.takeQuery (s : State) (d : List Byte) : State :=
  let h := ctlHandle d
  if 1023 < h then s.refuseRecord h (.badHandle, []) else s.outcome (s.queryCompletion h)

/-- QUERY (R26). -/
def execQuery (s : State) : Answer :=
  match s.commandInHand? .query with
  | none => .next s
  | some d => .next (s.takeQuery d).settleBus

/-! ### SET_PROFILE (R132) -/

/-- The states in which SET_PROFILE is taken (R132). -/
def Station.takesProfile (t : Station) : Bool :=
  t.state == .offline || t.state == .held ||
  ((t.state == .idle || t.state == .parked) && t.queue.isEmpty)

/-- The refusals of SET_PROFILE (R132). -/
def Station.profileRefusal? (t : Station) (rd : Reader) : Option (Status × List CompletionField) :=
  firstRefusal
    [ (!t.fitted, (.noHead, [])),
      (!t.takesProfile, (.stationBusy, [])),
      ((profileFault? rd t.dotCount).isSome,
        (.badProfile, [indexField ((profileFault? rd t.dotCount).getD 0)])) ]

/-- The profile replaces the old whole; the trigger filter restarts, the park timer starts afresh,
and STREAM drops the pending triggers (R132, R134). -/
def Station.newProfile (t : Station) (p : Profile) : Station :=
  { t with
    profile := some p, filterTimer := none, parkTimer := none,
    triggers := if p.mode = .stream then [] else t.triggers }

/-- A station leaves OFFLINE at its first profile: IDLE with the head closed, FAULT with the head
open (R132). -/
def State.leaveOffline (s : State) (n : StationNo) : State :=
  if (s.station n).headOpen then
    ((s.setStock n false false).enterFault n .headOpen).updStation n fun t => { t with power := true }
  else (s.setStock n false false).enter n .idle

/-- The station takes a profile that passes its checks (R132). -/
def State.takeProfile (s : State) (n : StationNo) (p : Profile) : State :=
  let s1 := s.updStation n fun t => t.newProfile p
  if (s.station n).state = .offline then s1.leaveOffline n else s1

/-- SET_PROFILE reaches its station with the profile read (R90, R132). -/
def State.giveProfile (s : State) (n : StationNo) (rd : Reader) : State :=
  match (s.station n).profileRefusal? rd with
  | some r => s.outcome (controlCompletion r.1 r.2)
  | none => (s.takeProfile n (profileOf rd)).outcome (controlCompletion .ok [])

/-- The station a command in hand names, which RCH-C has checked to be 0..3 (R89). -/
def State.stationInHand? (s : State) (w : Work) : Option StationNo :=
  (s.handAt? .control w).bind ctlStation?

/-- SET_PROFILE (R132): the profile read of RCH-C ends here (R90). -/
def execSetProfile (bytes : List Byte) (s : State) : Answer :=
  if (Instr.setProfile bytes).wellFormed = false then .refused .illFormed
  else if s.inTransfer .control .profile = false then .next s
  else
    match s.stationInHand? .profile with
    | none => .next s
    | some n => .next ((s.endTransfer .control).giveProfile n (listReader bytes)).finishEvent

/-! ### SET_LIMITS (R174) -/

/-- A limit given as valid with an item that is out of range (R174). -/
def Limit.bad (l : Limit) : Bool :=
  l.valid && (decide (127 < l.threshold) || decide (1 < l.direction) || decide (3 < l.action))

/-- The refusals of SET_LIMITS (R174). -/
def Station.limitsRefusal? (t : Station) (d : List Byte) : Option (Status × List CompletionField) :=
  firstRefusal
    [ (!t.fitted, (.noHead, [])),
      (!within 1 64 (ctlInterval d), (.badLimits, [indexField 0])),
      ((ctlLimit d 24).bad, (.badLimits, [indexField 1])),
      ((ctlLimit d 28).bad, (.badLimits, [indexField 2])) ]

/-- The monitor a SET_LIMITS leaves (R174). -/
def thermalOf (d : List Byte) (clock : Word) : Thermal :=
  { interval := some (ctlInterval d), turn := .limA, limA := ctlLimit d 24, limB := ctlLimit d 28,
    timer := if (ctlLimit d 24).valid || (ctlLimit d 28).valid then some clock else none }

/-- SET_LIMITS is taken (R174); a line that hot hold paused begins (R178). -/
def State.takeLimits (s : State) (n : StationNo) (d : List Byte) : State :=
  match (s.station n).limitsRefusal? d with
  | some r => s.outcome (controlCompletion r.1 r.2)
  | none =>
    ((s.updStation n fun t => { t with thermal := thermalOf d s.clock }).outcome
      (controlCompletion .ok [])).releasePaused n

/-- SET_LIMITS (R174). -/
def execSetLimits (s : State) : Answer :=
  match s.commandInHand? .setLimits with
  | none => .next s
  | some d =>
    match ctlStation? d with
    | none => .next s
    | some n => .next (s.takeLimits n d).finishEvent

/-! ### CALIBRATE (R159) -/

/-- The refusals of CALIBRATE (R159). -/
def Station.calibrateRefusal? (t : Station) : Option Status :=
  firstRefusal
    [ (!t.fitted, .noHead),
      (t.state == .offline, .stationOffline),
      (t.state != .idle && t.state != .held, .stationBusy) ]

/-- The return state a station records (R130). -/
def StationState.asReturn (st : StationState) : ReturnState := if st = .held then .held else .idle

/-- The station enters CALIBRATING; lines are counted from here (R159, R160, log 13). -/
def State.startCalibration (s : State) (n : StationNo) : State :=
  let back := (s.station n).state.asReturn
  (((s.updStation n fun t => { t with returnState := some back, sinceEdge := 0 }).enter n
    .calibrating).setWork .control .busy).beginCalibrating n 0 0

/-- CALIBRATE is taken (R159). -/
def State.takeCalibrate (s : State) (n : StationNo) : State :=
  match (s.station n).calibrateRefusal? with
  | some st => s.outcome (controlCompletion st [])
  | none => s.startCalibration n

/-- CALIBRATE (R159). -/
def execCalibrate (s : State) : Answer :=
  match s.commandInHand? .calibrate with
  | none => .next s
  | some d =>
    match ctlStation? d with
    | none => .next s
    | some n => .next (s.takeCalibrate n).finishEvent

/-! ### DOTCHECK (R183) -/

/-- A state in which a station may not be checked (R183). -/
def StationState.busyForCheck : StationState → Bool
  | .printing => true
  | .presenting => true
  | .ejecting => true
  | .calibrating => true
  | .checking => true
  | .fault => true
  | .offline => false
  | .parked => false
  | .waking => false
  | .idle => false
  | .held => false

/-- The refusals of DOTCHECK (R183). In a check of the named station itself the order of R183 gives
STATION_BUSY before the DCU_BUSY of R190 (log 36). -/
def State.dotcheckRefusal? (s : State) (n : StationNo) : Option Status :=
  let t := s.station n
  firstRefusal
    [ (!t.fitted, .noHead),
      (t.state == .offline, .stationOffline),
      (t.headOpen, .headOpen),
      (t.state.busyForCheck, .stationBusy),
      (s.check.isSome, .dcuBusy) ]

/-- DOTCHECK is taken (R183). -/
def State.takeDotcheck (s : State) (n : StationNo) : State :=
  match s.dotcheckRefusal? n with
  | some st => s.outcome (controlCompletion st [])
  | none => (s.setWork .control .busy).beginCheck n .command

/-- DOTCHECK (R183). -/
def execDotcheck (s : State) : Answer :=
  match s.commandInHand? .dotcheck with
  | none => .next s
  | some d =>
    match ctlStation? d with
    | none => .next s
    | some n => .next (s.takeDotcheck n).finishEvent

end Sys2Proof.Machine
end

