-- ==== Sys2Proof/Machine/Transfers.lean ====
section
/-! DEFINITION. The ends of transfers: descriptor fetch, body burst, label data, completion write, bus error; and
the auto-poll expiry (R16 to R23, R84 to R94, R99, R100, R109 to R113). -/

namespace Sys2Proof.Machine

/-! ### Descriptor fetch (R85, R87, R89, R92) -/

/-- The index after an index of a ring of a size (R85). -/
def nextIndex (i size : Nat) : Nat := if i + 1 < size then i + 1 else 0

/-- The work RCH-C finds in a descriptor it takes into hand (R89, R90). DEDUCED (log 23): the BAD_COMMAND that the
code of a LABEL descriptor meets here is written as a control descriptor's, the status in byte 32. -/
def controlWork (d : List Byte) : Work :=
  if controlCode d = .unknown then .complete (statusCompletion .control .badCommand)
  else if (controlCode d).namesStation ∧ (ctlStation? d).isNone then
    .complete (statusCompletion .control .noHead)
  else if controlCode d = .setProfile then .profile
  else .owner

/-- A label joins its queue; a PARKED station wakes with cause LABEL (R111, R112, R158). -/
def State.joinLabel (s : State) (n : StationNo) (l : Label) : State :=
  let s1 := s.join n l
  if (s1.station n).state = .parked then s1.wakeUp n .label else s1

/-- The label in hand is refused with a status (R113). -/
def State.refuseLabel (s : State) (n : StationNo) (st : Status) : State :=
  s.setWork (.station n) (.complete (refusalCompletion st))

/-- The acceptance event of the LABEL descriptor in hand (R109 to R111). -/
def State.acceptLabel (s : State) (n : StationNo) (d : List Byte) (index : Nat) : State :=
  match s.acceptanceFault? n d with
  | some st => s.refuseLabel n st
  | none =>
    match s.allocate (s.reservationFor d) with
    | none => s.refuseLabel n .noSpace
    | some (blocks, s1) =>
      let l := s1.newContext n d index blocks
      let s2 := s1.pinAll l.pinHandles
      if labelDataLength d = 0 then s2.joinLabel n l
      else s2.updStation n fun t => { t with fetching := some l }

/-- The work a station channel finds in a descriptor it takes into hand (R92). DEDUCED (log 23): the BAD_COMMAND of
another kind of descriptor is written as a label descriptor's, the status in byte 17. -/
def stationWork (d : List Byte) : Work :=
  if isLabel d then .data 0 else .complete (refusalCompletion .badCommand)

/-- A descriptor is taken into hand: the channel is RUNNING and its fetch index advances (R85, R87). -/
def State.takeHand (s : State) (c : Chan) (d : List Byte) (w : Work) : State :=
  s.updChan c fun ch =>
    { ch with state := .running, hand := some ⟨d, ch.fetchIndex, w⟩,
              fetchIndex := nextIndex ch.fetchIndex ch.size, autoPollTimer := none,
              refetchDue := false }

/-- A fetch has found PART (R85, R89, R92). -/
def State.takeDescriptor (s : State) (c : Chan) (d : List Byte) : State :=
  match c with
  | .control => s.takeHand .control d (controlWork d)
  | .station n =>
    let s1 := s.takeHand (.station n) d (stationWork d)
    if isLabel d then s1.acceptLabel n d (s.rings.get n).fetchIndex else s1

/-- A fetch has found HOST (R85, R87). DESIGN CHOICE (log 40): where a write of the interval restarted the timer
during an auto-poll refetch and that timer expired before the refetch ended, no second refetch is made; the end
of the refetch restarts the timer. -/
def State.foundHost (s : State) (c : Chan) : State :=
  let ch := s.chan c
  if ch.pollLatch then
    s.updChan c fun ch =>
      { ch with state := .running, autoPollTimer := none, refetchDue := false }
  else if ch.state = .suspended then
    s.updChan c fun ch => { ch with autoPollTimer := s.autoPollStart, refetchDue := false }
  else s.suspend c

/-- A descriptor fetch has ended (R85, R87, R97). -/
def State.fetchEnded (s : State) (c : Chan) (d : List Byte) : State :=
  if (s.chan c).stopPending then s.stopChannel c .host
  else if ownedByPart d then s.takeDescriptor c d
  else s.foundHost c

/-- DESCRIPTOR_FETCH_END (R85). -/
def execDescriptorFetchEnd (c : Chan) (bytes : List Byte) (s : State) : Answer :=
  if (Instr.descriptorFetchEnd c bytes).wellFormed = false then .refused .illFormed
  else if s.inTransfer c .fetch then .next ((s.endTransfer c).fetchEnded c bytes).finishEvent
  else .next s

/-! ### Body bursts (R16, R17, R21 to R23) -/

/-- The version after a version (R3). -/
def nextVersion (v : Nat) : Nat := if v = 65535 then 1 else v + 1

/-- The reference list of a body of a kind (R53). -/
def bodyReferences (k : Kind) (rd : Reader) : List Nat :=
  if k = .form then referenceList (formFields rd) else []

/-- The body a load leaves (R17, R21). -/
def LoadingBody.accepted (b : LoadingBody) (version pins : Nat) (refs : List Nat) : Body :=
  { blocks := b.blocks, length := b.length, version := version, pins := pins, refs := refs }

/-- A DEFINE's body passes: the record is ACTIVE at version 1 (R17). -/
def State.completeDefine (s : State) (h : Nat) (b : LoadingBody) (refs : List Nat) : State :=
  let r := s.record h
  let s1 := (s.setRecord h
    { r with state := .active, loading := none,
             current := some (b.accepted r.version 0 refs) }).raiseReferrers refs
  s1.outcome (s1.recordCompletion h .ok [])

/-- The field of an AMEND completion that says whether a prior body was made (R21, R208). -/
def priorMadeField (made : Bool) : CompletionField := (49, [byte (flagAt made 3)])

/-- A COUNTER's AMEND passes: the old body is freed and its pins are carried over (R22). -/
def State.completeCounterAmend (s : State) (h : Nat) (b : LoadingBody) : State :=
  let r := s.record h
  let v := nextVersion r.version
  let s1 := (s.setRecord h
    { r with loading := none, version := v,
             current := some (b.accepted v (bodyPins r.current) []) }).freeBody? r.current
  s1.outcome (s1.recordCompletion h .ok [])

/-- An AMEND of another kind passes: a pinned current body becomes prior, an unpinned one is freed,
and the new body becomes current (R21). -/
def State.completeAmend (s : State) (h : Nat) (b : LoadingBody) (refs : List Nat) : State :=
  let r := s.record h
  let v := nextVersion r.version
  let pinned := decide (0 < bodyPins r.current)
  let r1 := { r with loading := none, version := v, current := some (b.accepted v 0 refs) }
  let s1 :=
    if pinned then s.setRecord h { r1 with prior := r.current }
    else (s.setRecord h r1).freeBody? r.current
  let s2 := s1.raiseReferrers refs
  s2.outcome (s2.recordCompletion h .ok [priorMadeField pinned])

/-- A body fails validation (R17, R23). -/
def State.failBody (s : State) (h : Nat) (st : Status) (index : Nat) : State :=
  let s1 := s.dropLoading h
  s1.outcome (s1.recordCompletion h st [indexField index])

/-- The last burst is stored: the body is validated and the command ends (R17, R21 to R23). -/
def State.completeLoad (s : State) (h : Nat) (k : Kind) (b : LoadingBody) : State :=
  let rd := s.content b.blocks
  match s.validate k rd b.length with
  | some (st, i) => s.failBody h st i
  | none =>
    if (s.record h).state = .loading then s.completeDefine h b (bodyReferences k rd)
    else if k = .counter then s.completeCounterAmend h b
    else s.completeAmend h b (bodyReferences k rd)

/-- A burst is stored and counted (R5, R34). -/
def State.storeBurst (s : State) (h : Nat) (b : LoadingBody) (k : Nat) (bytes : List Byte) : State :=
  let s1 := s.writeContents b.blocks (256 * k) bytes
  s1.setRecord h { s1.record h with loading := some { b with loaded := b.loaded + bytes.length } }

/-- Burst k of the load in hand has ended (R16). -/
def State.burstEnded (s : State) (h : Nat) (b : LoadingBody) (k : Nat) (bytes : List Byte) : State :=
  let s1 := s.storeBurst h b k bytes
  if b.length ≤ b.loaded + bytes.length then
    match (s.record h).kind with
    | some kind => s1.completeLoad h kind b
    | none => s1
  else s1.setWork .control (.load (k + 1) false)

/-- The DEFINE or AMEND load in hand: descriptor, bursts stored, and whether a STOP aborts it. -/
def State.loadInHand? (s : State) : Option (List Byte × Nat × Bool) :=
  match s.control.hand with
  | some h =>
    match h.work with
    | .load k aborting => some (h.copy, k, aborting)
    | .owner => none
    | .profile => none
    | .busy => none
    | .data _ => none
    | .complete _ => none
  | none => none

/-- BODY_BURST_END (R16): the burst's data is stored, or discarded with an aborted load (R18). -/
def execBodyBurstEnd (bytes : List Byte) (s : State) : Answer :=
  if (Instr.bodyBurstEnd bytes).wellFormed = false then .refused .illFormed
  else if s.inTransfer .control .burst = false then .next s
  else
    match s.loadInHand? with
    | none => .next s
    | some (d, k, aborting) =>
      match (s.record (ctlHandle d)).loading with
      | none => .next s
      | some b =>
        if bytes.length ≠ burstLength b.length k then
          .refused (.transferLength (burstLength b.length k))
        else if aborting then .next ((s.endTransfer .control).abortLoad d).finishEvent
        else
          match s.missingBlock? b.blocks with
          | some blk => .fault (.noSuchBlock blk)
          | none =>
            .next ((s.endTransfer .control).burstEnded (ctlHandle d) b k bytes).finishEvent

/-! ### Label data (R92, R111) -/

/-- The last data transfer has ended: the data is parsed (R111). -/
def State.dataEnded (s : State) (n : StationNo) (l : Label) : State :=
  match parseSlots (s.content l.dataBlocks) l.slotCount l.dataLength with
  | some slots => s.joinLabel n { l with slots := slots }
  | none => (s.discardFetching n).refuseLabel n .badData

/-- Data transfer k of a fetching label has ended (R92, R111). -/
def State.dataTransferEnded (s : State) (n : StationNo) (l : Label) (k : Nat) (bytes : List Byte) :
    State :=
  let s1 := s.writeContents l.dataBlocks (256 * k) bytes
  if l.dataLength ≤ 256 * k + bytes.length then s1.dataEnded n l
  else s1.setWork (.station n) (.data (k + 1))

/-- The number of data transfers a station channel has stored for the label it fetches. -/
def State.dataInHand? (s : State) (n : StationNo) : Option Nat :=
  match (s.rings.get n).hand with
  | some h =>
    match h.work with
    | .data k => some k
    | .owner => none
    | .profile => none
    | .busy => none
    | .load _ _ => none
    | .complete _ => none
  | none => none

/-- LABEL_DATA_TRANSFER_END (R111). -/
def execLabelDataTransferEnd (n : StationNo) (bytes : List Byte) (s : State) : Answer :=
  if (Instr.labelDataTransferEnd n bytes).wellFormed = false then .refused .illFormed
  else if s.inTransfer (.station n) .data = false then .next s
  else
    match s.dataInHand? n, (s.station n).fetching with
    | some k, some l =>
      if bytes.length ≠ burstLength l.dataLength k then
        .refused (.transferLength (burstLength l.dataLength k))
      else
        match s.missingBlock? l.dataBlocks with
        | some blk => .fault (.noSuchBlock blk)
        | none =>
          .next ((s.endTransfer (.station n)).dataTransferEnded n l k bytes).finishEvent
    | none, _ => .next s
    | some _, none => .next s

/-! ### Completion writes (R88, R93, R94) -/

/-- The completion of the descriptor in hand has been written (R88). -/
def State.handWritten (s : State) (c : Chan) (i : Nat) (bytes : List Byte) : State :=
  ((((s.deliver c i bytes).endTransfer c).raise (doneCause c)).dropHand c).retestFull c

/-- A pending completion is at its end: it leaves the list and its index the held set (R93, R99). -/
def State.dropPending (s : State) (c : Chan) (i : Nat) : State :=
  s.updChan c fun ch =>
    { ch with pendingCompletions := ch.pendingCompletions.drop 1, held := ch.held.erase i }

/-- The completion of a finished label has been written (R88, R93). -/
def State.pendingWritten (s : State) (c : Chan) (p : Completion) : State :=
  ((((s.deliver c p.index p.bytes).endTransfer c).raise (doneCause c)).dropPending c
    p.index).retestFull c

/-- The completion the descriptor in hand of a channel carries: its index and bytes. -/
def Channel.handCompletion? (ch : Channel) : Option (Nat × List Byte) :=
  match ch.hand with
  | some h =>
    match h.work with
    | .complete bytes => some (h.index, bytes)
    | .owner => none
    | .profile => none
    | .busy => none
    | .load _ _ => none
    | .data _ => none
  | none => none

/-- COMPLETION_WRITE_END (R88). -/
def execCompletionWriteEnd (c : Chan) (s : State) : Answer :=
  if s.inTransfer c .handCompletion then
    match (s.chan c).handCompletion? with
    | some (i, bytes) => .next (s.handWritten c i bytes).finishEvent
    | none => .next s
  else if s.inTransfer c .pendingCompletion then
    match (s.chan c).pendingCompletions.head? with
    | some p => .next (s.pendingWritten c p).finishEvent
    | none => .next s
  else .next s

/-! ### Bus errors (R99, R100) -/

/-- The channel is to stop with cause BUS_ERROR, which its stop cause shows from this event on, once
the work in hand has ended (R99). -/
def State.beginStop (s : State) (c : Chan) : State :=
  s.updChan c fun ch => { ch with stopCause := .busError, failing := true }

/-- The descriptor in hand is completed with BUS_ERROR, and the channel stops after it (R99). -/
def State.failHand (s : State) (c : Chan) (d : List Byte) : State :=
  (s.setWork c (.complete (busErrorCompletion c d))).beginStop c

/-- A completion write has failed: the channel stops at once, or after the work in hand (R99, R100,
log 9). -/
def State.stopAfterHand (s : State) (c : Chan) : State :=
  if (s.chan c).hand.isSome then s.beginStop c else s.stopFailed c

/-- The work in hand of a failed read ends, and the descriptor is completed with BUS_ERROR (R99). -/
def State.failWork (s : State) (c : Chan) (undo : State → List Byte → State) : State :=
  match (s.chan c).hand with
  | some h => (undo s h.copy).failHand c h.copy
  | none => s.stopFailed c

/-- The label a station channel fetches data for is given up; RCH-C fetches for none (R38). -/
def State.discardAt (s : State) (c : Chan) : State :=
  match c with
  | .control => s
  | .station n => s.discardFetching n

/-- A transfer of a channel has failed (R99, R100). A burst that fails after a STOP aborted its load is
answered BUS_ERROR and stops the channel with that cause (log 32). -/
def State.transferFailed (s : State) (c : Chan) (x : Xfer) : State :=
  match x with
  | .fetch => s.stopFailed c
  | .burst => s.failWork c fun s d => s.dropLoading (ctlHandle d)
  | .profile => s.failWork c fun s _ => s
  | .data => s.failWork c fun s _ => s.discardAt c
  | .handCompletion => (s.updChan c fun ch => { ch with hand := none }).stopFailed c
  | .pendingCompletion =>
    match (s.chan c).pendingCompletions.head? with
    | some p => (s.dropPending c p.index).stopAfterHand c
    | none => s.stopFailed c

/-- A failed write of the completion of a descriptor in hand whose channel is already stopping with cause
BUS_ERROR ends its own transfer and changes nothing else (R100). -/
def Channel.failsAgain (ch : Channel) (x : Xfer) : Bool := ch.failing && x == .handCompletion

/-- RING_ERROR is raised for a bus error (R99, R100), but for one that changes nothing else. -/
def State.raiseRingError (s : State) (again : Bool) : State :=
  if again then s else s.raise .ringError

/-- TRANSFER_BUS_ERROR (R99, R100): a master or target abort on the transfer channel c was granted. -/
def execTransferBusError (c : Chan) (s : State) : Answer :=
  if s.bus = some c then
    match (s.chan c).xfer with
    | some x =>
      .next (((s.endTransfer c).transferFailed c x).raiseRingError
        ((s.chan c).failsAgain x)).finishEvent
    | none => .next s
  else .next s

/-! ### Auto-poll (R87) -/

/-- AUTO_POLL_EXPIRY (R87): the channel makes a refetch at the same index. -/
def execAutoPollExpiry (c : Chan) (s : State) : Answer :=
  match (s.chan c).autoPollTimer, autoPollMs s.autoPoll with
  | some t, some ms =>
    if (s.chan c).state = .suspended then
      .next ((s.reachTime (afterMs t ms)).updChan c fun ch =>
        { ch with autoPollTimer := none, refetchDue := true }).settleBus
    else .next s
  | some _, none => .next s
  | none, _ => .next s

end Sys2Proof.Machine
end

