-- ==== Sys2Proof/Machine/Composition.lean ====
section
/-! DEFINITION. The Composer's steps and the finish of a marked head (R117 to R126). -/

namespace Sys2Proof.Machine

/-- The number of fields of a label's form (R41, R43). -/
def State.fieldCount (s : State) (l : Label) : Nat := formFieldCount (s.formContent l)

/-- A barcode string is rejected: the label is FAILED with DATA_REJECTED and the Composer IDLE
(R119). -/
def State.rejectField (s : State) (j : Job) : State :=
  { s.updLabel j.station j.ctx fun l =>
      { l with state := .failed, failure := some .dataRejected }
    with composer := none }

/-- The shifts of a label with the shift of field i recorded, where the field has one (R119). -/
def Label.withShift (l : Label) (rd : Reader) (i : Nat) (shift : Option Int) : List Int :=
  match shift with
  | some x => l.shifts.set (barcodesBefore rd i) x
  | none => l.shifts

/-- A field's marks are written as the next element entries, its warnings and shift recorded, and the
next field index advances (R117, R119, R122). -/
def State.placeField (s : State) (j : Job) (l : Label) (entries : List Element) (w : Warnings)
    (shift : Option Int) : State :=
  let shifts := l.withShift (s.formContent l) j.nextField shift
  { ((s.writeEntries l.elementBlocks j.entries entries).updLabel j.station j.ctx fun l =>
      { l with warnings := l.warnings.or w, shifts := shifts })
    with composer :=
      some { j with nextField := j.nextField + 1, entries := j.entries + entries.length } }

/-- COMPOSER_FIELD_STEP (R117): the step of the next field; in place of it the composition of a
marked label ends (R125). -/
def execComposerFieldStep (s : State) : Answer :=
  match s.inHand? with
  | none => .next s
  | some (j, l) =>
    if s.fieldCount l ≤ j.nextField then .next s
    else
      match l.mark with
      | some st => .next (s.endMarked j st).finishEvent
      | none =>
        match s.layField j.station l j.nextField with
        | .rejected => .next (s.rejectField j).finishEvent
        | .placed entries w shift =>
          match s.missingBlock? l.elementBlocks with
          | some blk => .fault (.noSuchBlock blk)
          | none => .next (s.placeField j l entries w shift).finishEvent

/-- The label's entries are sorted in place and it becomes READY; the Composer is IDLE (R123). -/
def State.completeLabel (s : State) (j : Job) (l : Label) : State :=
  let sorted := sortElements (s.entries l.elementBlocks j.entries)
  { (s.writeEntries l.elementBlocks 0 sorted).updLabel j.station j.ctx fun l =>
      { l with state := .ready, elementCount := some j.entries }
    with composer := none }

/-- COMPOSER_COMPLETE (R123); the composition of a marked label ends in place of the sort (R125). -/
def execComposerComplete (s : State) : Answer :=
  match s.inHand? with
  | none => .next s
  | some (j, l) =>
    if j.nextField < s.fieldCount l then .next s
    else
      match l.mark with
      | some st => .next (s.endMarked j st).finishEvent
      | none =>
        match s.missingBlock? l.elementBlocks with
        | some blk => .fault (.noSuchBlock blk)
        | none => .next (s.completeLabel j l).finishEvent

/-- The mark with which the head of a queue finishes in an event of its own (R126). -/
def Station.markedHead? (t : Station) : Option Status :=
  match t.queue.head? with
  | some l => if l.state = .composing then none else l.mark
  | none => none

/-- MARKED_HEAD_FINISH (R126). -/
def execMarkedHeadFinish (n : StationNo) (s : State) : Answer :=
  match (s.station n).markedHead? with
  | some st => .next (s.finishHead n st).finishEvent
  | none => .next s

end Sys2Proof.Machine
end

