-- ==== Sys2Proof/Machine/Lane.lean ====
section
/-! DEFINITION. The events of a lane: triggers and expiries, lines, strobes and edges, stock, applicator, head,
park and wake timers (R134 to R150, R155, R157, R158, R164 to R172, R199). -/

namespace Sys2Proof.Machine

/-! ### Triggers (R134, R135) -/

/-- A change of TRIGGER to its active level starts the filter timer, or with filter 0 is an arrival at
once; a change away from it stops the timer (R134, log 30). -/
def State.triggerChanged (s : State) (n : StationNo) (high : Bool) : State :=
  let s1 := s.updStation n fun t => { t with triggerHigh := high }
  let t := s1.station n
  if t.watchesTrigger = false then s1
  else if t.triggerActive high then
    match t.profile with
    | some p =>
      if p.filter = 0 then (s1.arrive n).finishEvent
      else s1.updStation n fun t => { t with filterTimer := some s1.clock }
    | none => s1
  else s1.updStation n fun t => { t with filterTimer := none }

/-- TRIGGER_LEVEL_CHANGE (R134). -/
def execTriggerLevelChange (n : StationNo) (high : Bool) (s : State) : Answer :=
  if (s.station n).triggerHigh = high then .next s else .next (s.triggerChanged n high)

/-- TRIGGER_ARRIVAL (R135): the filter timer reaches the filter time. -/
def execTriggerArrival (n : StationNo) (s : State) : Answer :=
  match (s.station n).filterTimer, (s.station n).profile with
  | some t, some p =>
    .next ((((s.reachTime (afterMs t p.filter)).updStation n fun t =>
      { t with filterTimer := none }).arrive n).finishEvent)
  | some _, none => .next s
  | none, _ => .next s

/-! ### Expiries of trigger entries (R137, R138) -/

/-- LAST_START_EXPIRY (R137): entry k is paired and its last-start time comes. -/
def execLastStartExpiry (n : StationNo) (k : Nat) (s : State) : Answer :=
  if (Instr.lastStartExpiry n k).wellFormed = false then .refused .illFormed
  else
    match ((s.station n).triggers[k]?).bind fun e => e.lastStart, (s.station n).eligible[k]? with
    | some t, some l => .next ((s.reachTime t).expireEntry n k l).finishEvent
    | some _, none => .next s
    | none, _ => .next s

/-- DEADLINE_EXPIRY (R138): the deadline of entry k comes while it is unpaired. -/
def execDeadlineExpiry (n : StationNo) (k : Nat) (s : State) : Answer :=
  if (Instr.deadlineExpiry n k).wellFormed = false then .refused .illFormed
  else
    match (s.station n).triggers[k]?, (s.station n).eligible[k]? with
    | some e, none =>
      .next (((s.reachTime e.deadline).dropTrigger n k).raise (.cartonMissed n)).finishEvent
    | some _, some _ => .next s
    | none, _ => .next s

/-! ### Lines (R144, R164) -/

/-- The sub-phases of a line have all been fired by its end (R171, log 14). -/
def State.endPhases (s : State) (n : StationNo) : State :=
  s.updStation n fun t =>
    { t with drive := t.drive.map fun d => if d.firing.isEmpty then d else d.moveOn }

/-- A line of PRINTING has ended, and the next begins (R143, R144, R147, R164). -/
def State.nextPrinting (s : State) (n : StationNo) (k : LineKind) : State :=
  match k with
  | .leading =>
    if (s.station n).aligned then s.beginPrinting n .printed else s.beginPrinting n .leading
  | .printed => (s.endPhases n).afterPrinted n
  | .peel j => s.afterPeel n j
  | .eject => s
  | .calibrate _ _ => s

/-- A line has ended, and the next of the station's work begins (R144, R155, R160, R164). -/
def State.nextLine (s : State) (n : StationNo) (k : LineKind) : State :=
  match k with
  | .eject => s.beginEjecting n
  | .calibrate lines edges => s.beginCalibrating n lines edges
  | .leading => s.nextPrinting n .leading
  | .printed => s.nextPrinting n .printed
  | .peel j => s.nextPrinting n (.peel j)

/-- LINE_PERIOD_EXPIRY (R164): a line that hot hold pauses has not begun and has no end. -/
def execLinePeriodExpiry (n : StationNo) (s : State) : Answer :=
  match (s.station n).feed with
  | some f => if f.paused then .next s else .next (s.nextLine n f.kind).finishEvent
  | none => .next s

/-- The drive after the end of the sub-phase being fired (R168, R169). -/
def Drive.fireNext (d : Drive) : Drive :=
  match d.firing with
  | [] => d
  | _ :: rest => if rest.isEmpty then d.moveOn else { d with firing := rest }

/-- STROBE_SUBPHASE_END (R169). -/
def execStrobeSubphaseEnd (n : StationNo) (s : State) : Answer :=
  .next (s.updStation n fun t => { t with drive := t.drive.map Drive.fireNext })

/-! ### Edges (R145, R155, R160) -/

/-- An edge outside calibration is good (R145). -/
def Station.edgeGood (t : Station) : Bool :=
  match t.profile with
  | some p =>
    !t.registered || within (p.pitch - p.tolerance) (p.pitch + p.tolerance) t.sinceEdge
  | none => false

/-- A good edge outside calibration: the count becomes 0 and registered is set (R145). -/
def State.takeEdge (s : State) (n : StationNo) : State :=
  s.updStation n fun t => { t with sinceEdge := 0, registered := true }

/-- Aligned is set at a station. -/
def State.align (s : State) (n : StationNo) : State :=
  s.updStation n fun t => { t with aligned := true }

/-- A good edge by the kind of the line in progress (R143, R145, R155, log 12). -/
def State.goodEdge (s : State) (n : StationNo) (k : LineKind) : State :=
  let s1 := s.takeEdge n
  match k with
  | .leading => s1.align n
  | .eject => (s1.align n).enterReturn n
  | .printed => s1
  | .peel _ => s1
  | .calibrate _ _ => s1

/-- An edge of a calibration: the first sets the count to 0, the second ends it (R160). -/
def State.calibrationEdge (s : State) (n : StationNo) (f : Feed) (lines edges : Nat) : State :=
  if edges = 0 then
    s.updStation n fun t =>
      { t with sinceEdge := 0, feed := some { f with kind := .calibrate lines 1 } }
  else s.calibrationMeasured n (s.station n).sinceEdge

/-- An edge is judged by the kind of the line in progress (R145, R146, R155, R160). -/
def State.judgeEdge (s : State) (n : StationNo) (f : Feed) : State :=
  match f.kind with
  | .calibrate lines edges => s.calibrationEdge n f lines edges
  | .leading => if (s.station n).edgeGood then s.goodEdge n .leading else s.mediaFault n
  | .printed => if (s.station n).edgeGood then s.goodEdge n .printed else s.mediaFault n
  | .peel j => if (s.station n).edgeGood then s.goodEdge n (.peel j) else s.mediaFault n
  | .eject => if (s.station n).edgeGood then s.goodEdge n .eject else s.mediaFault n

/-- GAP_EDGE (R145): an edge seen while MOTOR is stopped is not taken. -/
def execGapEdge (n : StationNo) (s : State) : Answer :=
  match (s.station n).feed with
  | some f => if f.paused then .next s else .next (s.judgeEdge n f).finishEvent
  | none => .next s

/-! ### Stock, applicator and head (R146, R148 to R150, R199) -/

/-- The station feeds a line of PRINTING or EJECTING, MOTOR not being stopped (R146). -/
def Station.feedsLabel (t : Station) : Bool :=
  (t.state == .printing || t.state == .ejecting) &&
  match t.feed with
  | some f => !f.paused
  | none => false

/-- MEDIA_PRESENT becomes inactive: the latch becomes 0, and a line in progress of PRINTING or EJECTING
is a media fault (R146, R199). In CALIBRATING the next line sees it (R160, log 29). -/
def State.mediaFell (s : State) (n : StationNo) : State :=
  let s1 := s.updStation n fun t => { t with mediaPresent := false, mediaLatch := false }
  if (s.station n).feedsLabel then (s1.mediaFault n).finishEvent else s1

/-- MEDIA_PRESENT_FALL (R199), and the input's return, which leaves the latch as it is (log 7). -/
def execMediaPresentFall (n : StationNo) (active : Bool) (s : State) : Answer :=
  if active then .next (s.updStation n fun t => { t with mediaPresent := true })
  else if (s.station n).mediaPresent then .next (s.mediaFell n)
  else .next s

/-- APPLIED (R148). -/
def execApplied (n : StationNo) (s : State) : Answer :=
  if (s.station n).state = .presenting then
    .next (((s.finishHead n .applied).enterRest n).finishEvent)
  else .next s

/-- APPLY_TIMEOUT (R148). -/
def execApplyTimeout (n : StationNo) (s : State) : Answer :=
  match (s.station n).applyTimer, (s.station n).profile with
  | some t, some p =>
    if (s.station n).state = .presenting then
      .next ((((s.reachTime (afterMs t p.applyTimeout)).finishHead n .applyTimeout).enterFault n
        .applyTimeout).finishEvent)
    else .next s
  | some _, none => .next s
  | none, _ => .next s

/-- HEAD_OPEN becomes active (R149); in OFFLINE it is not acted on. -/
def State.headLifted (s : State) (n : StationNo) : State :=
  let s1 := s.updStation n fun t => { t with headOpen := true }
  if (s.station n).state = .offline then s1 else (s1.headOpened n).finishEvent

/-- HEAD_OPEN_ACTIVE (R149). -/
def execHeadOpenActive (n : StationNo) (s : State) : Answer :=
  if (s.station n).headOpen then .next s else .next (s.headLifted n)

/-- The profile asks for a dot check after every closing of the head (R131, R185). -/
def Station.asksCheck (t : Station) : Bool :=
  match t.profile with
  | some p => p.autoCheck
  | none => false

/-- HEAD_OPEN becomes inactive: the automatic request is set where the profile asks (R150, R185). -/
def State.headClosed (s : State) (n : StationNo) : State :=
  let s1 := s.updStation n fun t => { t with headOpen := false }
  if (s.station n).asksCheck then
    { s1 with checkPending := s1.checkPending.set n true }.finishEvent
  else s1

/-- HEAD_OPEN_INACTIVE (R150). -/
def execHeadOpenInactive (n : StationNo) (s : State) : Answer :=
  if (s.station n).headOpen then .next (s.headClosed n) else .next s

/-! ### Park and wake timers (R157, R158) -/

/-- PARK_TIMER_EXPIRY (R157). -/
def execParkTimerExpiry (n : StationNo) (s : State) : Answer :=
  match (s.station n).parkTimer, (s.station n).profile with
  | some t, some p =>
    if (s.station n).state = .idle ∧ (s.station n).queue = [] then
      .next ((s.reachTime (afterMs t (1000 * p.parkDelay))).enter n .parked).finishEvent
    else .next s
  | some _, none => .next s
  | none, _ => .next s

/-- The end of a wake: CHECKING with return state IDLE where a check is due, and IDLE otherwise
(R158); the DCU enters MEASURING with it (R184). -/
def State.endWake (s : State) (n : StationNo) : State :=
  if (s.station n).checkDue then
    let s1 := s.enterChecking n .idle
    { s1 with check := s1.check.map fun c =>
        if c.station = n then { c with phase := .measuring } else c }
  else s.enter n .idle

/-- WAKE_SETTLE_EXPIRY (R158). -/
def execWakeSettleExpiry (n : StationNo) (s : State) : Answer :=
  match (s.station n).wakeTimer with
  | some t =>
    if (s.station n).state = .waking then
      .next ((s.reachTime (afterMs t Config.settleMs)).endWake n).finishEvent
    else .next s
  | none => .next s

end Sys2Proof.Machine
end

