-- ==== Sys2Proof/Machine/HeadCheck.lean ====
section
/-! DEFINITION. The Dot Check Unit's events and the thermal sample (R175 to R178, R184, R187, R188). -/

namespace Sys2Proof.Machine

/-! ### Dot check (R184, R187, R188) -/

/-- DCU_SETTLE_EXPIRY (R184): the settling of 30 ms ends and measuring begins. -/
def execDcuSettleExpiry (s : State) : Answer :=
  match s.check with
  | none => .next s
  | some c =>
    match c.settleTimer with
    | none => .next s
    | some t =>
      if c.phase = .settling then
        .next { s.reachTime (afterMs t Config.settleMs) with
          check := some { c with phase := .measuring, settleTimer := none } }
      else .next s

/-- A measurement has ended; the last completes the check (R187, R188). -/
def State.measured (s : State) (c : Check) : State :=
  if (s.station c.station).dotCount ≤ c.next then (s.completeCheck c).finishEvent
  else { s with check := some c }

/-- ELEMENT_MEASUREMENT_END (R187). -/
def execElementMeasurementEnd (reading : Byte) (s : State) : Answer :=
  match s.check with
  | none => .next s
  | some c => if c.phase = .measuring then .next (s.measured (c.measure reading)) else .next s

/-! ### Thermal sample (R175, R176) -/

/-- A temperature as the monitor reads it: 0..127 (R176). -/
def clampDegrees (d : Int) : Nat := (min (max d 0) 127).toNat

/-- A limit may be sampled: valid and not frozen (R175). -/
def Limit.eligible (l : Limit) : Bool := l.valid && !l.frozen

/-- The verdict of a sample (R176). -/
def Limit.crosses (l : Limit) (temp : Nat) : Bool :=
  if l.direction = dirBelow then decide (temp < l.threshold) else decide (l.threshold < temp)

/-- A limit after a sample (R176). -/
def Limit.sample (l : Limit) (temp : Nat) : Limit :=
  { l with crossed := l.crosses temp, verdictValid := true, frozen := l.crosses temp && l.report }

/-- The limit to be sampled: that of the turn where it is eligible, else the other (R175). -/
def Thermal.pick (t : Thermal) : Option Turn :=
  match t.turn with
  | .limA => if t.limA.eligible then some .limA else if t.limB.eligible then some .limB else none
  | .limB => if t.limB.eligible then some .limB else if t.limA.eligible then some .limA else none

/-- The limit a turn names. -/
def Thermal.limit (t : Thermal) : Turn → Limit
  | .limA => t.limA
  | .limB => t.limB

/-- The monitor after a sample of a limit: the turn names the other, the timer restarts (R175). -/
def Thermal.sampled (t : Thermal) (w : Turn) (temp : Nat) (clock : Word) : Thermal :=
  match w with
  | .limA => { t with limA := t.limA.sample temp, turn := .limB, timer := some clock }
  | .limB => { t with limB := t.limB.sample temp, turn := .limA, timer := some clock }

/-- THERM-n is raised where a sampled limit with report is crossed (R176). -/
def State.reportSample (s : State) (n : StationNo) (l : Limit) : State :=
  if l.frozen then s.raise (.therm n) else s

/-- The sample of a limit at a station; a line that hot hold paused may begin (R176, R178). -/
def State.takeSample (s : State) (n : StationNo) (w : Turn) (temp : Nat) : State :=
  let t := (s.station n).thermal.sampled w temp s.clock
  (((s.updStation n fun st => { st with thermal := t }).reportSample n (t.limit w)).releasePaused
    n).finishEvent

/-- The sample timer stops, no limit being eligible (R175). -/
def State.stopSampling (s : State) (n : StationNo) : State :=
  s.updStation n fun st => { st with thermal := { st.thermal with timer := none } }

/-- THERMAL_SAMPLE (R175, R176). -/
def execThermalSample (n : StationNo) (degrees : Int) (s : State) : Answer :=
  match (s.station n).thermal.timer, (s.station n).thermal.interval with
  | some t, some i =>
    let s1 := s.reachTime (afterMs t i)
    match (s.station n).thermal.pick with
    | some w => .next (s1.takeSample n w (clampDegrees degrees))
    | none => .next (s1.stopSampling n)
  | some _, none => .next s
  | none, _ => .next s

end Sys2Proof.Machine
end

