-- ==== Sys2Proof/Machine/Dispatch.lean ====
section
/-! DEFINITION. One arm for each command: the call of its meaning. -/

namespace Sys2Proof.Machine

/-- The effect of a command on everything but the queue. -/
def exec (i : Instr) (s : State) : Host.Outcome State Fault Refusal :=
  match i with
  | .hardwareReset => Sys2Proof.Machine.execHardwareReset s
  | .configRomLoadEnd rom => Sys2Proof.Machine.execConfigRomLoadEnd rom s
  | .engineReset w => Sys2Proof.Machine.execEngineReset w s
  | .ringStart c w => Sys2Proof.Machine.execRingStart c w s
  | .ringStop c w => Sys2Proof.Machine.execRingStop c w s
  | .setAutoPollInterval w => Sys2Proof.Machine.execSetAutoPollInterval w s
  | .setArbiterMode w => Sys2Proof.Machine.execSetArbiterMode w s
  | .pollDemand w => Sys2Proof.Machine.execPollDemand w s
  | .ringBaseWrite c v => Sys2Proof.Machine.execRingBaseWrite c v s
  | .ringSizeWrite c v => Sys2Proof.Machine.execRingSizeWrite c v s
  | .ringFetchIndexWrite c v => Sys2Proof.Machine.execRingFetchIndexWrite c v s
  | .eventStatusClear v => Sys2Proof.Machine.execEventStatusClear v s
  | .eventEnableWrite v => Sys2Proof.Machine.execEventEnableWrite v s
  | .inspectionAddressWrite v => Sys2Proof.Machine.execInspectionAddressWrite v s
  | .inspectionDataRead lanes => Sys2Proof.Machine.execInspectionDataRead lanes s
  | .statusARead n lanes => Sys2Proof.Machine.execStatusARead n lanes s
  | .registerWriteIgnored offset lanes v => Sys2Proof.Machine.execRegisterWriteIgnored offset lanes v s
  | .hold n => Sys2Proof.Machine.execHold n s
  | .resume n => Sys2Proof.Machine.execResume n s
  | .flush n => Sys2Proof.Machine.execFlush n s
  | .wake n => Sys2Proof.Machine.execWake n s
  | .park n => Sys2Proof.Machine.execPark n s
  | .stationCommandBadCode n v => Sys2Proof.Machine.execStationCommandBadCode n v s
  | .descriptorFetchEnd c bytes => Sys2Proof.Machine.execDescriptorFetchEnd c bytes s
  | .define => Sys2Proof.Machine.execDefine s
  | .amend => Sys2Proof.Machine.execAmend s
  | .retire => Sys2Proof.Machine.execRetire s
  | .query => Sys2Proof.Machine.execQuery s
  | .setProfile bytes => Sys2Proof.Machine.execSetProfile bytes s
  | .setLimits => Sys2Proof.Machine.execSetLimits s
  | .calibrate => Sys2Proof.Machine.execCalibrate s
  | .dotcheck => Sys2Proof.Machine.execDotcheck s
  | .bodyBurstEnd bytes => Sys2Proof.Machine.execBodyBurstEnd bytes s
  | .labelDataTransferEnd n bytes => Sys2Proof.Machine.execLabelDataTransferEnd n bytes s
  | .completionWriteEnd c => Sys2Proof.Machine.execCompletionWriteEnd c s
  | .transferBusError c => Sys2Proof.Machine.execTransferBusError c s
  | .autoPollExpiry c => Sys2Proof.Machine.execAutoPollExpiry c s
  | .composerFieldStep => Sys2Proof.Machine.execComposerFieldStep s
  | .composerComplete => Sys2Proof.Machine.execComposerComplete s
  | .markedHeadFinish n => Sys2Proof.Machine.execMarkedHeadFinish n s
  | .triggerLevelChange n high => Sys2Proof.Machine.execTriggerLevelChange n high s
  | .triggerArrival n => Sys2Proof.Machine.execTriggerArrival n s
  | .lastStartExpiry n k => Sys2Proof.Machine.execLastStartExpiry n k s
  | .deadlineExpiry n k => Sys2Proof.Machine.execDeadlineExpiry n k s
  | .linePeriodExpiry n => Sys2Proof.Machine.execLinePeriodExpiry n s
  | .strobeSubphaseEnd n => Sys2Proof.Machine.execStrobeSubphaseEnd n s
  | .gapEdge n => Sys2Proof.Machine.execGapEdge n s
  | .mediaPresentFall n active => Sys2Proof.Machine.execMediaPresentFall n active s
  | .applied n => Sys2Proof.Machine.execApplied n s
  | .applyTimeout n => Sys2Proof.Machine.execApplyTimeout n s
  | .headOpenActive n => Sys2Proof.Machine.execHeadOpenActive n s
  | .headOpenInactive n => Sys2Proof.Machine.execHeadOpenInactive n s
  | .parkTimerExpiry n => Sys2Proof.Machine.execParkTimerExpiry n s
  | .wakeSettleExpiry n => Sys2Proof.Machine.execWakeSettleExpiry n s
  | .dcuSettleExpiry => Sys2Proof.Machine.execDcuSettleExpiry s
  | .elementMeasurementEnd reading => Sys2Proof.Machine.execElementMeasurementEnd reading s
  | .thermalSample n degrees => Sys2Proof.Machine.execThermalSample n degrees s

end Sys2Proof.Machine
end

