-- ==== Sys2Proof/Machine/Step.lean ====
section
/-! DEFINITION. One step of the part: the command at the front of the queue, or a millisecond of the clock. -/

namespace Sys2Proof.Machine

/-- The millisecond clock rises by 1 and passes from FFFFFFFFh to 0 (R197). -/
def State.tick (s : State) : State := { s with clock := s.clock + 1 }

/-- A step takes the command at the front of the queue. On an empty queue a millisecond passes.
DESIGN CHOICE (log 1). -/
def step (s : State) : Host.Outcome State Fault Refusal :=
  match s.pending with
  | [] => .next s.tick
  | c :: rest => exec c { s with pending := rest }

/-- The state with the command a word spells at the front of its queue; no row of the opcode table has
bits, so no word spells one (log 22). -/
def State.withFetchWord (s : State) (nbits w : Nat) : State :=
  match decodeTableWord nbits w with
  | some i => { s with pending := i :: s.pending }
  | none => s

end Sys2Proof.Machine
end

