-- ==== Sys2Proof/Safety.lean ====
section
/-! DEFINITION. What holds of every state the part can be in, and what two states have in common: the terms in
which the statements about the machine are made. -/

namespace Sys2Proof.Machine

/-! ### Invariants -/

/-- Record memory, the element entries and the Resource Table are in canonical form (R1, R29). -/
def State.canonical (s : State) : Bool :=
  s.memory.wf && sparseWf none s.elements && sparseWf Record.empty s.table

/-- The registers of a channel hold values R82 gives them: a base that is a multiple of 64, a size
that is 0 or 16..1024, a fetch index within the size. -/
def Channel.legal (ch : Channel) : Bool :=
  ch.base.toNat % 64 == 0 && (ch.size == 0 || within 16 1024 ch.size) &&
  (ch.fetchIndex == 0 || decide (ch.fetchIndex < ch.size))

/-- The five channels hold legal values; RCH-C is never FULL and holds no held set and no pending
completions (R82). -/
def State.ringsLegal (s : State) : Bool :=
  (Chan.all.all fun c => (s.chan c).legal) && s.control.state != .full &&
  s.control.held.isEmpty && s.control.pendingCompletions.isEmpty

/-- Between events every channel has made the request it has, and a free bus master is granted where a
request waits (R85, R93, R94, R101). -/
def State.busQuiet (s : State) : Bool :=
  (Chan.all.all fun c => decide (s.request c = s)) && (s.bus.isSome || s.arbitrate.isNone)

/-- Between events nothing is left to do at a station: every paired entry has its last-start time
(R136), the start test waits (R141, R142), and the park timer runs where it should (R157). -/
def State.stationQuiet (s : State) (n : StationNo) : Bool :=
  let t := s.station n
  t.newPair?.isNone && s.startTest n == .wait && t.parkTimerAt s.clock == t.parkTimer

/-- Between events the four stations have nothing left to do, the Composer is BUSY or has no candidate
(R115), and the DCU is BUSY or has no eligible request (R186). -/
def State.quiet (s : State) : Bool :=
  (StationNo.all.all s.stationQuiet) && (s.composer.isSome || s.composerPick?.isNone) &&
  s.serviceStation?.isNone

/-- The trigger queues hold at most four entries (R135). -/
def State.triggersBounded (s : State) : Bool :=
  StationNo.all.all fun n => decide ((s.station n).triggers.length ≤ 4)

/-- Head power is OFF in OFFLINE and PARKED, and ON in every other state but HELD and FAULT, where it
may be either (R133). -/
def Station.powerLegal (t : Station) : Bool :=
  match t.state with
  | .offline => !t.power
  | .parked => !t.power
  | .held => true
  | .fault => true
  | .waking => t.power
  | .idle => t.power
  | .printing => t.power
  | .presenting => t.power
  | .ejecting => t.power
  | .checking => t.power
  | .calibrating => t.power

/-- A state in which MOTOR may step (R133). -/
def StationState.feeds (st : StationState) : Bool :=
  st == .printing || st == .ejecting || st == .calibrating

/-- The lane's outputs and the items of a station's work stand only in the states they belong to:
LABEL_OUT in PRESENTING (R147), MOTOR while a line is in progress that hot hold does not pause (R144, R164), the
line in the feeding states (R133), the Head
Drive in PRINTING (R163), the wake timer and a due check in WAKING (R158), the apply timer in
PRESENTING (R147), the park timer in IDLE (R157), the print deadline while a label prints or presents
(R143), the return state in CHECKING, CALIBRATING and EJECTING (R130). -/
def Station.workLegal (t : Station) : Bool :=
  t.labelOut == (t.state == .presenting) &&
  t.motor == (t.feed.any fun f => !f.paused) && (!t.motor || t.state.feeds) &&
  (t.feed.isNone || t.state.feeds) &&
  (t.drive.isNone || t.state == .printing) &&
  (t.wakeTimer.isNone || t.state == .waking) && (!t.checkDue || t.state == .waking) &&
  (t.applyTimer.isNone || t.state == .presenting) && (t.parkTimer.isNone || t.state == .idle) &&
  (t.printDeadline.isNone || t.state == .printing || t.state == .presenting) &&
  (t.returnState.isNone || t.state == .checking || t.state == .calibrating ||
    t.state == .ejecting)

/-- Every station's head power and work are legal. -/
def State.lanesLegal (s : State) : Bool :=
  StationNo.all.all fun n => (s.station n).powerLegal && (s.station n).workLegal

end Sys2Proof.Machine

namespace Sys2Proof

/-! ### What the commands reach -/

/-- The commands that set what the configuration ROM gives: no other changes it (R195, R207). -/
def Instr.setsCard : Instr → Bool
  | .hardwareReset => true
  | .configRomLoadEnd _ => true
  | _ => false

/-- The commands that write the host's settings of the engine (R194, R202, R203, R204). -/
def Instr.setsEngine : Instr → Bool
  | .hardwareReset => true
  | .setAutoPollInterval _ => true
  | .setArbiterMode _ => true
  | .eventEnableWrite _ => true
  | .inspectionAddressWrite _ => true
  | .inspectionDataRead _ => true
  | .statusARead _ _ => true
  | _ => false

/-- The commands that write a ring's base or size (R83, R103). -/
def Instr.setsRings : Instr → Bool
  | .hardwareReset => true
  | .ringBaseWrite _ _ => true
  | .ringSizeWrite _ _ => true
  | _ => false

/-- The commands that may clear an event cause (R201, R202). -/
def Instr.clearsEvents : Instr → Bool
  | .hardwareReset => true
  | .engineReset _ => true
  | .eventStatusClear _ => true
  | _ => false

/-- The commands that may change a profile: SET_PROFILE, the edge that ends a calibration, and the
resets (R131). -/
def Instr.setsProfile : Instr → Bool
  | .hardwareReset => true
  | .engineReset _ => true
  | .setProfile _ => true
  | .gapEdge _ => true
  | _ => false

/-- The commands that may change a thermal monitor (R173 to R176). -/
def Instr.setsThermal : Instr → Bool
  | .hardwareReset => true
  | .engineReset _ => true
  | .setLimits => true
  | .thermalSample _ _ => true
  | _ => false

/-- The commands that may change a failed-dot map or last summary (R182). -/
def Instr.setsMap : Instr → Bool
  | .hardwareReset => true
  | .elementMeasurementEnd _ => true
  | _ => false

/-- The commands that record a last command code and result (R151, R198). -/
def Instr.recordsCommand : Instr → Bool
  | .hardwareReset => true
  | .hold _ => true
  | .resume _ => true
  | .flush _ => true
  | .wake _ => true
  | .park _ => true
  | .stationCommandBadCode _ _ => true
  | _ => false

/-- The commands that touch the inputs of a lane or its media latch (R134, R149, R150, R199). -/
def Instr.setsInputs : Instr → Bool
  | .hardwareReset => true
  | .engineReset _ => true
  | .statusARead _ _ => true
  | .triggerLevelChange _ _ => true
  | .mediaPresentFall _ _ => true
  | .headOpenActive _ => true
  | .headOpenInactive _ => true
  | _ => false

/-- The commands whose event can reach record memory: those that store a burst or label data, those
that write element entries, those after which the Composer may take a label and draw its counters.
The others are the register accesses, the commands of the Resource Table and the inner steps of a line
and of a check. -/
def Instr.keepsMemory : Instr → Bool
  | .hardwareReset => true
  | .configRomLoadEnd _ => true
  | .engineReset _ => true
  | .ringStart _ _ => true
  | .ringStop _ _ => true
  | .setAutoPollInterval _ => true
  | .setArbiterMode _ => true
  | .pollDemand _ => true
  | .ringBaseWrite _ _ => true
  | .ringSizeWrite _ _ => true
  | .ringFetchIndexWrite _ _ => true
  | .eventStatusClear _ => true
  | .eventEnableWrite _ => true
  | .inspectionAddressWrite _ => true
  | .inspectionDataRead _ => true
  | .statusARead _ _ => true
  | .registerWriteIgnored _ _ _ => true
  | .stationCommandBadCode _ _ => true
  | .define => true
  | .amend => true
  | .retire => true
  | .query => true
  | .autoPollExpiry _ => true
  | .strobeSubphaseEnd _ => true
  | .dcuSettleExpiry => true
  | _ => false

end Sys2Proof

namespace Sys2Proof.Machine

/-! ### What RCH-C answers -/

/-- The completion RCH-C holds for the command in hand, where its owner has answered (R89). -/
def State.controlAnswer? (s : State) : Option (List Byte) := s.control.handCompletion?.map fun p => p.2

/-- The status byte of that completion (R208). -/
def State.controlStatus? (s : State) : Option Byte := s.controlAnswer?.bind fun b => b.head?

/-- The index field of that completion, bytes 38..39 of the descriptor (R208). -/
def State.controlIndex? (s : State) : Option Nat :=
  s.controlAnswer?.map fun b => le16 (listReader b) 6

/-- The status byte of the completion a station channel holds for the label in hand (R113). -/
def State.labelStatus? (s : State) (n : StationNo) : Option Byte :=
  (s.rings.get n).handCompletion?.bind fun p => p.2.head?

/-! ### What two states have in common -/

/-- The items the configuration ROM gives are the same (R195, R207). -/
def State.SameCard (s t : State) : Prop :=
  t.loading = s.loading ∧ t.defaulted = s.defaulted ∧ t.boardTag = s.boardTag ∧
  t.total = s.total ∧ ∀ n, (t.station n).dotCount = (s.station n).dotCount

/-- The host's settings of the engine and the data last read are the same (R194, R202, R203). -/
def State.SameEngine (s t : State) : Prop :=
  t.arbiter = s.arbiter ∧ t.autoPoll = s.autoPoll ∧ t.eventEnable = s.eventEnable ∧
  t.inspect = s.inspect ∧ t.readData = s.readData

/-- The records, the pool and record memory are the same. -/
def State.SameRecords (s t : State) : Prop :=
  t.table = s.table ∧ t.free = s.free ∧ t.memory = s.memory ∧ t.elements = s.elements

/-- The bus, the channels and the BMA's pointer are the same. -/
def State.SameBus (s t : State) : Prop :=
  t.control = s.control ∧ t.rings = s.rings ∧ t.bus = s.bus ∧ t.transfer = s.transfer ∧
  t.pointer = s.pointer

/-- The labels, the Composer, the stations and the DCU are the same. -/
def State.SameLanes (s t : State) : Prop :=
  t.stations = s.stations ∧ t.composer = s.composer ∧ t.nextStamp = s.nextStamp ∧
  t.check = s.check ∧ t.checkPending = s.checkPending ∧ t.freeIndex = s.freeIndex

/-- The event causes, the clock and the queue are the same. -/
def State.SameEvents (s t : State) : Prop :=
  t.eventStatus = s.eventStatus ∧ t.clock = s.clock ∧ t.pending = s.pending

/-- An event cause is raised. -/
def State.raised (s : State) (c : Cause) : Bool := s.eventStatus.getLsbD c.bit

/-! ### Words of the statements -/

/-- Between two events: nothing is left to do at a station, the Composer, the DCU or a channel. -/
def State.atRest (s : State) : Bool := s.quiet && s.busQuiet

/-- A station takes commands: the ROM is loaded and gives the station a head (R130, R151). -/
abbrev State.commandable (s : State) (n : StationNo) : Prop :=
  s.loading = false ∧ (s.station n).fitted = true

/-- RCH-C holds a descriptor that it has handed to its owner (R89). -/
abbrev State.given (s : State) (d : List Byte) (code : ControlCode) (i : Nat) : Prop :=
  s.control.hand = some ⟨d, i, .owner⟩ ∧ controlCode d = code

/-- RCH-C holds a completion of a status to write (R89). -/
abbrev State.answers (s : State) (st : Status) : Prop := s.controlStatus? = some (byte st.code)

/-- RCH-C holds a completion of a status with an index field (R208). -/
abbrev State.answersAt (s : State) (st : Status) (index : Nat) : Prop :=
  s.answers st ∧ s.controlIndex? = some index

/-- RCH-C holds a completion that carries a status alone: every other byte is 0 (R209). -/
abbrev State.answersAlone (s : State) (st : Status) : Prop :=
  s.answers st ∧ s.controlAnswer? = some (byte st.code :: List.replicate 30 0)

/-- RCH-C holds a completion that carries a status and an index alone (R208, R209). -/
abbrev State.answersItem (s : State) (st : Status) (index : Nat) : Prop :=
  s.answersAt st index ∧ s.controlAnswer? = some
    (byte st.code :: List.replicate 5 0 ++ [byte index, byte (index / 256)] ++ List.replicate 23 0)

/-- RCH-C holds the completion of a record command: the status, the handle, the record's version as it stands,
and then the bytes from descriptor byte 38 on (R14, R208, R209). -/
abbrev State.answersRecord (s : State) (st : Status) (h : Nat) (rest : List Byte) : Prop :=
  s.answers st ∧ s.controlAnswer? = some
    ([byte st.code, 0, byte h, byte (h / 256), byte (s.record h).version,
      byte ((s.record h).version / 256)] ++ rest)

/-- The bytes from descriptor byte 38 on where none of them carries a field (R209). -/
abbrev noFields : List Byte := List.replicate 25 0

/-- The bytes from descriptor byte 38 on where an index alone is carried (R208). -/
abbrev indexFields (index : Nat) : List Byte :=
  [byte index, byte (index / 256)] ++ List.replicate 23 0

/-- A station channel holds a completion of a status alone for the label in hand (R113, R209). -/
abbrev State.labelAnswers (s : State) (n : StationNo) (st : Status) : Prop :=
  s.labelStatus? n = some (byte st.code) ∧
  ((s.rings.get n).handCompletion?.map fun p => p.2)
    = some (byte st.code :: List.replicate 45 0)

/-- No check of a station is pending or can begin of itself. -/
abbrev State.unasked (s : State) (n : StationNo) : Prop := s.checkPending.get n = false

/-- How far round the circle a channel stands from another (R102). -/
def circleDistance (p c : Chan) : Nat := (c.toNat + 5 - p.toNat) % 5

/-- The channels but one are the same. -/
def State.SameChannelsBut (s t : State) (c : Chan) : Prop := ∀ d, d ≠ c → t.chan d = s.chan d

/-- The records but one are the same. -/
def State.SameRecordsBut (s t : State) (h : Nat) : Prop := ∀ g, g ≠ h → t.record g = s.record g

/-- Record memory reads the same at every address outside a run of bytes. -/
def State.SameMemoryBut (s t : State) (a len : Nat) : Prop :=
  ∀ x, (x < a ∨ a + len ≤ x) → t.readByte x = s.readByte x

/-- Record memory reads the same at every address. -/
def State.SameMemory (s t : State) : Prop := ∀ x, t.readByte x = s.readByte x

/-- A label that a channel fetches data for is given up (R38, R111): each pin it holds on a current body is
released, and its reservation goes to the back of the free list, behind whatever the pins free (log 10). -/
def State.GivesUp (s t : State) (l : Label) : Prop :=
  (∃ freed, t.free = s.free ++ freed ++ l.reservation) ∧
  (∀ h c, (s.record h).current = some c → (s.record h).state ≠ .retiring →
    (∀ v, (h, v) ∈ l.pinned → v = c.version) →
    (t.record h).current = some { c with pins := c.pins - l.pinHandles.count h }) ∧
  ((∀ p ∈ l.pinned, (s.record p.1).state ≠ .retiring ∧
      ∃ c, (s.record p.1).current = some c ∧ c.version = p.2) →
    (∀ h ∈ l.counterPins, (s.record h).state ≠ .retiring) →
    t.free = s.free ++ l.reservation)

/-! ### What a body must hold (R54 to R57, R61, R69, R76) -/

/-- The header of a FORM body passes (R54). -/
abbrev formHeaderOk (rd : Reader) (len : Nat) : Prop :=
  32 ≤ len ∧ 1 ≤ formFieldCount rd ∧ formFieldCount rd ≤ 64 ∧
  32 + 64 * formFieldCount rd ≤ len ∧ 8 ≤ formLength rd ∧ formLength rd ≤ 4096 ∧
  8 ≤ formWidth rd ∧ formWidth rd ≤ 1024 ∧ -8 ≤ formDarkness rd ∧ formDarkness rd ≤ 7

/-- The items of a field of a form of a width and length pass checks 1 to 13 (R55). -/
abbrev fieldItemsOk (f : Field) (width length : Nat) : Prop :=
  f.kind ≠ none ∧ f.rot90 ≠ none ∧ f.x < width ∧ f.y < length ∧
  (f.kind = some .text ∨ f.kind = some .barcode →
    f.source ≠ none ∧ 1 ≤ f.maxChars ∧ f.maxChars ≤ 96 ∧
    (f.source = some .constant →
      1 ≤ f.constLength ∧ f.constLength ≤ 32 ∧ f.constLength ≤ f.maxChars) ∧
    (f.source = some .slot → f.slot ≤ 15)) ∧
  (f.kind = some .barcode →
    1 ≤ f.moduleDots ∧ f.moduleDots ≤ 16 ∧ 1 ≤ f.barHeight ∧ f.barHeight ≤ 1024 ∧
    f.maxShift ≤ 63) ∧
  (f.kind = some .rule →
    1 ≤ f.ruleWidth ∧ f.ruleWidth ≤ 4096 ∧ 1 ≤ f.ruleHeight ∧ f.ruleHeight ≤ 4096)

/-- The counts over the first fields keep their limits: BARCODE fields, distinct counters, distinct
handles (R56). -/
abbrev fieldLimitsOk (fields : List Field) : Prop :=
  fields.countP (fun f => f.kind == some .barcode) ≤ 4 ∧
  ((fields.filter fun f => f.sourced && f.source == some .counter).map fun f =>
    f.counterHandle).dedup.length ≤ 4 ∧
  ((fields.map fun f => f.handles.map fun p => p.1).flatten).dedup.length ≤ 16

/-- Field i of a FORM body passes the field pass (R55, R56). -/
abbrev formFieldOk (rd : Reader) (i : Nat) : Prop :=
  fieldItemsOk (formField rd i) (formWidth rd) (formLength rd) ∧
  fieldLimitsOk ((formFields rd).take (i + 1))

/-- Every handle field i of a FORM body names is that of an ACTIVE record of the kind required (R57). -/
abbrev State.formHandlesOk (s : State) (rd : Reader) (i : Nat) : Prop :=
  ∀ p ∈ (formField rd i).handles,
    p.1 ≤ 1023 ∧ (s.record p.1).state = .active ∧ (s.record p.1).kind = some p.2

/-- The header of a FONT body passes (R61). -/
abbrev fontHeaderOk (rd : Reader) (len : Nat) : Prop :=
  16 ≤ len ∧ 4 ≤ fontHeight rd ∧ fontHeight rd ≤ 255 ∧ 1 ≤ fontCount rd ∧ fontCount rd ≤ 256 ∧
  16 + 8 * fontCount rd ≤ len

/-- Glyph i of a FONT body passes (R61). -/
abbrev fontGlyphOk (rd : Reader) (len i : Nat) : Prop :=
  (fontGlyph rd i).width ≠ 0 ∧ 16 + 8 * fontCount rd ≤ (fontGlyph rd i).bitmap ∧
  (fontGlyph rd i).bitmap + fontHeight rd * (((fontGlyph rd i).width + 7) / 8) ≤ len ∧
  ∀ j, j < i → (fontGlyph rd j).code ≠ (fontGlyph rd i).code

/-- A pattern has an element count in a range and of a parity, and widths of 1..4 (R69). -/
abbrev patternGood (rd : Reader) (o lo hi parity : Nat) : Prop :=
  lo ≤ rd o ∧ rd o ≤ hi ∧ rd o % 2 = parity ∧
  ∀ j, j < rd o → 1 ≤ rd (o + 1 + j) ∧ rd (o + 1 + j) ≤ 4

/-- The header of a SYMBOLOGY body passes (R69). -/
abbrev symHeaderOk (rd : Reader) (len : Nat) : Prop :=
  64 ≤ len ∧ 1 ≤ symCount rd ∧ symCount rd ≤ 128 ∧ 64 + 16 * symCount rd ≤ len ∧
  1 ≤ symMin rd ∧ symMin rd ≤ 96 ∧ 1 ≤ symMax rd ∧ symMax rd ≤ 96 ∧ symMin rd ≤ symMax rd ∧
  symQuiet rd ≤ 20 ∧ rd 4 ≤ 1 ∧
  (rd 4 = 1 → 2 ≤ symM rd ∧ symM rd ≤ 127 ∧ rd 6 ≤ 1 ∧
    (rd 6 = 1 → 1 ≤ symWeightCount rd ∧ symWeightCount rd ≤ 8 ∧
      ∀ j, j < symWeightCount rd → 1 ≤ rd (8 + j) ∧ rd (8 + j) ≤ 99))

/-- Entry i of the character map passes (R69). -/
abbrev symEntryOk (rd : Reader) (i : Nat) : Prop :=
  (symEntry rd i).value ≤ 127 ∧ patternGood rd (64 + 16 * i + 2) 2 12 0 ∧
  ∀ j, j < i → (symEntry rd j).code ≠ (symEntry rd i).code

/-- A COUNTER body passes (R76). -/
abbrev counterOk (rd : Reader) (len : Nat) : Prop :=
  64 ≤ len ∧ (∀ j, j < 21 → rd (16 + j) % 16 ≤ 9 ∧ rd (16 + j) / 16 ≤ 9) ∧
  1 ≤ ctrDigits rd ∧ ctrDigits rd ≤ 12 ∧ ctrHigh rd < 10 ^ ctrDigits rd ∧
  ctrLow rd ≤ ctrHigh rd ∧ ctrLow rd ≤ ctrValue rd ∧ ctrValue rd ≤ ctrHigh rd ∧
  ctrStep rd ≠ 0 ∧ rd 1 ≤ 1 ∧ rd 2 ≤ 1 ∧ rd 3 ≤ 1 ∧
  (rd 3 = 1 → 1 ≤ ctrWeightCount rd ∧ ctrWeightCount rd ≤ 4 ∧
    ∀ j, j < ctrWeightCount rd → 1 ≤ rd (5 + j) ∧ rd (5 + j) ≤ 9)

/-- The bit of an entry's glyph bitmap at a row and column: rows of whole bytes, the leftmost column in the
highest bit (R60, R212). -/
def bitmapBit (rd : Reader) (x : Element) (row col : Nat) : Bool :=
  (rd (x.bitmap + row * ((x.width + 7) / 8) + col / 8)).testBit (7 - col % 8)

end Sys2Proof.Machine
end

