-- ==== Sys2Proof/Certificates/Slice0/Obligations.lean ====
section
/-! DEFINITION. The statements for the provers. In each, the hypotheses speak of the state before the command and
of its operands alone. A command that ends an event ends it by State.finishEvent or State.settleBus, about
which EventEndKeeps and EventEndComesToRest speak. -/

section
open Sys2Proof Sys2Proof.Machine

/-! ### The machine as a whole -/

/-- A step takes the command at the front of the queue and answers what exec answers on the queue's rest. With
no command waiting a millisecond passes: the clock rises by 1, from FFFFFFFFh to 0, and nothing else changes.
That the idle step is the tick is the model's choice (log 1). -/
def Obligations.StepRunsFrontCommand : Prop :=
  (∀ (c : Instr) (rest : List Instr) (s : State), s.pending = c :: rest →
    step s = exec c { s with pending := rest }) ∧
  (∀ s : State, s.pending = [] →
    ∃ t, step s = .next t ∧ t = { s with clock := t.clock } ∧
      t.clock.toNat = (if s.clock.toNat = 0xFFFFFFFF then 0 else s.clock.toNat + 1))

/-- HARDWARE_RESET leaves every item as State.reset has it, but the queue, the model's own counter and last
data read, the content of record memory (R31) and the levels of the lanes' inputs, which the media latches
take; and every invariant stated below holds right after reset. The items as State.reset has them follow, those
of a channel, a station and a thermal monitor by themselves. That the inputs and the content stand is the
model's reading (log 28). That the config defaulted flag is clear, and the levels the inputs have in
State.reset itself, are the model's choice (log 7). -/
def Obligations.ResetLeaves : Prop :=
  (∀ s : State, ∃ t, exec .hardwareReset s = .next t ∧
    t = { State.reset with
      pending := s.pending, freeIndex := s.freeIndex, readData := s.readData, memory := s.memory,
      elements := s.elements, stations := t.stations } ∧
    ∀ n, t.station n = { Station.initial with
      mediaPresent := (s.station n).mediaPresent, mediaLatch := (s.station n).mediaPresent,
      headOpen := (s.station n).headOpen, triggerHigh := (s.station n).triggerHigh }) ∧
  exec .hardwareReset State.reset = .next State.reset ∧
  State.reset.canonical = true ∧ State.reset.ringsLegal = true ∧ State.reset.lanesLegal = true ∧
  State.reset.triggersBounded = true ∧ State.reset.busQuiet = true ∧ State.reset.quiet = true ∧
  State.reset = {
    pending := [], freeIndex := 0, readData := 0, clock := 0, loading := true, defaulted := false,
    boardTag := 0, arbiter := .labelsFirst, autoPoll := 0, eventStatus := 0, eventEnable := 0,
    inspect := { offset := 0, block := 0, mapArea := false, mapStation := 0,
                 postIncrement := false },
    total := 0, free := [], memory := [], elements := [], table := [],
    control := Channel.initial,
    rings := ⟨Channel.initial, Channel.initial, Channel.initial, Channel.initial⟩,
    bus := none, transfer := none, pointer := .station .s0, composer := none, nextStamp := 0,
    stations := ⟨Station.initial, Station.initial, Station.initial, Station.initial⟩,
    check := none, checkPending := ⟨false, false, false, false⟩ } ∧
  Channel.initial = {
    base := 0, size := 0, fetchIndex := 0, state := .stopped, stopCause := .none,
    stopPending := false, pollLatch := false, hand := none, held := [], pendingCompletions := [],
    autoPollTimer := none, refetchDue := false, failing := false, xfer := none, written := none } ∧
  Station.initial = {
    dotCount := 0, state := .offline, profile := none, power := false, faultCause := .none,
    wakeCause := .none, holdPending := false, returnState := none, triggers := [],
    printDeadline := none, sinceEdge := 0, registered := false, aligned := false,
    checkDue := false, labelOut := false, motor := false, lastCode := 0, lastResult := .none,
    filterTimer := none, parkTimer := none, wakeTimer := none, applyTimer := none, feed := none,
    queue := [], fetching := none, drive := none, thermal := Thermal.initial, mediaLatch := true,
    mediaPresent := true, headOpen := false, triggerHigh := false, map := [],
    summary := ⟨0, []⟩ } ∧
  Thermal.initial = {
    interval := none, turn := .limA, timer := none,
    limA := ⟨false, 0, 0, 0, false, false, false, false⟩,
    limB := ⟨false, 0, 0, 0, false, false, false, false⟩ }

/-- Every step keeps record memory, the element entries and the Resource Table in canonical form. -/
def Obligations.CanonicalKept : Prop :=
  ∀ s t : State, s.canonical = true → step s = .next t → t.canonical = true

/-- Every step keeps the channels' registers in the ranges of R82, and RCH-C without a held set, without
pending completions and out of FULL. -/
def Obligations.RingsLegalKept : Prop :=
  ∀ s t : State, s.ringsLegal = true → step s = .next t → t.ringsLegal = true

/-- Every step keeps head power as the station's state has it, the lane's outputs and timers in the states
they belong to, and at most four entries in each trigger queue. -/
def Obligations.LanesLegalKept : Prop :=
  (∀ s t : State, s.lanesLegal = true → step s = .next t → t.lanesLegal = true) ∧
  (∀ s t : State, s.triggersBounded = true → step s = .next t → t.triggersBounded = true)

/-- Every step leaves nothing to be done: pairs have their last-start times, start tests wait, park timers run
where they should, the Composer and the DCU have taken up what they may, the channels have made the requests
they have, and no request waits beside a free bus master. -/
def Obligations.RestKept : Prop :=
  ∀ s t : State, s.atRest = true → step s = .next t → t.atRest = true

/-- What a command may not touch on the card, in the host's settings and among the event causes raised, and the
queue, which no command touches. -/
def Obligations.SettingsAndEventsKept : Prop :=
  ∀ (c : Instr) (s t : State), exec c s = .next t →
    t.pending = s.pending ∧
    (c.setsCard = false → s.SameCard t) ∧
    (c.setsEngine = false → s.SameEngine t) ∧
    (c.setsRings = false →
      ∀ r, (t.chan r).base = (s.chan r).base ∧ (t.chan r).size = (s.chan r).size) ∧
    (c.clearsEvents = false → ∀ e : Cause, s.raised e = true → t.raised e = true)

/-- What a command may not touch at any station: profile, thermal monitor, failed-dot map and summary, last
command, inputs and media latch; and, for the commands that store nothing, every byte of record memory. -/
def Obligations.StationItemsAndMemoryKept : Prop :=
  ∀ (c : Instr) (s t : State), exec c s = .next t →
    (c.keepsMemory = true → s.SameMemory t) ∧ ∀ n : StationNo,
    (c.setsProfile = false → (t.station n).profile = (s.station n).profile) ∧
    (c.setsThermal = false → (t.station n).thermal = (s.station n).thermal) ∧
    (c.setsMap = false → (t.station n).map = (s.station n).map ∧
      (t.station n).summary = (s.station n).summary) ∧
    (c.recordsCommand = false → (t.station n).lastCode = (s.station n).lastCode ∧
      (t.station n).lastResult = (s.station n).lastResult) ∧
    (c.setsInputs = false → (t.station n).mediaPresent = (s.station n).mediaPresent ∧
      (t.station n).mediaLatch = (s.station n).mediaLatch ∧
      (t.station n).headOpen = (s.station n).headOpen ∧
      (t.station n).triggerHigh = (s.station n).triggerHigh)

/-- The end of an event keeps the card, the settings, the queue, the clock, the causes raised, the channels'
registers and descriptors in hand, and each station's items but its work; it touches the work of a
station only where that is IDLE or PARKED; it keeps a check and a label in composition, and with one in
composition all of record memory, for only a label newly taken draws from a counter. -/
def Obligations.EventEndKeeps : Prop :=
  ∀ s t : State, s.finishEvent = t →
    s.SameCard t ∧ s.SameEngine t ∧ t.pending = s.pending ∧ t.clock = s.clock ∧
    t.nextStamp = s.nextStamp ∧ (∀ e : Cause, s.raised e = true → t.raised e = true) ∧
    (∀ c : Chan,
      (t.chan c).base = (s.chan c).base ∧ (t.chan c).size = (s.chan c).size ∧
      (t.chan c).fetchIndex = (s.chan c).fetchIndex ∧ (t.chan c).hand = (s.chan c).hand ∧
      (t.chan c).held = (s.chan c).held ∧ (t.chan c).stopCause = (s.chan c).stopCause ∧
      (t.chan c).stopPending = (s.chan c).stopPending ∧ (t.chan c).failing = (s.chan c).failing ∧
      (t.chan c).autoPollTimer = (s.chan c).autoPollTimer ∧
      (t.chan c).written = (s.chan c).written ∧
      (s.chan c).pendingCompletions <+: (t.chan c).pendingCompletions) ∧
    (∀ n : StationNo,
      (t.station n).profile = (s.station n).profile ∧
      (t.station n).thermal = (s.station n).thermal ∧ (t.station n).map = (s.station n).map ∧
      (t.station n).summary = (s.station n).summary ∧
      (t.station n).lastCode = (s.station n).lastCode ∧
      (t.station n).lastResult = (s.station n).lastResult ∧
      (t.station n).mediaLatch = (s.station n).mediaLatch ∧
      (t.station n).mediaPresent = (s.station n).mediaPresent ∧
      (t.station n).headOpen = (s.station n).headOpen ∧
      (t.station n).triggerHigh = (s.station n).triggerHigh ∧
      (t.station n).filterTimer = (s.station n).filterTimer ∧
      (t.station n).fetching = (s.station n).fetching ∧
      ((s.station n).state ≠ .idle → (s.station n).state ≠ .parked →
        t.station n = { s.station n with
          triggers := (t.station n).triggers, queue := (t.station n).queue,
          parkTimer := (t.station n).parkTimer })) ∧
    (s.check.isSome = true → t.check = s.check) ∧
    (s.composer.isSome = true → t.composer = s.composer ∧ s.SameMemory t)

/-- At the end of an event nothing is left to be done, whatever the state before it: every paired entry has its
last-start time, no start test would start or finish a label, a park timer runs at exactly the IDLE stations
without a label and with a park delay, the IDLE Composer has no candidate, the IDLE DCU no request of a station in
IDLE or PARKED, a channel without a transfer none to ask for, and the free bus master no request. -/
def Obligations.EventEndComesToRest : Prop :=
  (∀ s : State, s.finishEvent.atRest = true) ∧
  (∀ s : State, s.atRest = true →
    (∀ (n : StationNo) (k : Nat) (e : Trigger) (l : Label), (s.station n).triggers[k]? = some e →
      (s.station n).eligible[k]? = some l → e.lastStart ≠ none) ∧
    (∀ n : StationNo, s.startTest n = .wait) ∧
    (∀ (n : StationNo) (p : Profile), (s.station n).profile = some p →
      ((s.station n).parkTimer.isSome = true ↔
        (s.station n).state = .idle ∧ (s.station n).queue = [] ∧ p.parkDelay ≠ 0)) ∧
    (∀ n : StationNo, (s.station n).profile = none → (s.station n).parkTimer = none) ∧
    (s.composer = none → ∀ n : StationNo, (s.station n).candidate? = none) ∧
    (s.check = none → ∀ n : StationNo, s.checkPending.get n = true →
      (s.station n).state ≠ .idle ∧ (s.station n).state ≠ .parked) ∧
    (∀ c : Chan, (s.chan c).xfer = none → (s.chan c).pendingCompletions = [] ∧
      (∀ d i w, (s.chan c).hand = some ⟨d, i, w⟩ → w = .owner ∨ w = .busy) ∧
      ((s.chan c).hand = none → (s.chan c).state ≠ .running ∧
        ((s.chan c).state = .suspended → (s.chan c).refetchDue = false))) ∧
    (s.bus = none → ∀ c : Chan, (s.chan c).xfer = none))

/-! ### The card (R194, R205 to R207) -/

/-- CONFIG_ROM_LOAD_END while the ROM loads: a content of 16 bytes that passes the three checks of R207 is
taken as read; any other, and none at all, is replaced by the defaults with CONFIG_DEFAULTED. The pool
builds its free list in ascending order. Nothing else changes. -/
def Obligations.RomLoadEnds : Prop :=
  (∀ (s : State) (rom : List Byte) (total : Nat) (dots : StationNo → Nat),
    s.loading = true → rom.length = 16 →
    ((rom.getD 0 0 = 0 ∧ total = 2048) ∨ (rom.getD 0 0 = 1 ∧ total = 4096) ∨
      (rom.getD 0 0 = 2 ∧ total = 8192)) →
    (∀ n : StationNo, dots n = (rom.getD (2 + 2 * n.toNat) 0).toNat
      + 256 * (rom.getD (3 + 2 * n.toNat) 0).toNat) →
    (∀ n, dots n = 0 ∨ (64 ≤ dots n ∧ dots n ≤ 1024 ∧ dots n % 8 = 0)) →
    ((rom.take 14).map fun b => b.toNat).sum % 65536
      = (rom.getD 14 0).toNat + 256 * (rom.getD 15 0).toNat →
    ∃ t, exec (.configRomLoadEnd (some rom)) s = .next t ∧
      t = { s with loading := false, defaulted := false, boardTag := t.boardTag, total := total,
                   free := List.range total, stations := t.stations } ∧
      (∀ n, t.station n = { s.station n with dotCount := dots n }) ∧
      t.boardTag = rom.getD 13 0 ++ rom.getD 12 0 ++ rom.getD 11 0 ++ rom.getD 10 0) ∧
  (∀ (s : State) (rom : Option (List Byte)),
    s.loading = true → (∀ b, rom = some b → b.length = 16) →
    (∀ b, rom = some b →
      2 < (b.getD 0 0).toNat ∨
      (∃ n : StationNo, dotCountOk ((b.getD (2 + 2 * n.toNat) 0).toNat
        + 256 * (b.getD (3 + 2 * n.toNat) 0).toNat) = false) ∨
      ((b.take 14).map fun x => x.toNat).sum % 65536
        ≠ (b.getD 14 0).toNat + 256 * (b.getD 15 0).toNat) →
    ∃ t, exec (.configRomLoadEnd rom) s = .next t ∧
      t = { s with loading := false, defaulted := true, boardTag := 0, total := 2048,
                   free := List.range 2048, stations := t.stations, eventStatus := t.eventStatus } ∧
      (∀ n, t.station n = { s.station n with dotCount := 832 }) ∧
      ∀ e : Cause, t.raised e = (s.raised e || e == .configDefaulted)) ∧
  (∀ d : Nat, dotCountOk d = true ↔ d = 0 ∨ (64 ≤ d ∧ d ≤ 1024 ∧ d % 8 = 0))

/-- ENGINE_RESET with bit 0 written, the ROM being loaded, leaves the channels, the BMA, the stations, the
Composer and the DCU as R104, R162 and R191 give, clears every cause, and keeps the card, the settings and
record memory; while the ROM loads, or without bit 0, nothing changes. -/
def Obligations.EngineResetLeaves : Prop :=
  (∀ (s : State) (w : Word), w.getLsbD 0 = true → s.loading = false →
    ∃ t, exec (.engineReset w) s = .next t ∧ t.eventStatus = 0 ∧ t.bus = none ∧
      t.transfer = none ∧ t.pointer = .station .s0 ∧ t.composer = none ∧ t.check = none ∧
      (∀ n, t.checkPending.get n = false) ∧
      (∀ c, t.chan c = { Channel.initial with
        base := (s.chan c).base, size := (s.chan c).size, stopCause := .reset,
        written := (s.chan c).written }) ∧
      (∀ n, t.station n = { Station.initial with
        dotCount := (s.station n).dotCount, lastCode := (s.station n).lastCode,
        lastResult := (s.station n).lastResult, mediaPresent := (s.station n).mediaPresent,
        mediaLatch := (s.station n).mediaPresent, headOpen := (s.station n).headOpen,
        triggerHigh := (s.station n).triggerHigh, map := (s.station n).map,
        summary := (s.station n).summary }) ∧
      s.SameCard t ∧ s.SameEngine t ∧ t.clock = s.clock ∧ t.pending = s.pending ∧ s.SameMemory t) ∧
  (∀ (s : State) (w : Word), (w.getLsbD 0 = false ∨ s.loading = true) →
    exec (.engineReset w) s = .next s)

/-- ENGINE_RESET on the records: what was ACTIVE stays with its current body and no pins, all else is FREE
without bodies; referrers are recounted from the reference lists of the current bodies of ACTIVE FORM records, one
for each list that holds the handle; the free list holds, in ascending
order, every block that no remaining body holds. -/
def Obligations.EngineResetRecords : Prop :=
  (∀ (s : State) (w : Word), w.getLsbD 0 = true → s.loading = false → s.canonical = true →
    ∃ t, exec (.engineReset w) s = .next t ∧
      (∀ h, (t.record h).prior = none ∧ (t.record h).loading = none ∧
        ((s.record h).state = .active →
          (t.record h).state = .active ∧ (t.record h).kind = (s.record h).kind ∧
          (t.record h).version = (s.record h).version ∧ (t.record h).tag = (s.record h).tag ∧
          (t.record h).current = (s.record h).current.map fun b => { b with pins := 0 }) ∧
        ((s.record h).state ≠ .active →
          (t.record h).state = .free ∧ (t.record h).kind = none ∧ (t.record h).version = 0 ∧
          (t.record h).tag = List.replicate 8 0 ∧ (t.record h).current = none) ∧
        (t.record h).referrers = (formReferences t.table).count h) ∧
      t.free.Pairwise (fun a b => a < b) ∧
      (∀ b, b ∈ t.free ↔ b < s.total ∧
        ∀ h body, (t.record h).current = some body → b ∉ body.blocks)) ∧
  (∀ (table : List (Nat × Record)) (h : Nat), (formReferences table).count h =
    (table.map fun p => if p.2.state = .active ∧ p.2.kind = some .form then
      (p.2.current.elim [] fun b => b.refs).count h else 0).sum)

/-! ### The register window (R83, R86, R87, R95 to R98, R102, R193 to R204) -/

/-- Ring register writes are taken in STOPPED with no held index and no pending completion, and ignored
otherwise; reads return the values as they stand. That a size is read from bits 0..10 of the word and an index
from bits 0..9 is the model's reading (log 27). The settings of engine control are taken with bit 31 and ignored
without it. A write of the interval restarts the timer of every SUSPENDED channel, but for one with a STOP
pending, whose timer STOP has stopped, which is the model's choice (log 35); OFF stops every timer. The
registers that a read does not change show what their owners hold, field by field: engine control and status,
station configuration, board tag, clock, pool counts, and the state of each ring; a register that is not listed,
or that only takes writes, reads 0. -/
def Obligations.RegisterWrites : Prop :=
  (∀ (s : State) (c : Chan) (v : Word),
    (s.chan c).state = .stopped → (s.chan c).held = [] → (s.chan c).pendingCompletions = [] →
    exec (.ringBaseWrite c v) s = .next (s.updChan c fun ch =>
      { ch with base := v &&& 0xFFFFFFC0#32, fetchIndex := 0 }) ∧
    (v &&& 0xFFFFFFC0#32).toNat = v.toNat - v.toNat % 64 ∧
    exec (.ringSizeWrite c v) s = .next (
      if 16 ≤ v.toNat % 2048 ∧ v.toNat % 2048 ≤ 1024 then
        s.updChan c fun ch => { ch with size := v.toNat % 2048, fetchIndex := 0 }
      else s) ∧
    exec (.ringFetchIndexWrite c v) s = .next (
      if v.toNat % 1024 < (s.chan c).size then
        s.updChan c fun ch => { ch with fetchIndex := v.toNat % 1024 }
      else s)) ∧
  (∀ (s : State) (c : Chan) (v : Word),
    ((s.chan c).state ≠ .stopped ∨ (s.chan c).held ≠ [] ∨ (s.chan c).pendingCompletions ≠ []) →
    exec (.ringBaseWrite c v) s = .next s ∧ exec (.ringSizeWrite c v) s = .next s ∧
    exec (.ringFetchIndexWrite c v) s = .next s) ∧
  (∀ (s : State) (c : Chan),
    s.readRegister (0x40 + 16 * c.toNat) = (s.chan c).base ∧
    s.readRegister (0x44 + 16 * c.toNat) = BitVec.ofNat 32 (s.chan c).size ∧
    s.readRegister (0x48 + 16 * c.toNat) = BitVec.ofNat 32 (s.chan c).fetchIndex) ∧
  (∀ (s : State) (w : Word), w.getLsbD 31 = true →
    exec (.setArbiterMode w) s = .next
      { s with arbiter := if w.getLsbD 20 then .rotate else .labelsFirst } ∧
    ∃ t, exec (.setAutoPollInterval w) s = .next t ∧
      t = { s with autoPoll := w.extractLsb' 24 3, control := t.control, rings := t.rings } ∧
      ∀ c, t.chan c = { s.chan c with
        autoPollTimer :=
          if w.extractLsb' 24 3 ≠ 0 ∧ (s.chan c).state = .suspended ∧
              (s.chan c).stopPending = false then some s.clock
          else none }) ∧
  (∀ (s : State) (w : Word), w.getLsbD 31 = false →
    exec (.setArbiterMode w) s = .next s ∧ exec (.setAutoPollInterval w) s = .next s) ∧
  (∀ (s : State) (w : Word), s.readRegister 0x00 = w →
    w.getLsbD 20 = decide (s.arbiter = .rotate) ∧ w.extractLsb' 24 3 = s.autoPoll ∧
    ∀ i, i ≠ 20 → (i < 24 ∨ 26 < i) → w.getLsbD i = false) ∧
  (∀ (s : State) (w : Word), s.readRegister 0x04 = w →
    w.getLsbD 0 = s.loading ∧ w.getLsbD 1 = s.defaulted ∧
    (∀ n : StationNo, w.getLsbD (4 + n.toNat) = s.checkPending.get n) ∧
    w.getLsbD 8 = s.check.isSome ∧
    (w.extractLsb' 9 2).toNat = (s.check.elim 0 fun c => c.station.toNat) ∧
    ∀ i, (i = 2 ∨ i = 3 ∨ 10 < i) → w.getLsbD i = false) ∧
  (∀ s : State, ((∀ m, (s.station m).dotCount ≤ 1024) → ∀ n : StationNo,
      ((s.readRegister 0x08).extractLsb' (8 * n.toNat) 8).toNat = (s.station n).dotCount / 8) ∧
    s.readRegister 0x0C = s.boardTag ∧ s.readRegister 0x10 = s.clock ∧
    s.readRegister 0x14 = BitVec.ofNat 32 s.free.length ∧
    s.readRegister 0x18 = BitVec.ofNat 32 s.total) ∧
  (∀ (s : State) (c : Chan) (w : Word), (s.chan c).held.length ≤ 8 →
    (s.chan c).pendingCompletions.length ≤ 8 → s.readRegister (0x4C + 16 * c.toNat) = w →
    (w.extractLsb' 0 2).toNat = (match (s.chan c).state with
      | .stopped => 0
      | .running => 1
      | .suspended => 2
      | .full => 3) ∧
    (w.extractLsb' 4 3).toNat = (match (s.chan c).stopCause with
      | .none => 0
      | .host => 1
      | .busError => 2
      | .reset => 3
      | .noRing => 4) ∧
    w.getLsbD 8 = (s.chan c).stopPending ∧ w.getLsbD 9 = (s.chan c).hand.isSome ∧
    (w.extractLsb' 12 4).toNat = (s.chan c).held.length ∧
    (w.extractLsb' 16 4).toNat = (s.chan c).pendingCompletions.length ∧
    ∀ i, (i ∈ [2, 3, 7, 10, 11] ∨ 19 < i) → w.getLsbD i = false) ∧
  (∀ s : State, s.readRegister 0x1C = 0 ∧
    (∀ n : StationNo, s.readRegister (0xA0 + 16 * n.toNat) = 0 ∧
      s.readRegister (0xAC + 16 * n.toNat) = 0) ∧
    ∀ o, ((0x30 ≤ o ∧ o < 0x40) ∨ (0x90 ≤ o ∧ o < 0xA0) ∨ 0xE0 ≤ o) → s.readRegister o = 0)

/-- START of a ring, for each row of R95 and the same-write rules of R96 and R194. The base, the size and
the fetch index are not changed. The conditions of FULL are 8 contexts in the queue and a held fetch index (R94). -/
def Obligations.RingStart : Prop :=
  (∀ (s : State) (c : Chan) (w : Word),
    w.getLsbD (4 + c.toNat) = true → w.getLsbD (12 + c.toNat) = false → w.getLsbD 0 = false →
    s.loading = false → (s.chan c).state = .stopped → (s.chan c).size ≠ 0 →
    exec (.ringStart c w) s = .next (s.updChan c fun ch =>
      { ch with state := .running, stopCause := .none }).settleBus ∧
    ∃ t, exec (.ringStart c w) s = .next t ∧ (t.chan c).stopCause = .none ∧
      (t.chan c).base = (s.chan c).base ∧ (t.chan c).size = (s.chan c).size ∧
      (t.chan c).fetchIndex = (s.chan c).fetchIndex ∧ (t.chan c).held = (s.chan c).held ∧
      (t.chan c).state = (if (s.chan c).xfer = none ∧ (s.chan c).hand = none ∧
          (s.chan c).pendingCompletions = [] ∧ s.fullCondition c = true then .full else .running) ∧
      ((s.chan c).xfer = none → (s.chan c).hand = none → (s.chan c).pendingCompletions = [] →
        (t.chan c).xfer = if s.fullCondition c then none else some .fetch) ∧
      s.SameRecords t ∧ s.SameLanes t ∧ s.SameEvents t) ∧
  (∀ (s : State) (c : Chan) (w : Word),
    w.getLsbD (4 + c.toNat) = true → w.getLsbD (12 + c.toNat) = false → w.getLsbD 0 = false →
    s.loading = false → (s.chan c).state = .stopped → (s.chan c).size = 0 →
    exec (.ringStart c w) s = .next (s.updChan c fun ch => { ch with stopCause := .noRing })) ∧
  (∀ (s : State) (c : Chan) (w : Word),
    (s.loading = true ∨ (s.chan c).state ≠ .stopped ∨ w.getLsbD (12 + c.toNat) = true ∨
      w.getLsbD 0 = true ∨ w.getLsbD (4 + c.toNat) = false) →
    exec (.ringStart c w) s = .next s) ∧
  (∀ s : State, s.fullCondition .control = false ∧ ∀ n : StationNo,
    (s.fullCondition (.station n) = true ↔ 8 ≤ (s.station n).queue.length ∨
      (s.chan (.station n)).fetchIndex ∈ (s.chan (.station n)).held))

/-- STOP of a ring, for each row of R97 and R98. The labels queued, the held set and the pending
completions are not touched. A load aborted at once gives its blocks to the back of the free list, and the record is
FREE where it was LOADING and stays as it was, without its loading body, where it was under an AMEND. That a
fetch requested and not yet granted is in flight, and that a body burst not yet granted is withdrawn, is the model's
choice (log 8), and so is that stop pending shows set while a STOP waits for a fetch (log 34). -/
def Obligations.RingStop : Prop :=
  ∀ (s : State) (c : Chan) (w : Word),
    w.getLsbD (12 + c.toNat) = true → (w.getLsbD 0 = false ∨ s.loading = true) →
    ((s.chan c).state = .stopped → exec (.ringStop c w) s = .next s) ∧
    (((s.chan c).state = .full ∨
        ((s.chan c).state = .suspended ∧ (s.chan c).xfer ≠ some .fetch) ∨
        ((s.chan c).state = .running ∧ (s.chan c).hand = none ∧ (s.chan c).xfer ≠ some .fetch)) →
      exec (.ringStop c w) s = .next (s.updChan c fun ch =>
        { ch with state := .stopped, stopCause := .host, stopPending := false,
                  autoPollTimer := none, refetchDue := false, failing := false })) ∧
    ((s.chan c).xfer = some .fetch →
      ((s.chan c).state = .suspended ∨ ((s.chan c).state = .running ∧ (s.chan c).hand = none)) →
      exec (.ringStop c w) s = .next (s.updChan c fun ch =>
        { ch with stopPending := true, autoPollTimer := none })) ∧
    (∀ d i work, (s.chan c).state = .running → (s.chan c).hand = some ⟨d, i, work⟩ →
      (c ≠ .control ∨ ∀ k, work ≠ .load k false) →
      exec (.ringStop c w) s = .next (s.updChan c fun ch => { ch with stopPending := true })) ∧
    (∀ d i k, c = .control → s.control.state = .running →
      s.control.hand = some ⟨d, i, .load k false⟩ → s.canonical = true →
      ∃ t, exec (.ringStop c w) s = .next t ∧ t.control.stopPending = true ∧ s.SameLanes t ∧
        s.SameEvents t ∧ s.SameMemory t ∧
        (s.inTransfer .control .burst = true →
          t.control.hand = some ⟨d, i, .load k true⟩ ∧ s.SameRecords t) ∧
        (s.inTransfer .control .burst = false →
          t.answersRecord .aborted (ctlHandle d) noFields ∧ s.SameRecordsBut t (ctlHandle d) ∧
          t.free = s.free ++ ((s.record (ctlHandle d)).loading.elim [] fun b => b.blocks) ∧
          t.record (ctlHandle d) = (if (s.record (ctlHandle d)).state = .loading then Record.empty
            else { s.record (ctlHandle d) with loading := none })))

/-- A poll demand at each channel it names, by the table of R86, between events; a channel that is not named
stays as it is, and no event cause changes. That a refetch requested and not yet granted is in flight, so that
the latch alone is set, is the model's choice (log 8). AUTO_POLL_EXPIRY: a SUSPENDED channel whose timer runs
asks for a refetch at the same index and stays SUSPENDED; without a timer, an interval or that state nothing
happens, which is the model's reading (log 3). The interval codes 0 to 7 are OFF, 1, 2, 5, 10, 20, 50 and 100 ms.
That the clock, where it still stands before the time of an expiry, comes to that time and nothing else changes
with it is the model's choice (log 2), here and wherever a statement names reachTime. -/
def Obligations.PollDemandAndAutoPoll : Prop :=
  (∀ (s : State) (w : Word), s.busQuiet = true →
    ∃ t, exec (.pollDemand w) s = .next t ∧ s.SameEvents t ∧ s.SameRecords t ∧ s.SameLanes t ∧
      ∀ c, (w.getLsbD c.toNat = false → t.chan c = s.chan c) ∧
        (w.getLsbD c.toNat = true →
          ((s.chan c).state = .stopped ∨ (s.chan c).state = .full → t.chan c = s.chan c) ∧
          ((s.chan c).state = .running → t.chan c = { s.chan c with pollLatch := true }) ∧
          ((s.chan c).state = .suspended → (s.chan c).xfer = some .fetch →
            t.chan c = { s.chan c with pollLatch := true }) ∧
          ((s.chan c).state = .suspended → (s.chan c).xfer ≠ none →
            (s.chan c).xfer ≠ some .fetch →
            t.chan c = { s.chan c with
              state := .running, autoPollTimer := none, refetchDue := false }) ∧
          ((s.chan c).state = .suspended → (s.chan c).xfer = none → (s.chan c).hand = none →
            (t.chan c).autoPollTimer = none ∧ (t.chan c).fetchIndex = (s.chan c).fetchIndex ∧
            (t.chan c).state = (if s.fullCondition c then .full else .running) ∧
            (t.chan c).xfer = if s.fullCondition c then none else some .fetch))) ∧
  (∀ (s : State) (c : Chan) (t0 : Word) (ms : Nat),
    (s.chan c).autoPollTimer = some t0 → autoPollMs s.autoPoll = some ms →
    (s.chan c).state = .suspended → (s.chan c).xfer = none → (s.chan c).hand = none →
    (s.chan c).pendingCompletions = [] →
    ∃ t, exec (.autoPollExpiry c) s = .next t ∧
      t.chan c = { s.chan c with
        autoPollTimer := none, refetchDue := false, pollLatch := false, xfer := some .fetch } ∧
      s.SameLanes t ∧ s.SameRecords t ∧ t.eventStatus = s.eventStatus ∧
      t.clock = (s.reachTime (t0 + BitVec.ofNat 32 ms)).clock) ∧
  (∀ (s : State) (c : Chan),
    ((s.chan c).autoPollTimer = none ∨ s.autoPoll = 0 ∨ (s.chan c).state ≠ .suspended) →
    exec (.autoPollExpiry c) s = .next s) ∧
  [0, 1, 2, 3, 4, 5, 6, 7].map autoPollMs
    = [none, some 1, some 2, some 5, some 10, some 20, some 50, some 100] ∧
  (∀ (s : State) (time : Word),
    ((s.clock - time).toNat < 2 ^ 31 → s.reachTime time = s) ∧
    (2 ^ 31 ≤ (s.clock - time).toNat → s.reachTime time = { s with clock := time }))

/-- The grant of the bus master by its two modes, the pointer after it, and the transfer that goes out: a fetch
reads 64 bytes at base + 64 x index, burst k of a load up to 256 bytes at body address + 256 k, a profile read 64
bytes at its address, data transfer k up to 256 bytes at data address + 256 k, and a completion write its fields
and the owner field at the descriptor's completion area, from byte 32 of a control descriptor and byte 17 of a
label descriptor on, told apart by the ring (log 23). Its end leaves the master free. That an address passes from
FFFFFFFFh to 0 is the model's choice (log 38). -/
def Obligations.BusGrant : Prop :=
  (∀ s : State, s.bus.isSome = true → s.grant = s) ∧
  (∀ s : State, (∀ c, s.waiting c = false) → s.grant = s) ∧
  (∀ (s : State) (c : Chan), s.bus = none → s.arbiter = .rotate → s.waiting c = true →
    (∀ d, s.waiting d = true → circleDistance s.pointer c ≤ circleDistance s.pointer d) →
    s.grant = { s with
      bus := some c, pointer := c.next, transfer := (s.chan c).hostTransfer? c }) ∧
  (∀ (s : State) (n : StationNo), s.bus = none → s.arbiter = .labelsFirst →
    s.waiting (.station n) = true →
    (∀ m : StationNo, s.waiting (.station m) = true →
      circleDistance s.pointer (.station n) ≤ circleDistance s.pointer (.station m)) →
    s.grant = { s with
      bus := some (.station n), pointer := (Chan.station n).next,
      transfer := (s.chan (.station n)).hostTransfer? (.station n) }) ∧
  (∀ s : State, s.bus = none → s.arbiter = .labelsFirst → s.waiting .control = true →
    (∀ m : StationNo, s.waiting (.station m) = false) →
    s.grant = { s with
      bus := some .control, transfer := s.control.hostTransfer? .control }) ∧
  (∀ (ch : Channel) (c : Chan),
    (ch.xfer = some .fetch → ch.hostTransfer? c
      = some ⟨(ch.base.toNat + 64 * ch.fetchIndex) % 2 ^ 32, 64, false⟩) ∧
    (∀ d i k a, ch.xfer = some .burst → ch.hand = some ⟨d, i, .load k a⟩ → ch.hostTransfer? c
      = some ⟨(ctlAddress d + 256 * k) % 2 ^ 32, min 256 (ctlLength d - 256 * k), false⟩) ∧
    (∀ d i, ch.xfer = some .profile → ch.hand = some ⟨d, i, .profile⟩ →
      ch.hostTransfer? c = some ⟨ctlAddress d, 64, false⟩) ∧
    (∀ d i k, ch.xfer = some .data → ch.hand = some ⟨d, i, .data k⟩ → ch.hostTransfer? c
      = some ⟨(labelDataAddress d + 256 * k) % 2 ^ 32, min 256 (labelDataLength d - 256 * k),
          false⟩) ∧
    (∀ d i b, ch.xfer = some .handCompletion → ch.hand = some ⟨d, i, .complete b⟩ →
      ch.hostTransfer? c
        = some ⟨(ch.base.toNat + (64 * i + completionStart c)) % 2 ^ 32, b.length + 1, true⟩) ∧
    (∀ p ps, ch.xfer = some .pendingCompletion → ch.pendingCompletions = p :: ps →
      ch.hostTransfer? c
        = some ⟨(ch.base.toNat + (64 * p.index + completionStart c)) % 2 ^ 32,
            p.bytes.length + 1, true⟩)) ∧
  (∀ (s : State) (c : Chan), (s.endTransfer c).bus = none ∧ (s.endTransfer c).transfer = none ∧
    ((s.endTransfer c).chan c).xfer = none ∧ s.SameChannelsBut (s.endTransfer c) c) ∧
  (∀ (s : State) (c : Chan), s.waiting c = true ↔ (s.chan c).xfer ≠ none) ∧
  completionStart .control = 32 ∧ ∀ n : StationNo, completionStart (.station n) = 17

/-- Raising, clearing and enabling event causes: a raise sets its own bit and no other; a write to the status
register clears the bits written 1 and leaves the others; a write to the enable register replaces bits 0..28;
reads return both as they stand; the interrupt line is asserted while some cause has both its bits set. Each
cause has its own bit of the 29. -/
def Obligations.EventCauses : Prop :=
  (∀ (s : State) (e f : Cause), (s.raise e).raised f = (f == e || s.raised f)) ∧
  (∀ (s : State) (e : Cause), s.raised e = s.eventStatus.getLsbD (match e with
    | .controlDone => 0
    | .stationDone n => 1 + n.toNat
    | .ringSuspended .control => 5
    | .ringSuspended (.station n) => 6 + n.toNat
    | .ringError => 10
    | .stationFault n => 11 + n.toNat
    | .cartonMissed n => 15 + n.toNat
    | .therm n => 19 + n.toNat
    | .dotcheckDone n => 23 + n.toNat
    | .recordFreed => 27
    | .configDefaulted => 28)) ∧
  (∀ (s : State) (v : Word), ∃ t, exec (.eventStatusClear v) s = .next t ∧
    t = { s with eventStatus := t.eventStatus } ∧
    ∀ i : Nat, i < 29 → t.eventStatus.getLsbD i = (s.eventStatus.getLsbD i && !v.getLsbD i)) ∧
  (∀ s : State, s.readRegister 0x20 = s.eventStatus.setWidth 32) ∧
  (∀ (s : State) (v : Word),
    exec (.eventEnableWrite v) s = .next { s with eventEnable := v.extractLsb' 0 29 }) ∧
  (∀ s : State, s.readRegister 0x24 = s.eventEnable.setWidth 32) ∧
  (∀ s : State, s.interruptLine = true ↔
    ∃ i : Nat, i < 29 ∧ s.eventStatus.getLsbD i = true ∧ s.eventEnable.getLsbD i = true)

/-- The inspection window: the address takes the five fields of a write; a read of the data register gives the
four bytes at the address and in POST_INCREMENT moves it by 4, over the end of a block to the next and over the
end of the area to block 0; it changes nothing else. In the map area of a loaded card element e stands at map
byte 2 e with its class and then its reading, FFh and 0 from the dot count on; block 8 holds the failed count
and the list of the last summary, and every other byte is 0. That a map block from 9 on passes to the next,
8191 to 0, is the model's choice (log 37). A read of the address register gives the fields as they stand, and a
read of fewer than four bytes the addressed bytes. -/
def Obligations.InspectionWindow : Prop :=
  (∀ (s : State) (v : Word),
    exec (.inspectionAddressWrite v) s = .next { s with inspect :=
      { offset := v.extractLsb' 0 8 &&& 0xFC#8, block := v.extractLsb' 8 13,
        mapArea := v.getLsbD 24, mapStation := v.extractLsb' 25 2,
        postIncrement := v.getLsbD 28 } }) ∧
  (∀ s : State, s.inspect.mapArea = false →
    exec (.inspectionDataRead 15) s = .next { s with
      readData :=
        if s.loading = true ∨ s.total ≤ s.inspect.block.toNat then 0
        else
          let a := 256 * s.inspect.block.toNat + s.inspect.offset.toNat
          s.readByte (a + 3) ++ s.readByte (a + 2) ++ s.readByte (a + 1) ++ s.readByte a,
      inspect := s.inspect.afterRead }) ∧
  (∀ (s : State) (n : StationNo), s.inspect.mapArea = true →
    s.inspect.mapStation.toNat = n.toNat →
    exec (.inspectionDataRead 15) s = .next { s with
      readData :=
        let b := s.inspect.block.toNat
        let o := s.inspect.offset.toNat
        s.mapByte n b (o + 3) ++ s.mapByte n b (o + 2) ++ s.mapByte n b (o + 1) ++ s.mapByte n b o,
      inspect := s.inspect.afterRead }) ∧
  (∀ (s : State) (n : StationNo) (e : Nat), s.loading = false → e < 1024 →
    (e < (s.station n).dotCount →
      s.mapByte n (e / 128) (2 * (e % 128)) = (match ((s.station n).map.getD e (.good, 0)).1 with
        | .good => 0
        | .open => 1
        | .short => 2) ∧
      s.mapByte n (e / 128) (2 * (e % 128) + 1) = ((s.station n).map.getD e (.good, 0)).2) ∧
    ((s.station n).dotCount ≤ e →
      s.mapByte n (e / 128) (2 * (e % 128)) = 0xFF ∧
      s.mapByte n (e / 128) (2 * (e % 128) + 1) = 0)) ∧
  (∀ (s : State) (n : StationNo),
    s.mapByte n 8 0 = byte (s.station n).summary.count ∧
    s.mapByte n 8 1 = byte ((s.station n).summary.count / 256) ∧
    (∀ j d, (s.station n).summary.dots[j]? = some d →
      s.mapByte n 8 (2 + 3 * j) = d.reading ∧ s.mapByte n 8 (3 + 3 * j) = byte d.element ∧
      s.mapByte n 8 (4 + 3 * j) = byte (d.element / 256 % 4 + 16 * d.cls.code)) ∧
    (∀ o, 2 + 3 * (s.station n).summary.dots.length ≤ o → s.mapByte n 8 o = 0) ∧
    (∀ b o, 8 < b → s.mapByte n b o = 0)) ∧
  (∀ (s : State) (l : BitVec 4), l ≠ 0 →
    exec (.inspectionDataRead l) s = .next { s with
      readData := s.inspectData &&& laneMask l, inspect := s.inspect.afterRead }) ∧
  (∀ (s : State) (w : Word), s.readRegister 0x28 = w →
    w.extractLsb' 0 8 = s.inspect.offset ∧ w.extractLsb' 8 13 = s.inspect.block ∧
    w.getLsbD 24 = s.inspect.mapArea ∧ w.extractLsb' 25 2 = s.inspect.mapStation ∧
    w.getLsbD 28 = s.inspect.postIncrement ∧
    ∀ i, (i ∈ [21, 22, 23, 27] ∨ 28 < i) → w.getLsbD i = false) ∧
  (∀ (w : Word) (l : BitVec 4) (i : Nat),
    (w &&& laneMask l).getLsbD i = (w.getLsbD i && l.getLsbD (i / 8))) ∧
  (∀ i : InspectAddress, i.postIncrement = false → i.afterRead = i) ∧
  (∀ i : InspectAddress, i.postIncrement = true → i.offset ≠ 252 →
    i.afterRead = { i with offset := i.offset + 4 }) ∧
  (∀ i : InspectAddress, i.postIncrement = true → i.offset = 252 →
    i.afterRead = { i with
      offset := 0,
      block := if (i.mapArea = true ∧ i.block = 8) ∨ (i.mapArea = false ∧ i.block = 8191) then 0
        else i.block + 1 })

/-- The media latch: a read of status A returns it in bit 19 and then sets it to the level of the input; a
fall of the input clears it, and the input's return leaves it. A write that the window ignores changes
nothing. That the return of the input is MEDIA_PRESENT_FALL's other operand is the model's choice (log 7), and
that a fall in CALIBRATING changes input and latch alone is its reading (log 29).
A change of TRIGGER: to the active level it starts the filter timer, or with filter 0 is the arrival itself in
the same event (log 30), which joins the trigger queue or is the overrun of the fifth; away from it it stops the
timer; in STREAM mode, in OFFLINE and without a profile the input is not watched. A change to the level that
stands does nothing, which is the model's reading (log 3).
Status A and status B show the station's items field by field; of a station that is not fitted only the last
command's code and result are not 0, bits 19 and 23 included, which is the model's reading (log 15). -/
def Obligations.LaneInputs : Prop :=
  (∀ (s : State) (n : StationNo) (l : BitVec 4), l ≠ 0 →
    exec (.statusARead n l) s = .next ({ s with readData := s.statusA n &&& laneMask l }.updStation n
      fun t => { t with mediaLatch := t.mediaPresent })) ∧
  (∀ (s : State) (n : StationNo), s.loading = false → (s.station n).fitted = true →
    (s.station n).queue.length ≤ 15 → (s.station n).triggers.length ≤ 4 →
    (s.statusA n).getLsbD 19 = (s.station n).mediaLatch) ∧
  (∀ (s : State) (n : StationNo), s.readRegister (0xA4 + 16 * n.toNat) = s.statusA n ∧
    s.readRegister (0xA8 + 16 * n.toNat) = s.statusB n) ∧
  (∀ (s : State) (n : StationNo) (t : Station) (w : Word), s.station n = t → s.statusA n = w →
    (s.loading = true ∨ t.dotCount ≠ 0) → t.queue.length ≤ 8 → t.triggers.length ≤ 4 →
    (w.extractLsb' 0 4).toNat = (match t.state with
      | .offline => 0
      | .parked => 1
      | .waking => 2
      | .idle => 3
      | .printing => 4
      | .presenting => 5
      | .ejecting => 6
      | .checking => 7
      | .calibrating => 8
      | .held => 9
      | .fault => 10) ∧
    (w.extractLsb' 4 3).toNat = (match t.faultCause with
      | .none => 0
      | .headOpen => 1
      | .mediaFault => 2
      | .applyTimeout => 3
      | .overrun => 4) ∧
    (w.extractLsb' 7 3).toNat = (match t.wakeCause with
      | .none => 0
      | .label => 1
      | .trigger => 2
      | .command => 3
      | .check => 4) ∧
    w.getLsbD 10 = t.power ∧ w.getLsbD 11 = t.holdPending ∧
    (w.extractLsb' 12 4).toNat = t.queue.length ∧
    (w.extractLsb' 16 3).toNat = t.triggers.length ∧ w.getLsbD 19 = t.mediaLatch ∧
    (w.extractLsb' 20 2).toNat = (match t.thermal.band with
      | .normal => 0
      | .warm => 1
      | .cold => 2) ∧
    w.getLsbD 22 = t.thermal.hotHold ∧ w.getLsbD 23 = t.headOpen ∧
    ∀ i, 23 < i → w.getLsbD i = false) ∧
  (∀ (s : State) (n : StationNo) (t : Station) (w : Word), s.station n = t → s.statusB n = w →
    (s.loading = true ∨ t.dotCount ≠ 0) → t.summary.count ≤ 1024 →
    (∀ k l, (k = 0 ∧ l = t.thermal.limA) ∨ (k = 4 ∧ l = t.thermal.limB) →
      w.getLsbD k = l.valid ∧ w.getLsbD (k + 1) = l.crossed ∧
      w.getLsbD (k + 2) = l.verdictValid ∧ w.getLsbD (k + 3) = l.frozen) ∧
    (w.extractLsb' 8 11).toNat = t.summary.count ∧ w.getLsbD 19 = false) ∧
  (∀ (s : State) (n : StationNo), s.loading = false → (s.station n).dotCount = 0 →
    s.statusA n = 0 ∧ (s.statusB n).extractLsb' 0 20 = 0) ∧
  (∀ (s : State) (n : StationNo) (w : Word), s.statusB n = w →
    (s.station n).summary.count ≤ 1024 →
    w.extractLsb' 20 4 = (s.station n).lastCode ∧
    (w.extractLsb' 24 4).toNat = (match (s.station n).lastResult with
      | .none => 0
      | .done => 1
      | .state => 2
      | .headOpen => 3
      | .noMedia => 4
      | .loading => 5
      | .noHead => 6
      | .badCode => 7) ∧
    ∀ i, 27 < i → w.getLsbD i = false) ∧
  (∀ (s : State) (n : StationNo), (s.station n).mediaPresent = true →
    (s.station n).feedsLabel = false →
    exec (.mediaPresentFall n false) s = .next (s.updStation n fun t =>
      { t with mediaPresent := false, mediaLatch := false })) ∧
  (∀ (s : State) (n : StationNo),
    exec (.mediaPresentFall n true) s = .next (s.updStation n fun t =>
      { t with mediaPresent := true })) ∧
  (∀ (s : State) (o : BitVec 8) (l : BitVec 4) (v : Word),
    (Instr.registerWriteIgnored o l v).wellFormed = true →
    exec (.registerWriteIgnored o l v) s = .next s) ∧
  (∀ (s : State) (n : StationNo) (high : Bool), (s.station n).triggerHigh = high →
    exec (.triggerLevelChange n high) s = .next s) ∧
  (∀ (s : State) (n : StationNo) (high : Bool), (s.station n).triggerHigh ≠ high →
    (((s.station n).state = .offline ∨ (s.station n).profile = none ∨
        (s.station n).mode? = some .stream) →
      exec (.triggerLevelChange n high) s = .next (s.updStation n fun t =>
        { t with triggerHigh := high })) ∧
    (∀ p, (s.station n).state ≠ .offline → (s.station n).profile = some p → p.mode = .apply →
      (high = p.activeLow →
        exec (.triggerLevelChange n high) s = .next (s.updStation n fun t =>
          { t with triggerHigh := high, filterTimer := none })) ∧
      (high ≠ p.activeLow → p.filter ≠ 0 →
        exec (.triggerLevelChange n high) s = .next (s.updStation n fun t =>
          { t with triggerHigh := high, filterTimer := some s.clock })) ∧
      (high ≠ p.activeLow → p.filter = 0 → ∃ t,
        exec (.triggerLevelChange n high) s = .next t ∧
        (t.station n).triggerHigh = high ∧
        (s.atRest = true → (s.station n).state ∈ [StationState.printing, .presenting, .ejecting,
            .checking, .calibrating, .waking] →
          (s.station n).eligible.length ≤ (s.station n).triggers.length →
          ((s.station n).triggers.length < 4 →
            t = s.updStation n fun u => { u with
              triggerHigh := high,
              triggers := u.triggers ++
                [⟨s.clock, s.clock + BitVec.ofNat 32 p.applyWindow, none⟩] }) ∧
          (4 ≤ (s.station n).triggers.length →
            (t.station n).state = .fault ∧ (t.station n).faultCause = .overrun ∧
            t.raised (.stationFault n) = true ∧ (t.station n).triggers = [])))))

/-! ### Station commands (R151 to R156) -/

/-- The refusals every station command meets before its own rule, and the code that names no command: the
code and the outcome are recorded and nothing else changes. WAKE and PARK by R156. -/
def Obligations.WakeParkAndRefusals : Prop :=
  (∀ (s : State) (n : StationNo) (c : Instr) (code : BitVec 4),
    (c, code) ∈ [(Instr.hold n, (1 : BitVec 4)), (.resume n, 2), (.flush n, 3), (.wake n, 4),
      (.park n, 5)] →
    (s.loading = true → exec c s = .next (s.updStation n fun t =>
      { t with lastCode := code, lastResult := .loading })) ∧
    (s.loading = false → (s.station n).dotCount = 0 → exec c s = .next (s.updStation n fun t =>
      { t with lastCode := code, lastResult := .noHead }))) ∧
  (∀ (s : State) (n : StationNo) (v : Word), (v.toNat % 16 = 0 ∨ 5 < v.toNat % 16) →
    exec (.stationCommandBadCode n v) s = .next (s.updStation n fun t =>
      { t with lastCode := BitVec.ofNat 4 v.toNat,
               lastResult := if s.loading then .loading
                 else if (s.station n).dotCount = 0 then .noHead else .badCode })) ∧
  (∀ (s : State) (n : StationNo), s.commandable n →
    ((s.station n).state = .parked →
      ∃ t, exec (.wake n) s = .next t ∧ (t.station n).state = .waking ∧
        (t.station n).wakeCause = .command ∧ (t.station n).power = true ∧
        (t.station n).wakeTimer = some s.clock ∧ (t.station n).lastCode = 4 ∧
        (t.station n).lastResult = .done) ∧
    ((s.station n).state = .waking →
      exec (.wake n) s = .next (s.updStation n fun t =>
        { t with lastCode := 4, lastResult := .done })) ∧
    ((s.station n).state ≠ .parked → (s.station n).state ≠ .waking →
      exec (.wake n) s = .next (s.updStation n fun t =>
        { t with lastCode := 4, lastResult := .state })) ∧
    ((s.station n).state = .idle → (s.station n).queue = [] →
      ∃ t, exec (.park n) s = .next t ∧ (t.station n).lastCode = 5 ∧
        (t.station n).lastResult = .done ∧
        (s.unasked n → (t.station n).state = .parked ∧ (t.station n).power = false ∧
          (t.station n).parkTimer = none ∧
          (t.station n).triggers = (s.station n).triggers)) ∧
    (((s.station n).state ≠ .idle ∨ (s.station n).queue ≠ []) →
      exec (.park n) s = .next (s.updStation n fun t =>
        { t with lastCode := 5, lastResult := .state })))

/-- HOLD by the table of R152. A check that a wake was for ends, the DCU falling IDLE: a commanded one answers
ABORTED and sets no request, an automatic request is set again; map, summary and DOTCHECK_DONE stay as they
were (R189). The pending entries are taken by skip-on-fault (R139): where the profile sets it, each finishes the
oldest label that has not started with SKIPPED, or marks it where that is COMPOSING; where it is clear, they are
dropped and no label is touched. -/
def Obligations.Hold : Prop :=
  ∀ (s : State) (n : StationNo), s.commandable n →
    ((s.station n).state ∈ [StationState.idle, .parked, .waking] →
      ∃ t, exec (.hold n) s = .next t ∧ (t.station n).state = .held ∧
        (t.station n).lastCode = 1 ∧ (t.station n).lastResult = .done ∧
        (t.station n).holdPending = false ∧ (t.station n).triggers = [] ∧
        (t.station n).power = ((s.station n).state == .idle && (s.station n).power) ∧
        (t.station n).wakeTimer = none ∧ (t.station n).checkDue = false ∧
        (∀ p, (s.station n).profile = some p →
          (p.skipOnFault = true →
            (∀ l ∈ (s.station n).queue, l.eligible = true ∧ l.state ≠ .composing) →
            (t.chan (.station n)).pendingCompletions = (s.chan (.station n)).pendingCompletions ++
              ((s.station n).queue.take (s.station n).triggers.length).map fun l =>
                ⟨l.index, l.completion .skipped⟩) ∧
          (p.skipOnFault = true → (s.station n).triggers ≠ [] →
            ∀ l rest, (s.station n).queue = l :: rest → l.eligible = true →
              l.state = .composing → s.composer.isSome = true →
              { l with mark := some .skipped } ∈ (t.station n).queue) ∧
          (p.skipOnFault = false →
            (t.chan (.station n)).pendingCompletions
              = (s.chan (.station n)).pendingCompletions ∧
            (s.composer.isSome = true → (t.station n).queue = (s.station n).queue)))) ∧
    (∀ c, (s.station n).state = .waking → s.check = some c → c.station = n →
      ∃ t, exec (.hold n) s = .next t ∧ (t.station n).state = .held ∧
        (∀ x, t.check = some x → x.station ≠ n) ∧
        ((∀ m, m ≠ n → s.unasked m) → t.check = none) ∧
        (t.station n).map = (s.station n).map ∧ (t.station n).summary = (s.station n).summary ∧
        t.raised (.dotcheckDone n) = s.raised (.dotcheckDone n) ∧
        (c.origin = .auto → t.checkPending.get n = true) ∧
        (c.origin = .command → t.checkPending.get n = s.checkPending.get n ∧
          ∀ d i, s.control.hand = some ⟨d, i, .busy⟩ → controlCode d = .dotcheck →
            t.answersAlone .aborted)) ∧
    ((s.station n).state ∈ [StationState.printing, .presenting, .ejecting, .calibrating] →
      exec (.hold n) s = .next (s.updStation n fun t =>
        { t with holdPending := true, lastCode := 1, lastResult := .done })) ∧
    ((s.station n).state = .held →
      exec (.hold n) s = .next (s.updStation n fun t =>
        { t with lastCode := 1, lastResult := .done })) ∧
    ((s.station n).state ∈ [StationState.offline, .fault, .checking] →
      exec (.hold n) s = .next (s.updStation n fun t =>
        { t with lastCode := 1, lastResult := .state }))

/-- RESUME by the list of R153. A station that comes to IDLE takes its start test in the same event: a READY
head whose form is within the pitch starts, in APPLY mode with the deadline of the oldest entry as its print
deadline; a READY head with a longer form finishes MEDIA_MISMATCH; a FAILED head finishes with its failure
status. -/
def Obligations.Resume : Prop :=
  ∀ (s : State) (n : StationNo), s.commandable n →
    (((s.station n).state = .held ∨ ((s.station n).state = .fault ∧
        (s.station n).headOpen = false ∧ (s.station n).mediaPresent = true)) →
      ((s.station n).power = false →
        ∃ t, exec (.resume n) s = .next t ∧ (t.station n).state = .waking ∧
          (t.station n).wakeCause = .command ∧ (t.station n).power = true ∧
          (t.station n).wakeTimer = some s.clock ∧ (t.station n).lastCode = 2 ∧
          (t.station n).lastResult = .done ∧
          (t.station n).faultCause = (s.station n).faultCause) ∧
      ((s.station n).power = true →
        ∃ t, exec (.resume n) s = .next t ∧ (t.station n).lastCode = 2 ∧
          (t.station n).lastResult = .done ∧
          ((s.station n).queue = [] → s.unasked n →
            (t.station n).state = .idle ∧ (t.station n).power = true ∧
            (t.station n).faultCause = (s.station n).faultCause) ∧
          (∀ p l rest, s.quiet = true → s.unasked n → (s.station n).profile = some p →
            (s.station n).queue = l :: rest → l.mark = none →
            (p.mode = .stream ∨ (s.station n).triggers ≠ []) →
            (l.state = .ready → s.labelLines l ≤ p.pitch →
              (s.station n).thermal.hotHold = false → (s.station n).mediaPresent = true →
              (if (s.station n).registered then (s.station n).sinceEdge else 0)
                < p.pitch + p.tolerance →
              (t.station n).state = .printing ∧
              (t.station n).triggers = (s.station n).triggers.drop 1 ∧
              (t.station n).printDeadline
                = (s.station n).triggers.head?.map fun e => e.deadline) ∧
            (l.state = .ready → p.pitch < s.labelLines l →
              ((s.chan (.station n)).pendingCompletions ++
                [⟨l.index, l.completion .mediaMismatch⟩])
                  <+: (t.chan (.station n)).pendingCompletions) ∧
            (∀ st, l.state = .failed → l.failure = some st →
              ((s.chan (.station n)).pendingCompletions ++ [⟨l.index, l.completion st⟩])
                <+: (t.chan (.station n)).pendingCompletions)))) ∧
    ((s.station n).state = .fault → (s.station n).headOpen = true →
      exec (.resume n) s = .next (s.updStation n fun t =>
        { t with lastCode := 2, lastResult := .headOpen })) ∧
    ((s.station n).state = .fault → (s.station n).headOpen = false →
      (s.station n).mediaPresent = false →
      exec (.resume n) s = .next (s.updStation n fun t =>
        { t with lastCode := 2, lastResult := .noMedia })) ∧
    ((s.station n).state ∈ [StationState.printing, .presenting, .ejecting, .calibrating] →
      exec (.resume n) s = .next (s.updStation n fun t =>
        { t with holdPending := false, lastCode := 2, lastResult := .done })) ∧
    ((s.station n).state ∈ [StationState.parked, .waking, .idle, .checking] →
      exec (.resume n) s = .next (s.updStation n fun t =>
        { t with lastCode := 2, lastResult := .done })) ∧
    ((s.station n).state = .offline →
      exec (.resume n) s = .next (s.updStation n fun t =>
        { t with lastCode := 2, lastResult := .state }))

/-- FLUSH by R154: refused in OFFLINE and CALIBRATING; otherwise the trigger queue is emptied and the labels
are abandoned from head to tail: those before the first COMPOSING one finish FLUSHED in order, and that one and
those behind it take the mark. A PRINTING station ejects, a PRESENTING one comes to rest, in HELD where a hold is
pending and in IDLE otherwise, and every other station keeps its state. -/
def Obligations.Flush : Prop :=
  (∀ (t : Station) (p : Profile), t.profile = some p → t.edgeLimit = p.pitch + p.tolerance) ∧
  ∀ (s : State) (n : StationNo), s.commandable n →
    ((s.station n).state ∈ [StationState.offline, .calibrating] →
      exec (.flush n) s = .next (s.updStation n fun t =>
        { t with lastCode := 3, lastResult := .state })) ∧
    ((s.station n).state ∉ [StationState.offline, .calibrating] →
      ∃ t, exec (.flush n) s = .next t ∧ (t.station n).lastCode = 3 ∧
        (t.station n).lastResult = .done ∧ (t.station n).triggers = [] ∧
        ((s.station n).state ∈ [StationState.waking, .ejecting, .checking, .held, .fault] →
          (t.station n).state = (s.station n).state ∧
          (t.station n).holdPending = (s.station n).holdPending) ∧
        ((s.station n).state ∈ [StationState.idle, .parked] → s.unasked n →
          (t.station n).state = (s.station n).state ∧
          (t.station n).power = (s.station n).power ∧
          (t.station n).holdPending = (s.station n).holdPending) ∧
        ((∀ l ∈ (s.station n).queue, l.mark = none ∧ l.state ≠ .composing) →
          (t.station n).queue = [] ∧
          (t.chan (.station n)).pendingCompletions = (s.chan (.station n)).pendingCompletions ++
            (s.station n).queue.map fun l => ⟨l.index, l.completion .flushed⟩) ∧
        (∀ pre l rest, (s.station n).queue = pre ++ l :: rest →
          (∀ x ∈ (s.station n).queue, x.mark = none) → (∀ x ∈ pre, x.state ≠ .composing) →
          l.state = .composing →
          (t.station n).queue = (l :: rest).map (fun x => { x with mark := some .flushed }) ∧
          (t.chan (.station n)).pendingCompletions = (s.chan (.station n)).pendingCompletions ++
            pre.map fun x => ⟨x.index, x.completion .flushed⟩) ∧
        ((s.station n).state = .printing → (s.station n).mediaPresent = true →
          (if (s.station n).registered then (s.station n).sinceEdge else 0)
            < (s.station n).edgeLimit →
          (t.station n).state = .ejecting ∧
          (t.station n).returnState
            = some (if (s.station n).holdPending then .held else .idle)) ∧
        ((s.station n).state = .presenting → (s.station n).holdPending = true →
          (t.station n).state = .held ∧ (t.station n).holdPending = false ∧
          (t.station n).labelOut = false ∧ (t.station n).applyTimer = none) ∧
        ((s.station n).state = .presenting → (s.station n).holdPending = false → s.unasked n →
          (t.station n).state = .idle ∧ (t.station n).holdPending = false ∧
          (t.station n).labelOut = false ∧ (t.station n).applyTimer = none))

/-! ### Record commands (R14 to R26) -/

/-- DEFINE as the Resource Table takes it: the first condition that holds refuses it and changes no record;
otherwise the blocks at the front of the free list make the loading body of a record at version 1, and RCH-C goes
on to the bursts. A refusal of a handle up to 1023 carries the handle and the record's version, which is the
model's reading (log 26), and BAD_BODY the index FFFFh. Stations, causes and record memory are not touched. -/
def Obligations.Define : Prop :=
  ∀ (s : State) (d : List Byte) (i : Nat), s.given d .define i →
    ∃ t, exec .define s = .next t ∧ s.SameLanes t ∧ s.SameEvents t ∧ s.SameMemory t ∧
      s.SameRecordsBut t (ctlHandle d) ∧
      (let h := ctlHandle d
      if 1023 < ctlHandle d then t.answers .badHandle ∧ s.SameRecords t
      else if ctlKind? d = none then t.answersRecord .badKind h noFields ∧ s.SameRecords t
      else if (s.record (ctlHandle d)).state ≠ .free then
        t.answersRecord .handleInUse h noFields ∧ s.SameRecords t
      else if ctlLength d < 1 ∨ 65536 < ctlLength d then
        t.answersRecord .badBody h (indexFields 0xFFFF) ∧ s.SameRecords t
      else if s.free.length < (ctlLength d + 255) / 256 then
        t.answersRecord .noSpace h noFields ∧ s.SameRecords t
      else
        t.record (ctlHandle d) =
          { state := .loading, kind := ctlKind? d, version := 1, tag := ctlTag d, current := none,
            prior := none,
            loading := some ⟨s.free.take ((ctlLength d + 255) / 256), ctlLength d, 0⟩,
            referrers := 0 } ∧
        t.free = s.free.drop ((ctlLength d + 255) / 256) ∧
        t.control.hand = some ⟨d, i, .load 0 false⟩)

/-- AMEND as the Resource Table takes it: the first condition that holds refuses it and changes no record;
otherwise the record takes a loading body and RCH-C goes on to the bursts. A refusal carries the handle and the
version that the table gives it, for a handle above 1023 too, which is the model's reading (log 26), and BAD_BODY
carries the index FFFFh. -/
def Obligations.Amend : Prop :=
  ∀ (s : State) (d : List Byte) (i : Nat), s.given d .amend i →
    ∃ t, exec .amend s = .next t ∧ s.SameLanes t ∧ s.SameEvents t ∧ s.SameMemory t ∧
      s.SameRecordsBut t (ctlHandle d) ∧
      (let h := ctlHandle d
      if 1023 < ctlHandle d then t.answersRecord .badHandle h noFields ∧ s.SameRecords t
      else if (s.record (ctlHandle d)).state ≠ .active then
        t.answersRecord .noRecord h noFields ∧ s.SameRecords t
      else if ctlKind? d = none ∨ ctlKind? d ≠ (s.record (ctlHandle d)).kind then
        t.answersRecord .kindMismatch h noFields ∧ s.SameRecords t
      else if ctlVersion d ≠ 0 ∧ ctlVersion d ≠ (s.record (ctlHandle d)).version then
        t.answersRecord .versionMismatch h noFields ∧ s.SameRecords t
      else if (s.record (ctlHandle d)).kind ≠ some .counter ∧
          (s.record (ctlHandle d)).prior ≠ none then t.answersRecord .priorInUse h noFields ∧ s.SameRecords t
      else if ctlLength d < 1 ∨ 65536 < ctlLength d then
        t.answersRecord .badBody h (indexFields 0xFFFF) ∧ s.SameRecords t
      else if s.free.length < (ctlLength d + 255) / 256 then
        t.answersRecord .noSpace h noFields ∧ s.SameRecords t
      else
        t.record (ctlHandle d) =
          { s.record (ctlHandle d) with
            loading := some ⟨s.free.take ((ctlLength d + 255) / 256), ctlLength d, 0⟩ } ∧
        t.free = s.free.drop ((ctlLength d + 255) / 256) ∧
        t.control.hand = some ⟨d, i, .load 0 false⟩)

/-- RETIRE: the first condition that holds refuses it; without pins the record becomes FREE in the event and its
blocks go to the back of the free list; with pins it becomes RETIRING. The completion carries the handle, the
record's version as it stands after the command, and with RETIRE_PENDING the current and prior pin counts; that a
refusal carries handle and version, for a handle above 1023 too, is the model's reading (log 26). That the current
body's blocks go before the prior body's is the model's choice (log 10). -/
def Obligations.Retire : Prop :=
  (∀ (s : State) (d : List Byte) (i : Nat), s.given d .retire i → s.canonical = true →
    ∃ t, exec .retire s = .next t ∧ s.SameLanes t ∧ s.SameEvents t ∧ s.SameMemory t ∧
      (let h := ctlHandle d
      if 1023 < ctlHandle d then t.answersRecord .badHandle h noFields ∧ s.SameRecords t
      else if (s.record (ctlHandle d)).state ≠ .active then
        t.answersRecord .noRecord h noFields ∧ s.SameRecords t
      else if (s.record (ctlHandle d)).loading ≠ none then
        t.answersRecord .busyLoading h noFields ∧ s.SameRecords t
      else if ctlVersion d ≠ 0 ∧ ctlVersion d ≠ (s.record (ctlHandle d)).version then
        t.answersRecord .versionMismatch h noFields ∧ s.SameRecords t
      else if 0 < (s.record (ctlHandle d)).referrers then
        t.answersRecord .referenced h noFields ∧ s.SameRecords t
      else if (s.record (ctlHandle d)).pins = 0 then
        t.answersRecord .ok h noFields ∧ t.record (ctlHandle d) = Record.empty ∧
        (∀ g, g ≠ ctlHandle d → ∀ b, (s.record (ctlHandle d)).current = some b →
          (s.record (ctlHandle d)).prior = none →
          t.record g = { s.record g with
            referrers := (s.record g).referrers - b.refs.count g }) ∧
        t.free = s.free ++ ((s.record (ctlHandle d)).current.elim [] fun b => b.blocks) ++
          ((s.record (ctlHandle d)).prior.elim [] fun b => b.blocks)
      else
        t.answersRecord .retirePending h (List.replicate 12 0 ++
          [byte (bodyPins (s.record h).current), byte (bodyPins (s.record h).prior)] ++
          List.replicate 11 0) ∧ s.SameRecordsBut t (ctlHandle d) ∧ t.free = s.free ∧
        t.record (ctlHandle d) = { s.record (ctlHandle d) with state := .retiring })) ∧
  (∀ r : Record, r.pins = bodyPins r.current + bodyPins r.prior) ∧
  (∀ b : Body, bodyPins (some b) = b.pins) ∧ bodyPins none = 0 ∧
  Record.empty = {
    state := .free, kind := none, version := 0, tag := [0, 0, 0, 0, 0, 0, 0, 0], current := none,
    prior := none, loading := none, referrers := 0 }

/-- QUERY changes nothing of the table and answers the record as it stands, FREE records included: its state,
handle, version, referrers, name tag, kind, flags (loading, prior present, exhausted), pins, prior version,
current body length and counter value. A handle above 1023 is answered BAD_HANDLE with the handle and the version
that the table gives it, which is the model's reading (log 26). The bytes are numbered from the first byte of the
completion area, descriptor byte 32. The state is coded FREE 0, LOADING 1, ACTIVE 2 and RETIRING 3, the kind FORM
1, FONT 2, SYMBOLOGY 3 and COUNTER 4, and no kind 0. -/
def Obligations.Query : Prop :=
  (∀ (s : State) (d : List Byte) (i : Nat), s.given d .query i →
    ∃ t, exec .query s = .next t ∧ s.SameLanes t ∧ s.SameEvents t ∧ s.SameRecords t ∧
      (if 1023 < ctlHandle d then t.answersRecord .badHandle (ctlHandle d) noFields
      else
        let r := s.record (ctlHandle d)
        t.answers .ok ∧ ∃ b, t.controlAnswer? = some b ∧ b.length = 31 ∧
          b.getD 1 0 = byte r.state.code ∧ le16 (listReader b) 2 = ctlHandle d ∧
          le16 (listReader b) 4 = r.version % 65536 ∧
          le16 (listReader b) 6 = r.referrers % 65536 ∧
          (r.tag.length = 8 →
            (b.drop 8).take 8 = r.tag ∧ b.getD 16 0 = byte (kindCode r.kind) ∧
            b.getD 17 0 = byte ((if r.loading.isSome then 1 else 0) +
              (if r.prior.isSome then 2 else 0) +
              (if r.kind = some .counter ∧ s.currentContent (ctlHandle d) 2 = 1 then 4 else 0)) ∧
            b.getD 18 0 = byte (bodyPins r.current) ∧ b.getD 19 0 = byte (bodyPins r.prior) ∧
            le16 (listReader b) 20 = (r.prior.elim 0 fun x => x.version) % 65536 ∧
            le24 (listReader b) 22 = (r.current.elim 0 fun x => x.length) % 2 ^ 24 ∧
            ∀ j, j < 6 → b.getD (25 + j) 0 =
              if r.kind = some .counter then byte (s.currentContent (ctlHandle d) (16 + j))
              else 0))) ∧
  [RecState.free, .loading, .active, .retiring].map RecState.code = [0, 1, 2, 3] ∧
  [none, some Kind.form, some .font, some .symbology, some .counter].map kindCode = [0, 1, 2, 3, 4] ∧
  (∀ n : Nat, (byte n).toNat = n % 256) ∧
  (∀ (b : List Byte) (i : Nat),
    le16 (listReader b) i = (b.getD i 0).toNat + 256 * (b.getD (i + 1) 0).toNat ∧
    le24 (listReader b) i = (b.getD i 0).toNat + 256 * (b.getD (i + 1) 0).toNat
      + 65536 * (b.getD (i + 2) 0).toNat)

/-! ### Commands of stations, monitors and the DCU (R132, R159, R174, R183) -/

/-- SET_PROFILE at the end of its profile read: refused by the first check that holds, with the station's profile
as it was, and by R131's items in their order, the first out of range giving its number; otherwise the profile is
taken whole, each item from its bytes, OFFLINE is left for IDLE or, with the head open, for FAULT, and a resting
station stays as it is, its park timer in IDLE starting from zero with the new park delay. Pending triggers are
dropped under STREAM, and stay with their deadlines under APPLY. -/
def Obligations.SetProfile : Prop :=
  (∀ (s : State) (d : List Byte) (i : Nat) (n : StationNo) (bytes : List Byte),
    s.control.hand = some ⟨d, i, .profile⟩ → ctlStation? d = some n →
    s.inTransfer .control .profile = true → bytes.length = 64 →
    ∃ t, exec (.setProfile bytes) s = .next t ∧
      (if (s.station n).dotCount = 0 then
        t.answersAlone .noHead ∧ (t.station n).profile = (s.station n).profile
      else if ¬((s.station n).state = .offline ∨ (s.station n).state = .held ∨
          (((s.station n).state = .idle ∨ (s.station n).state = .parked) ∧
            (s.station n).queue = [])) then
        t.answersAlone .stationBusy ∧ (t.station n).profile = (s.station n).profile
      else if (profileFault? (listReader bytes) (s.station n).dotCount).isSome then
        t.answersItem .badProfile
          ((profileFault? (listReader bytes) (s.station n).dotCount).getD 0) ∧
        (t.station n).profile = (s.station n).profile
      else
        t.answersAlone .ok ∧ (t.station n).profile = some (profileOf (listReader bytes)) ∧
        (t.station n).filterTimer = none ∧
        ((profileOf (listReader bytes)).mode = .stream → (t.station n).triggers = []) ∧
        ((profileOf (listReader bytes)).mode = .apply → (s.station n).state ≠ .offline →
          (s.quiet = true ∨ (s.station n).queue = []) →
          (t.station n).triggers = (s.station n).triggers) ∧
        ((s.station n).state = .held → (t.station n).state = .held) ∧
        (((s.station n).state = .idle ∨ (s.station n).state = .parked) → s.unasked n →
          (t.station n).state = (s.station n).state ∧
          (t.station n).parkTimer = (if (s.station n).state = .parked ∨
            (profileOf (listReader bytes)).parkDelay = 0 then none else some s.clock)) ∧
        ((s.station n).state = .offline → (s.station n).headOpen = true →
          (t.station n).state = .fault ∧ (t.station n).faultCause = .headOpen ∧
          (t.station n).power = true ∧ t.raised (.stationFault n) = true ∧
          (t.station n).registered = false ∧ (t.station n).aligned = false) ∧
        ((s.station n).state = .offline → (s.station n).headOpen = false →
          (s.station n).queue = [] → s.unasked n →
          (t.station n).state = .idle ∧ (t.station n).power = true ∧
          (t.station n).registered = false ∧ (t.station n).aligned = false))) ∧
  (∀ (rd : Reader) (dots : Nat), profileFault? rd dots =
    if 1 < rd 0 then some 1
    else if 1 < rd 1 then some 2
    else if rd 2 ∉ [0, 1, 2, 4, 8] then some 3
    else if le16 rd 4 < 50 ∨ 10000 < le16 rd 4 then some 4
    else if le16 rd 6 < 10 ∨ 5000 < le16 rd 6 then some 5
    else if 1 < rd 3 then some 6
    else if 255 < rd 8 then some 7
    else if le16 rd 10 < 200 ∨ 5000 < le16 rd 10 then some 8
    else if dots < le16 rd 12 + 8 then some 9
    else if le16 rd 14 < 16 ∨ 4200 < le16 rd 14 then some 10
    else if rd 16 < 1 ∨ 64 < rd 16 then some 11
    else if 1024 < le16 rd 18 then some 12
    else if ((List.range 12).any fun j => rd (22 + j) == 0) = true then some 13
    else if le16 rd 20 < 32 ∨ 1024 < le16 rd 20 then some 14
    else if 1 < rd 9 then some 15
    else none) ∧
  (∀ (rd : Reader) (p : Profile), profileOf rd = p →
    (p.mode = .apply ↔ rd 0 = 0) ∧ (p.activeLow = true ↔ rd 1 = 1) ∧ p.filter = rd 2 ∧
    (p.skipOnFault = true ↔ rd 3 = 1) ∧ p.applyWindow = rd 4 + 256 * rd 5 ∧
    p.applyTimeout = rd 6 + 256 * rd 7 ∧ p.parkDelay = rd 8 ∧ (p.autoCheck = true ↔ rd 9 = 1) ∧
    p.linePeriod = rd 10 + 256 * rd 11 ∧ p.leftMargin = rd 12 + 256 * rd 13 ∧
    p.pitch = rd 14 + 256 * rd 15 ∧ p.tolerance = rd 16 ∧ p.feedToPeel = rd 18 + 256 * rd 19 ∧
    p.maxDots = rd 20 + 256 * rd 21 ∧ p.strobe.length = 12 ∧
    ∀ k b, k < 4 → b < 3 → p.strobe.getD (3 * k + b) 0 = 10 * rd (22 + 3 * k + b))

/-- SET_LIMITS: refused by the first check that holds, with the monitor as it was, a limit not valid being stored
unchecked; otherwise interval and
both limits are replaced, verdicts and frozen flags cleared, the turn is LIM_A's, the sample timer starts from
zero where a limit is valid, and a line that hot hold paused begins. -/
def Obligations.SetLimits : Prop :=
  (∀ (s : State) (d : List Byte) (i : Nat) (n : StationNo),
    s.given d .setLimits i → ctlStation? d = some n →
    ∃ t, exec .setLimits s = .next t ∧
      (if (s.station n).dotCount = 0 then
        t.answersAlone .noHead ∧ (t.station n).thermal = (s.station n).thermal
      else if ctlInterval d < 1 ∨ 64 < ctlInterval d then
        t.answersItem .badLimits 0 ∧ (t.station n).thermal = (s.station n).thermal
      else if (ctlLimit d 24).bad then
        t.answersItem .badLimits 1 ∧ (t.station n).thermal = (s.station n).thermal
      else if (ctlLimit d 28).bad then
        t.answersItem .badLimits 2 ∧ (t.station n).thermal = (s.station n).thermal
      else
        t.answersAlone .ok ∧ (t.station n).thermal =
          { interval := some (ctlInterval d), turn := .limA, limA := ctlLimit d 24,
            limB := ctlLimit d 28,
            timer := if (ctlLimit d 24).valid ∨ (ctlLimit d 28).valid then some s.clock
              else none } ∧
        (∀ p k last, (s.station n).profile = some p → (s.station n).state = .printing →
          (s.station n).feed = some ⟨k, true, last⟩ → (s.station n).mediaPresent = true →
          (s.station n).sinceEdge < p.pitch + p.tolerance →
          (t.station n).state = .printing ∧ (t.station n).motor = true ∧
          (t.station n).sinceEdge = (s.station n).sinceEdge + 1 ∧
          (t.station n).feed.map (fun f => (f.kind, f.paused)) = some (k, false)))) ∧
  (∀ (d : List Byte) (a : Nat) (l : Limit), ctlLimit d a = l →
    l.valid = (d.getD a 0).getLsbD 0 ∧ l.report = (d.getD a 0).getLsbD 1 ∧
    l.threshold = (d.getD (a + 1) 0).toNat ∧ l.direction = (d.getD (a + 2) 0).toNat ∧
    l.action = (d.getD (a + 3) 0).toNat ∧ l.crossed = false ∧ l.verdictValid = false ∧
    l.frozen = false) ∧
  (∀ l : Limit, l.bad = true ↔
    l.valid = true ∧ (127 < l.threshold ∨ 1 < l.direction ∨ 3 < l.action))

/-- CALIBRATE: refused by the first check that holds; otherwise the station enters CALIBRATING with its state
as the return state, head power ON and its first line in progress, and RCH-C waits; with MEDIA_PRESENT
inactive the calibration ends at once with MEDIA_FAULT and the station comes back to IDLE or HELD, or to HELD where
a hold is pending, with registered and aligned clear. That lines since edge counts from 0 at the start
is the model's (log 13). -/
def Obligations.Calibrate : Prop :=
  (∀ (t : Station) (p : Profile), t.profile = some p → t.nominalPeriod = p.linePeriod) ∧
  ∀ (s : State) (d : List Byte) (i : Nat) (n : StationNo),
    s.given d .calibrate i → ctlStation? d = some n →
    ∃ t, exec .calibrate s = .next t ∧
      (t.station n).profile = (s.station n).profile ∧
      (if (s.station n).dotCount = 0 then t.answersAlone .noHead
      else if (s.station n).state = .offline then t.answersAlone .stationOffline
      else if (s.station n).state ≠ .idle ∧ (s.station n).state ≠ .held then
        t.answersAlone .stationBusy
      else if (s.station n).mediaPresent = false then
        t.answersAlone .mediaFault ∧ (t.station n).registered = false ∧
        (t.station n).aligned = false ∧
        (((s.station n).state = .held ∨ (s.station n).holdPending = true) →
          (t.station n).state = .held ∧ (t.station n).holdPending = false ∧
          (t.station n).motor = false) ∧
        ((s.station n).state = .idle → (s.station n).holdPending = false →
          (∃ u : State, t = u.finishEvent ∧ u.answersAlone .mediaFault ∧
            u.station n = { s.station n with
              state := .idle, power := true, motor := false, feed := none, drive := none,
              parkTimer := none, wakeTimer := none, applyTimer := none, labelOut := false,
              checkDue := false, returnState := none, printDeadline := none, sinceEdge := 0,
              registered := false, aligned := false }) ∧
          ((s.station n).queue = [] → s.unasked n →
            (t.station n).state = .idle ∧ (t.station n).power = true ∧
            (t.station n).motor = false))
      else
        t.control.hand = some ⟨d, i, .busy⟩ ∧ (t.station n).state = .calibrating ∧
        (t.station n).power = true ∧ (t.station n).motor = true ∧
        (t.station n).returnState
          = some (if (s.station n).state = .held then .held else .idle) ∧
        (t.station n).feed = some ⟨.calibrate 1 0, false, (s.station n).nominalPeriod⟩ ∧
        (t.station n).sinceEdge = 1)

/-- DOTCHECK: refused by the first check that holds; otherwise the check begins with its working items
afresh, in the phase and the station state that R184 gives, and RCH-C waits. That a busy station answers
STATION_BUSY before DCU_BUSY also while a check is in progress, by the order of R183 where R190 gives DCU_BUSY for
any station, is the model's choice (log 36). -/
def Obligations.Dotcheck : Prop :=
  ∀ (s : State) (d : List Byte) (i : Nat) (n : StationNo),
    s.given d .dotcheck i → ctlStation? d = some n →
    ∃ t, exec .dotcheck s = .next t ∧
      (if (s.station n).dotCount = 0 then t.answersAlone .noHead
      else if (s.station n).state = .offline then t.answersAlone .stationOffline
      else if (s.station n).headOpen = true then t.answersAlone .headOpen
      else if (s.station n).state ∈ [StationState.printing, .presenting, .ejecting, .calibrating,
          .checking, .fault] then t.answersAlone .stationBusy
      else if s.check ≠ none then t.answersAlone .dcuBusy
      else
        t.control.hand = some ⟨d, i, .busy⟩ ∧ t.checkPending.get n = false ∧
        ((s.station n).state = .idle →
          (t.station n).state = .checking ∧ (t.station n).returnState = some .idle ∧
          t.check = some ⟨n, .command, .measuring, 0, 0, [], [], none⟩) ∧
        ((s.station n).state = .held →
          (t.station n).state = .checking ∧ (t.station n).returnState = some .held ∧
          (t.station n).power = true ∧
          t.check = some ⟨n, .command, if (s.station n).power then .measuring else .settling, 0, 0,
            [], [], if (s.station n).power then none else some s.clock⟩) ∧
        ((s.station n).state = .parked →
          (t.station n).state = .waking ∧ (t.station n).wakeCause = .check ∧
          (t.station n).checkDue = true ∧
          t.check = some ⟨n, .command, .waiting, 0, 0, [], [], none⟩) ∧
        ((s.station n).state = .waking →
          (t.station n).state = .waking ∧ (t.station n).checkDue = true ∧
          t.check = some ⟨n, .command, .waiting, 0, 0, [], [], none⟩))

/-! ### Descriptor fetches and acceptance (R85, R87, R89, R92, R97, R109 to R113) -/

/-- The end of a descriptor fetch. One that ends with a STOP pending, or finds HOST, takes nothing into hand and
the fetch index stays. One that finds PART takes the descriptor into hand with its index, and the fetch index
advances and wraps at the size; RCH-C answers an unknown code with BAD_COMMAND and a station number above 3
with NO_HEAD at once, and hands on every other command; a station channel answers any other kind than LABEL
with BAD_COMMAND. That this status stands where a label's stands, and that of RCH-C where a control command's
stands, the code of a LABEL descriptor included, is the model's reading (log 23). That no
refetch is left over where the timer expired again during a refetch that finds HOST is the model's choice (log 40).
The command and its parameters are read from the bytes that R208 gives them. -/
def Obligations.FetchEnds : Prop :=
  (∀ (s : State) (c : Chan) (bytes : List Byte), bytes.length = 64 →
    s.inTransfer c .fetch = true → s.quiet = true →
    ((s.chan c).stopPending = true ∨ bytes.getD 63 0 ≠ 1) →
    ∃ t, exec (.descriptorFetchEnd c bytes) s = .next t ∧ s.SameLanes t ∧ s.SameRecords t ∧
      (t.chan c).hand = (s.chan c).hand ∧ (t.chan c).fetchIndex = (s.chan c).fetchIndex ∧
      ((s.chan c).stopPending = true →
        (t.chan c).state = .stopped ∧ (t.chan c).stopCause = .host ∧
        (t.chan c).stopPending = false ∧ s.SameEvents t) ∧
      ((s.chan c).stopPending = false → (s.chan c).pollLatch = true → (s.chan c).hand = none →
        (s.chan c).pendingCompletions = [] →
        (t.chan c).state = (if s.fullCondition c then .full else .running) ∧
        (t.chan c).xfer = (if s.fullCondition c then none else some .fetch) ∧
        (t.chan c).autoPollTimer = none ∧ s.SameEvents t) ∧
      ((s.chan c).stopPending = false → (s.chan c).pollLatch = false →
        (s.chan c).state = .running →
        (t.chan c).state = .suspended ∧
        (t.chan c).autoPollTimer = (if s.autoPoll = 0 then none else some s.clock) ∧
        ∀ e, t.raised e = (e == .ringSuspended c || s.raised e)) ∧
      ((s.chan c).stopPending = false → (s.chan c).pollLatch = false →
        (s.chan c).state = .suspended →
        (t.chan c).state = .suspended ∧ (t.chan c).refetchDue = false ∧
        (t.chan c).autoPollTimer = (if s.autoPoll = 0 then none else some s.clock) ∧
        s.SameEvents t)) ∧
  (∀ (s : State) (c : Chan) (bytes : List Byte), bytes.length = 64 → bytes.getD 63 0 = 1 →
    s.inTransfer c .fetch = true → s.quiet = true → (s.chan c).stopPending = false →
    ∃ t, exec (.descriptorFetchEnd c bytes) s = .next t ∧
      (t.chan c).fetchIndex
        = (if (s.chan c).fetchIndex + 1 < (s.chan c).size then (s.chan c).fetchIndex + 1 else 0) ∧
      (t.chan c).autoPollTimer = none ∧
      (c = .control → s.SameLanes t ∧ s.SameRecords t ∧ s.SameEvents t ∧
        (t.chan c).state = .running ∧
        (if controlCode bytes = .unknown then t.answersAlone .badCommand
        else if (controlCode bytes).namesStation ∧ 3 < (bytes.getD 1 0).toNat then
          t.answersAlone .noHead
        else
          t.control.hand = some ⟨bytes, s.control.fetchIndex,
            if controlCode bytes = .setProfile then .profile else .owner⟩)) ∧
      (∀ n, c = .station n → bytes.getD 0 0 ≠ 0x10 →
        s.SameLanes t ∧ s.SameRecords t ∧ s.SameEvents t ∧ (t.chan c).state = .running ∧
        t.labelAnswers n .badCommand)) ∧
  (∀ d : List Byte,
    (∀ k c, [ControlCode.define, .amend, .retire, .query, .setProfile, .setLimits, .calibrate,
        .dotcheck][k]? = some c → (controlCode d = c ↔ (d.getD 0 0).toNat = k + 1)) ∧
    (controlCode d = .unknown ↔ (d.getD 0 0).toNat = 0 ∨ 8 < (d.getD 0 0).toNat) ∧
    (∀ c : ControlCode, c.namesStation = true ↔
      c ∈ [ControlCode.setProfile, .setLimits, .calibrate, .dotcheck]) ∧
    (∀ n, ctlStation? d = some n ↔ (d.getD 1 0).toNat = n.toNat) ∧
    ctlHandle d = (d.getD 2 0).toNat + 256 * (d.getD 3 0).toNat ∧
    (∀ k c, [Kind.form, .font, .symbology, .counter][k]? = some c →
      (ctlKind? d = some c ↔ (d.getD 4 0).toNat = k + 1)) ∧
    ctlVersion d = (d.getD 6 0).toNat + 256 * (d.getD 7 0).toNat ∧
    (ctlTag d).length = 8 ∧ (∀ j, j < 8 → (ctlTag d).getD j 0 = d.getD (8 + j) 0) ∧
    ctlInterval d = (d.getD 8 0).toNat ∧
    (d.getD 19 0 ++ d.getD 18 0 ++ d.getD 17 0 ++ d.getD 16 0).toNat = ctlAddress d ∧
    (d.getD 23 0 ++ d.getD 22 0 ++ d.getD 21 0 ++ d.getD 20 0).toNat = ctlLength d)

/-- The acceptance of a LABEL descriptor: the first check that fails gives the completion status and changes
no record and no queue; a label that passes takes the reservation from the front of the free list and one pin on
the current body of its form and of every handle of that body's reference list; with data it waits for the
transfers, without it joins the tail of its queue at once. Its context holds the form's pin first, then those of
the FONT and SYMBOLOGY records and apart from them the COUNTER handles, each in reference-list order, the parameters
of the descriptor, and a shift of 0 for each BARCODE field; that it is the lowest unused one is the model's choice
(log 24). The pins are stated of the state u that the acceptance
leaves, with which the event then ends, for only there has the Composer not yet drawn a counter. The terms of the
checks follow: the parameters in their bytes, the form too large for pitch or dot count, the data that cannot be,
and the reservation, a block for each 16 elements the fields may place and for each 256 bytes of data. -/
def Obligations.LabelAcceptance : Prop :=
  (∀ (s : State) (n : StationNo) (bytes : List Byte), bytes.length = 64 →
    bytes.getD 63 0 = 1 → bytes.getD 0 0 = 0x10 →
    s.inTransfer (.station n) .fetch = true → s.quiet = true →
    (s.chan (.station n)).stopPending = false →
    ∃ t, exec (.descriptorFetchEnd (.station n) bytes) s = .next t ∧
      (let refused := fun st => t.labelAnswers n st ∧ s.SameLanes t ∧ s.SameRecords t
      let form := s.record (labelForm bytes)
      let rd := s.currentContent (labelForm bytes)
      let pinned := labelForm bytes :: bodyRefs form.current
      if (s.station n).dotCount = 0 then refused .noHead
      else if (s.station n).state = .offline then refused .stationOffline
      else if ¬(labelForm bytes ≤ 1023 ∧ form.state = .active ∧ form.kind = some .form) then
        refused .formMissing
      else if labelVersion bytes ≠ 0 ∧ labelVersion bytes ≠ form.version then
        refused .versionMismatch
      else if formTooLarge (s.station n) rd then refused .formTooLarge
      else if labelDataBad bytes (formFields rd) then refused .badData
      else if s.free.length < s.reservationFor bytes then refused .noSpace
      else
        (∃ (u : State) (l : Label), t = u.finishEvent ∧ u.free = s.free.drop (s.reservationFor bytes) ∧
          (s.canonical = true → ∀ h, (s.record h).current.isSome = true →
            bodyPins (u.record h).current = bodyPins (s.record h).current + pinned.count h) ∧
          l.pinHandles.Perm pinned ∧
          l.pinned.map (fun p => p.1) = labelForm bytes :: ((bodyRefs form.current).filter fun h =>
            decide ((s.record h).kind ≠ some .counter)) ∧
          l.counterPins = ((bodyRefs form.current).filter fun h =>
            decide ((s.record h).kind = some .counter)) ∧
          l.mark = none ∧ l.failure = none ∧ l.warnings = Warnings.none ∧ l.drawn = [] ∧
          l.slots = [] ∧ l.elementCount = none ∧ l.dotAvoid = labelDotAvoid bytes ∧
          l.slotCount = labelSlotCount bytes ∧ l.dataLength = labelDataLength bytes ∧
          l.shifts = List.replicate ((formFields rd).countP fun f => f.kind == some .barcode) 0 ∧
          ((s.station n).queue.length < 8 → (s.station n).fetching = none →
            (∀ x ∈ (s.station n).queue, x.ctx ≠ l.ctx) ∧
            ∀ c, c < l.ctx → ∃ x ∈ (s.station n).queue, x.ctx = c) ∧
          (∀ p ∈ l.pinned, ∀ b, (s.record p.1).current = some b → p.2 = b.version) ∧
          l.form = labelForm bytes ∧ l.formVersion = form.version ∧
          l.index = (s.chan (.station n)).fetchIndex ∧
          l.reservation = s.free.take (s.reservationFor bytes) ∧
          (0 < labelDataLength bytes → (u.station n).fetching = some l) ∧
          (labelDataLength bytes = 0 → (u.station n).queue = (s.station n).queue ++ [l] ∧
            l.state = .accepted ∧ l.stamp = some s.nextStamp)) ∧
        (0 < labelDataLength bytes → ∃ l,
          (t.station n).fetching = some l ∧ l.form = labelForm bytes ∧
          l.formVersion = form.version ∧ l.index = (s.chan (.station n)).fetchIndex ∧
          l.reservation = s.free.take (s.reservationFor bytes) ∧ l.pinHandles.Perm pinned ∧
          t.free = s.free.drop (s.reservationFor bytes) ∧
          (t.chan (.station n)).hand = some ⟨bytes, (s.chan (.station n)).fetchIndex, .data 0⟩ ∧
          (t.station n).queue = (s.station n).queue ∧
          (s.canonical = true → ∀ h, (s.record h).current.isSome = true →
            bodyPins (t.record h).current = bodyPins (s.record h).current + pinned.count h)) ∧
        (labelDataLength bytes = 0 →
          (t.chan (.station n)).held
            = (s.chan (.station n)).held ++ [(s.chan (.station n)).fetchIndex] ∧
          (t.chan (.station n)).hand = none ∧ t.nextStamp = s.nextStamp + 1 ∧
          ((s.station n).state = .parked →
            (t.station n).state = .waking ∧ (t.station n).wakeCause = .label) ∧
          ((s.station n).triggers = [] → s.composer.isSome = true → s.canonical = true →
            ∀ h, (s.record h).current.isSome = true →
              bodyPins (t.record h).current = bodyPins (s.record h).current + pinned.count h) ∧
          ((s.station n).state = .held → (s.station n).triggers = [] → s.composer.isSome →
            ∃ l, (t.station n).queue = (s.station n).queue ++ [l] ∧ l.state = .accepted ∧
              l.form = labelForm bytes ∧ l.stamp = some s.nextStamp ∧
              l.index = (s.chan (.station n)).fetchIndex)))) ∧
  (∀ d : List Byte,
    labelDotAvoid d = (d.getD 1 0).getLsbD 0 ∧
    labelForm d = (d.getD 2 0).toNat + 256 * (d.getD 3 0).toNat ∧
    labelVersion d = (d.getD 4 0).toNat + 256 * (d.getD 5 0).toNat ∧
    labelSlotCount d = (d.getD 6 0).toNat ∧
    labelDataLength d = (d.getD 7 0).toNat + 256 * (d.getD 8 0).toNat ∧
    labelDataAddress d
      = (d.getD 16 0 ++ d.getD 15 0 ++ d.getD 14 0 ++ d.getD 13 0).toNat) ∧
  (∀ (t : Station) (p : Profile) (rd : Reader), t.profile = some p →
    (formTooLarge t rd = true ↔
      p.pitch < formLength rd ∨ t.dotCount < formWidth rd + p.leftMargin)) ∧
  (∀ (d : List Byte) (fields : List Field), labelDataBad d fields = true ↔
    16 < labelSlotCount d ∨ 1536 < labelDataLength d ∨
    (labelSlotCount d = 0 ∧ 0 < labelDataLength d) ∨
    (0 < labelSlotCount d ∧ labelDataLength d < labelSlotCount d) ∨
    ∃ f ∈ fields, (f.kind = some .text ∨ f.kind = some .barcode) ∧ f.source = some .slot ∧
      labelSlotCount d ≤ f.slot) ∧
  (∀ (s : State) (h : Nat) (b : Body), (s.record h).current = some b →
    s.currentContent h = s.content b.blocks) ∧
  (∀ b : Body, bodyRefs (some b) = b.refs) ∧ bodyRefs none = [] ∧
  (∀ l : Label, l.pinHandles = l.pinned.map (fun p => p.1) ++ l.counterPins) ∧
  (∀ (s : State) (d : List Byte), s.reservationFor d =
    (((formFields (s.currentContent (labelForm d))).map fun f => match f.kind with
      | some .text => f.maxChars
      | some .barcode => symbolMaximum (s.currentContent f.drawHandle) f.maxChars
      | some .rule => 1
      | none => 0).sum + 15) / 16 + (labelDataLength d + 255) / 256) ∧
  (∀ (rd : Reader) (m : Nat), ∃ most, symbolMaximum rd m =
      (m + 1) * most + (((symStart rd).length + 1) / 2 + ((symStop rd).length + 1) / 2) ∧
    (∀ e ∈ symEntries rd, (e.pattern.length + 1) / 2 ≤ most) ∧
    (symEntries rd = [] → most = 0) ∧
    (symEntries rd ≠ [] → ∃ e ∈ symEntries rd, (e.pattern.length + 1) / 2 = most))

/-! ### Loads, label data, completion writes, bus errors, auto-poll (R16 to R23, R87, R88, R93, R99, R111) -/

/-- BODY_BURST_END of a burst that is not the last: the bytes stand in the block of the loading body that the
burst's number names, the loaded count rises, and nothing else of the records or of record memory changes. A
burst that ends after a STOP is discarded and the command answers ABORTED. -/
def Obligations.BodyBurstStored : Prop :=
  ∀ (s : State) (d : List Byte) (i k : Nat) (b : LoadingBody) (blk : Nat) (bytes : List Byte),
    s.quiet = true → s.canonical = true → s.inTransfer .control .burst = true →
    (s.record (ctlHandle d)).loading = some b → b.blocks[k]? = some blk →
    1 ≤ bytes.length → bytes.length = min 256 (b.length - 256 * k) →
    (s.control.hand = some ⟨d, i, .load k false⟩ → (∀ x ∈ b.blocks, x < s.total) →
      b.loaded + bytes.length < b.length →
      ∃ t, exec (.bodyBurstEnd bytes) s = .next t ∧ s.SameLanes t ∧ s.SameEvents t ∧
        t.free = s.free ∧ s.SameRecordsBut t (ctlHandle d) ∧
        t.record (ctlHandle d) = { s.record (ctlHandle d) with
          loading := some { b with loaded := b.loaded + bytes.length } } ∧
        t.control.hand = some ⟨d, i, .load (k + 1) false⟩ ∧
        (∀ j, j < bytes.length → t.readByte (256 * blk + j) = bytes.getD j 0) ∧
        s.SameMemoryBut t (256 * blk) bytes.length) ∧
    (s.control.hand = some ⟨d, i, .load k true⟩ →
      ∃ t, exec (.bodyBurstEnd bytes) s = .next t ∧ s.SameLanes t ∧ s.SameEvents t ∧
        s.SameMemory t ∧ t.answersRecord .aborted (ctlHandle d) noFields ∧ t.free = s.free ++ b.blocks ∧
        s.SameRecordsBut t (ctlHandle d) ∧
        t.record (ctlHandle d) = (if (s.record (ctlHandle d)).state = .loading then Record.empty
          else { s.record (ctlHandle d) with loading := none }))

/-- The last burst of a load, stored in its block: a body that fails validation gives its blocks back, with the
record FREE under a DEFINE and as it was under an AMEND; a body that passes makes the record ACTIVE at version 1,
or replaces the current body and advances the version, from 65535 to 1. The referrers of the handles the new
body names rise, and those of the handles a freed body named fall. A pinned body that an AMEND replaces becomes
the prior body, and the completion says in bit 3 of byte 49 whether one was made; every completion carries the
handle and the record's version as it then stands, and a refusal the index. What storing the burst gives is said
beside it. -/
def Obligations.LoadEnds : Prop :=
  (∀ (s : State) (d : List Byte) (i k : Nat) (b : LoadingBody) (kind : Kind) (blk : Nat)
    (bytes : List Byte),
    s.quiet = true → s.canonical = true → s.inTransfer .control .burst = true →
    s.control.hand = some ⟨d, i, .load k false⟩ →
    (s.record (ctlHandle d)).loading = some b → (s.record (ctlHandle d)).kind = some kind →
    (∀ x ∈ b.blocks, x < s.total) → b.blocks[k]? = some blk → 1 ≤ bytes.length →
    bytes.length = min 256 (b.length - 256 * k) → b.length ≤ b.loaded + bytes.length →
    ∃ t, exec (.bodyBurstEnd bytes) s = .next t ∧ s.SameLanes t ∧ s.SameEvents t ∧
      (∀ j, j < bytes.length → t.readByte (256 * blk + j) = bytes.getD j 0) ∧
      s.SameMemoryBut t (256 * blk) bytes.length ∧
      (let h := ctlHandle d
      let r := s.record h
      let stored := s.storeBurst h b k bytes
      let rd := stored.content b.blocks
      let refs := bodyReferences kind rd
      let v := if r.version = 65535 then 1 else r.version + 1
      let madePrior := t.controlAnswer?.map fun a => a.getD 17 0
      (∀ st j, stored.validate kind rd b.length = some (st, j) →
        t.answersAt st (j % 65536) ∧ t.answersRecord st h (indexFields j) ∧
        t.free = s.free ++ b.blocks ∧ s.SameRecordsBut t h ∧
        t.record h = (if r.state = .loading then Record.empty
          else { r with loading := none })) ∧
      (stored.validate kind rd b.length = none → h ∉ refs → t.answers .ok ∧
        (r.state = .loading → t.answersRecord .ok h noFields ∧
          t.record h = { r with
            state := .active, loading := none,
            current := some ⟨b.blocks, b.length, r.version, 0, refs⟩ } ∧ t.free = s.free ∧
          ∀ g, g ≠ h → t.record g = { s.record g with
            referrers := (s.record g).referrers + refs.count g }) ∧
        (r.state ≠ .loading → kind ≠ .counter → ∀ old, r.current = some old → 0 < old.pins →
          t.record h = { r with
            loading := none, version := v, prior := some old,
            current := some ⟨b.blocks, b.length, v, 0, refs⟩ } ∧ t.free = s.free ∧
          madePrior = some 8 ∧
          t.answersRecord .ok h (List.replicate 11 0 ++ [8] ++ List.replicate 13 0) ∧
          ∀ g, g ≠ h → t.record g = { s.record g with
            referrers := (s.record g).referrers + refs.count g }) ∧
        (r.state ≠ .loading → kind = .counter → ∀ old, r.current = some old →
          t.free = s.free ++ old.blocks ∧ t.answersRecord .ok h noFields ∧
          (h ∉ old.refs → t.record h = { r with
            loading := none, version := v,
            current := some ⟨b.blocks, b.length, v, old.pins, []⟩ }) ∧
          ∀ g, g ≠ h → t.record g = { s.record g with
            referrers := (s.record g).referrers - old.refs.count g }) ∧
        (r.state ≠ .loading → kind ≠ .counter → ∀ old, r.current = some old → old.pins = 0 →
          t.free = s.free ++ old.blocks ∧
          (h ∉ old.refs → t.record h = { r with
            loading := none, version := v,
            current := some ⟨b.blocks, b.length, v, 0, refs⟩ }) ∧
          madePrior = some 0 ∧ t.answersRecord .ok h noFields ∧
          ∀ g, g ≠ h → t.record g = { s.record g with
            referrers := (s.record g).referrers - old.refs.count g + refs.count g })))) ∧
  (∀ (s : State) (h k blk : Nat) (b : LoadingBody) (bytes : List Byte), s.canonical = true →
    b.blocks[k]? = some blk → bytes.length ≤ 256 →
    (let t := s.storeBurst h b k bytes
    t = { s with memory := t.memory, elements := t.elements, table := t.table } ∧
    (∀ j, j < bytes.length → t.readByte (256 * blk + j) = bytes.getD j 0) ∧
    s.SameMemoryBut t (256 * blk) bytes.length ∧ s.SameRecordsBut t h ∧
    t.record h = { s.record h with
      loading := some { b with loaded := b.loaded + bytes.length } }))

/-- What the validation of a body gives, kind by kind: the pass that fails first names its index. A FORM's header,
fields in their order, and handles in theirs; a FONT's header, glyphs and substitute; a SYMBOLOGY's header, start
and stop pattern, map and coverage; a COUNTER's conditions. A TEXT field names its font and a BARCODE field its
symbology, each with source COUNTER the counter after it, of the kind that each item requires, and a RULE none; the
reference list of a FORM holds each handle that its fields name once, in the order of first appearance, and that of
any other body is empty. Each item is read from the bytes that R211 and R212
give it. -/
def Obligations.BodiesValidated : Prop :=
  (∀ (s : State) (rd : Reader) (len : Nat),
    (¬formHeaderOk rd len → s.validate .form rd len = some (.badBody, 0xFFFE)) ∧
    (∀ i, formHeaderOk rd len → i < formFieldCount rd → (∀ j, j < i → formFieldOk rd j) →
      ¬formFieldOk rd i → s.validate .form rd len = some (.badBody, i)) ∧
    (formHeaderOk rd len → (∀ i, i < formFieldCount rd → formFieldOk rd i) →
      (∀ i, i < formFieldCount rd → (∀ j, j < i → s.formHandlesOk rd j) →
        ¬s.formHandlesOk rd i → s.validate .form rd len = some (.badRef, i)) ∧
      ((∀ i, i < formFieldCount rd → s.formHandlesOk rd i) →
        s.validate .form rd len = none))) ∧
  (∀ (s : State) (rd : Reader) (len : Nat),
    (¬fontHeaderOk rd len → s.validate .font rd len = some (.badBody, 0xFFFE)) ∧
    (∀ i, fontHeaderOk rd len → i < fontCount rd → (∀ j, j < i → fontGlyphOk rd len j) →
      ¬fontGlyphOk rd len i → s.validate .font rd len = some (.badBody, i)) ∧
    (fontHeaderOk rd len → (∀ i, i < fontCount rd → fontGlyphOk rd len i) →
      ((∃ i, i < fontCount rd ∧ (fontGlyph rd i).code = fontSubstitute rd) →
        s.validate .font rd len = none) ∧
      ((∀ i, i < fontCount rd → (fontGlyph rd i).code ≠ fontSubstitute rd) →
        s.validate .font rd len = some (.badBody, 0xFFFD)))) ∧
  (∀ (s : State) (rd : Reader) (len : Nat),
    (¬symHeaderOk rd len → s.validate .symbology rd len = some (.badBody, 0xFFFE)) ∧
    (symHeaderOk rd len → ¬patternGood rd 16 2 12 0 →
      s.validate .symbology rd len = some (.badBody, 0xFFFD)) ∧
    (symHeaderOk rd len → patternGood rd 16 2 12 0 → ¬patternGood rd 29 3 11 1 →
      s.validate .symbology rd len = some (.badBody, 0xFFFC)) ∧
    (symHeaderOk rd len → patternGood rd 16 2 12 0 → patternGood rd 29 3 11 1 →
      (∀ i, i < symCount rd → (∀ j, j < i → symEntryOk rd j) → ¬symEntryOk rd i →
        s.validate .symbology rd len = some (.badBody, i)) ∧
      ((∀ i, i < symCount rd → symEntryOk rd i) →
        ((rd 4 = 1 → ∀ v, v < symM rd → ∃ i, i < symCount rd ∧ (symEntry rd i).value = v) →
          s.validate .symbology rd len = none) ∧
        (∀ v, rd 4 = 1 → v < symM rd → (∀ i, i < symCount rd → (symEntry rd i).value ≠ v) →
          s.validate .symbology rd len = some (.badBody, 0xFFFB))))) ∧
  (∀ (s : State) (rd : Reader) (len : Nat),
    (counterOk rd len → s.validate .counter rd len = none) ∧
    (¬counterOk rd len → s.validate .counter rd len = some (.badBody, 0xFFFE))) ∧
  (∀ rd : Reader, formLength rd = rd 0 + 256 * rd 1 ∧ formWidth rd = rd 2 + 256 * rd 3 ∧
    formDarkness rd = (BitVec.ofNat 8 (rd 4)).toInt ∧ formFieldCount rd = rd 5 ∧
    ∀ (i o : Nat) (f : Field), formField rd i = f → o = 32 + 64 * i →
      (f.kind = some .text ↔ rd o = 1) ∧ (f.kind = some .barcode ↔ rd o = 2) ∧
      (f.kind = some .rule ↔ rd o = 3) ∧ (f.rot90 = some false ↔ rd (o + 1) = 0) ∧
      (f.rot90 = some true ↔ rd (o + 1) = 1) ∧ f.x = rd (o + 2) + 256 * rd (o + 3) ∧
      f.y = rd (o + 4) + 256 * rd (o + 5) ∧ (f.source = some .constant ↔ rd (o + 6) = 1) ∧
      (f.source = some .slot ↔ rd (o + 6) = 2) ∧ (f.source = some .counter ↔ rd (o + 6) = 3) ∧
      f.maxChars = rd (o + 7) ∧ f.drawHandle = rd (o + 8) + 256 * rd (o + 9) ∧
      f.counterHandle = rd (o + 10) + 256 * rd (o + 11) ∧ f.slot = rd (o + 12) ∧
      f.constLength = rd (o + 13) ∧ f.moduleDots = rd (o + 14) ∧ f.maxShift = rd (o + 15) ∧
      f.barHeight = rd (o + 16) + 256 * rd (o + 17) ∧
      f.ruleWidth = rd (o + 18) + 256 * rd (o + 19) ∧
      f.ruleHeight = rd (o + 20) + 256 * rd (o + 21) ∧ f.constText.length = 32 ∧
      ∀ j, j < 32 → f.constText.getD j 0 = rd (o + 32 + j)) ∧
  (∀ rd : Reader, fontHeight rd = rd 0 ∧ fontSubstitute rd = rd 1 ∧
    fontCount rd = rd 2 + 256 * rd 3 ∧ ∀ i o : Nat, o = 16 + 8 * i → fontGlyph rd i =
      ⟨rd o, rd (o + 1), rd (o + 2),
        rd (o + 4) + 256 * rd (o + 5) + 65536 * rd (o + 6) + 16777216 * rd (o + 7)⟩) ∧
  (∀ rd : Reader, symCount rd = rd 0 ∧ symMin rd = rd 1 ∧ symMax rd = rd 2 ∧ symQuiet rd = rd 3 ∧
    (symModulus rd = true ↔ rd 4 = 1) ∧ symM rd = rd 5 ∧ (symCycle rd = true ↔ rd 6 = 1) ∧
    symWeightCount rd = rd 7 ∧
    (rd 7 ≤ 8 → (symWeights rd).length = rd 7 ∧
      ∀ j, j < rd 7 → (symWeights rd).getD j 0 = rd (8 + j)) ∧
    symStart rd = patternAt rd 16 ∧ symStop rd = patternAt rd 29 ∧
    (∀ i o : Nat, o = 64 + 16 * i → symEntry rd i = ⟨rd o, rd (o + 1), patternAt rd (o + 2)⟩) ∧
    ∀ o, rd o ≤ 12 → (patternAt rd o).length = rd o ∧
      ∀ j, j < rd o → (patternAt rd o).getD j 0 = rd (o + 1 + j)) ∧
  (∀ rd : Reader, ctrDigits rd = rd 0 ∧ (ctrHalt rd = true ↔ rd 1 = 1) ∧
    (ctrExhausted rd = true ↔ rd 2 = 1) ∧ (ctrWeighted rd = true ↔ rd 3 = 1) ∧
    ctrWeightCount rd = rd 4 ∧
    (rd 4 ≤ 4 → (ctrWeights rd).length = rd 4 ∧
      ∀ j, j < rd 4 → (ctrWeights rd).getD j 0 = rd (5 + j)) ∧
    (∀ digits : Nat → Nat → Nat,
      (∀ o k, digits o k = ((List.range k).map fun j =>
        (rd (o + j) % 16 + 10 * (rd (o + j) / 16)) * 100 ^ j).sum) →
      ctrValue rd = digits 16 6 ∧ ctrLow rd = digits 22 6 ∧ ctrHigh rd = digits 28 6 ∧
      ctrStep rd = digits 34 3)) ∧
  (∀ rd : Reader, formFields rd = (List.range (formFieldCount rd)).map (formField rd) ∧
    fontGlyphs rd = (List.range (fontCount rd)).map (fontGlyph rd) ∧
    symEntries rd = (List.range (symCount rd)).map (symEntry rd)) ∧
  (∀ f : Field,
    (f.kind = some .text → f.source ≠ some .counter → f.handles = [(f.drawHandle, .font)]) ∧
    (f.kind = some .text → f.source = some .counter →
      f.handles = [(f.drawHandle, .font), (f.counterHandle, .counter)]) ∧
    (f.kind = some .barcode → f.source ≠ some .counter →
      f.handles = [(f.drawHandle, .symbology)]) ∧
    (f.kind = some .barcode → f.source = some .counter →
      f.handles = [(f.drawHandle, .symbology), (f.counterHandle, .counter)]) ∧
    (f.kind = some .rule → f.handles = [])) ∧
  (∀ (rd : Reader) (named refs : List Nat),
    named = ((formFields rd).map fun f => f.handles.map fun p => p.1).flatten →
    bodyReferences .form rd = refs →
    refs.Nodup ∧ (∀ h, h ∈ refs ↔ h ∈ named) ∧
    refs.Pairwise fun a b => named.idxOf a < named.idxOf b) ∧
  (∀ (rd : Reader) (k : Kind), k ≠ .form → bodyReferences k rd = [])

/-- LABEL_DATA_TRANSFER_END: a transfer stands in its data block, with record memory outside it as before, the
last one too where the Composer draws no counter of the label in its event; after one that is not the last the
next is asked for; after the last, the label is refused with BAD_DATA where the data does not parse, its pins and
its reservation released, the pins first, which is the model's choice (log 10), and otherwise joins the tail of
the queue: its index is held, the descriptor in hand dropped, a stamp given, and a PARKED station wakes. The data
parses where no length is above 96 and the lengths with the directory make up the data; each slot follows the one
before it. The data blocks are the first of the reservation, a block for each 256 bytes. -/
def Obligations.LabelDataEnds : Prop :=
  (∀ (s : State) (n : StationNo) (d : List Byte) (i k : Nat) (l : Label) (blk : Nat)
    (bytes : List Byte),
    s.quiet = true → s.canonical = true → s.inTransfer (.station n) .data = true →
    (s.chan (.station n)).hand = some ⟨d, i, .data k⟩ → (s.station n).fetching = some l →
    (∀ x ∈ l.dataBlocks, x < s.total) → l.dataBlocks[k]? = some blk → 1 ≤ bytes.length →
    bytes.length = min 256 (l.dataLength - 256 * k) →
    ∃ t, exec (.labelDataTransferEnd n bytes) s = .next t ∧
      (256 * k + bytes.length < l.dataLength →
        s.SameLanes t ∧ s.SameEvents t ∧ t.table = s.table ∧ t.free = s.free ∧
        (t.chan (.station n)).hand = some ⟨d, i, .data (k + 1)⟩ ∧
        (∀ j, j < bytes.length → t.readByte (256 * blk + j) = bytes.getD j 0) ∧
        s.SameMemoryBut t (256 * blk) bytes.length) ∧
      (l.dataLength ≤ 256 * k + bytes.length →
        (t.station n).fetching = none ∧
        (let rd := (s.writeContents l.dataBlocks (256 * k) bytes).content l.dataBlocks
        (s.composer.isSome = true ∨ l.counterPins = [] ∨
            parseSlots rd l.slotCount l.dataLength = none →
          (∀ j, j < bytes.length → t.readByte (256 * blk + j) = bytes.getD j 0) ∧
          s.SameMemoryBut t (256 * blk) bytes.length) ∧
        (parseSlots rd l.slotCount l.dataLength = none →
          t.labelAnswers n .badData ∧ s.GivesUp t l ∧
          (t.station n).queue = (s.station n).queue ∧ t.nextStamp = s.nextStamp) ∧
        (∀ slots, parseSlots rd l.slotCount l.dataLength = some slots →
          (t.chan (.station n)).held = (s.chan (.station n)).held ++ [l.index] ∧
          (t.chan (.station n)).hand = none ∧ t.nextStamp = s.nextStamp + 1 ∧
          ((s.station n).triggers.length ≤ (s.station n).eligible.length →
            (s.composer.isSome = true → (t.station n).queue = (s.station n).queue ++
              [{ l with slots := slots, state := .accepted, stamp := some s.nextStamp }]) ∧
            ((s.station n).state ≠ .idle →
              (t.station n).queue.map (fun x => x.index)
                = (s.station n).queue.map (fun x => x.index) ++ [l.index])) ∧
          ((s.station n).state = .parked →
            (t.station n).state = .waking ∧ (t.station n).wakeCause = .label))))) ∧
  (∀ (rd : Reader) (count length : Nat),
    (parseSlots rd count length = none ↔
      (∃ j, j < count ∧ 96 < rd j) ∨ count + ((List.range count).map rd).sum ≠ length) ∧
    (∀ slots, parseSlots rd count length = some slots → slots.length = count ∧
      ∀ j, j < count → slots[j]? = some (count + ((List.range j).map rd).sum, rd j))) ∧
  (∀ l : Label, l.dataBlocks = l.reservation.take ((l.dataLength + 255) / 256)) ∧
  (∀ (s : State) (blocks : List Nat) (k blk : Nat) (bytes : List Byte), s.canonical = true →
    blocks[k]? = some blk → bytes.length ≤ 256 →
    (let t := s.writeContents blocks (256 * k) bytes
    t = { s with memory := t.memory, elements := t.elements } ∧
    (∀ j, j < bytes.length → t.readByte (256 * blk + j) = bytes.getD j 0) ∧
    s.SameMemoryBut t (256 * blk) bytes.length))

/-- COMPLETION_WRITE_END: the completion fields and then the owner field HOST have left for the descriptor's
address, byte 32 of a control descriptor or byte 17 of a label descriptor, which the model tells by the ring
(log 23), the DONE cause, CONTROL_DONE or
STATION_DONE-n, is raised, and the descriptor in hand is dropped, or the finished label's index
leaves the held set; a channel with a STOP pending, or stopping after a bus error, is STOPPED. A FULL channel is
tested again at the end of the write, which is the model's reading (log 11). That the address passes from FFFFFFFFh
to 0 (log 38), and that the last write of a channel stands in the state (log 17), are the model's choice. -/
def Obligations.CompletionWritten : Prop :=
  (∀ (s : State) (c : Chan) (d : List Byte) (i : Nat) (b : List Byte),
    s.quiet = true → s.inTransfer c .handCompletion = true →
    (s.chan c).hand = some ⟨d, i, .complete b⟩ →
    ∃ t, exec (.completionWriteEnd c) s = .next t ∧ s.SameLanes t ∧ s.SameRecords t ∧
      (t.chan c).hand = none ∧
      (t.chan c).written
        = some ⟨((s.chan c).base.toNat + 64 * i + completionStart c) % 2 ^ 32, b ++ [0]⟩ ∧
      (∀ e, t.raised e = (e == doneCause c || s.raised e)) ∧
      ((s.chan c).failing = true →
        (t.chan c).state = .stopped ∧ (t.chan c).stopCause = .busError) ∧
      ((s.chan c).failing = false → (s.chan c).stopPending = true →
        (t.chan c).state = .stopped ∧ (t.chan c).stopCause = .host) ∧
      ((s.chan c).failing = false → (s.chan c).stopPending = false →
        (s.chan c).state = .running → (s.chan c).pendingCompletions = [] →
        (t.chan c).xfer = if s.fullCondition c then none else some .fetch)) ∧
  (∀ (s : State) (c : Chan) (p : Completion) (ps : List Completion),
    s.quiet = true → s.inTransfer c .pendingCompletion = true →
    (s.chan c).pendingCompletions = p :: ps →
    ∃ t, exec (.completionWriteEnd c) s = .next t ∧ s.SameLanes t ∧ s.SameRecords t ∧
      (t.chan c).pendingCompletions = ps ∧ (t.chan c).held = (s.chan c).held.erase p.index ∧
      (t.chan c).hand = (s.chan c).hand ∧
      (t.chan c).written
        = some ⟨((s.chan c).base.toNat + 64 * p.index + completionStart c) % 2 ^ 32,
            p.bytes ++ [0]⟩ ∧
      (∀ e, t.raised e = (e == doneCause c || s.raised e)) ∧
      ((s.chan c).state = .full →
        (t.chan c).state = if t.fullCondition c then .full else .running)) ∧
  (doneCause .control = .controlDone ∧ completionStart .control = 32 ∧ ∀ n : StationNo,
    doneCause (.station n) = .stationDone n ∧ completionStart (.station n) = 17)

/-- TRANSFER_BUS_ERROR by the table of R99. In the error's event RING_ERROR is raised and the stop cause becomes
BUS_ERROR. A failed fetch, and a failed completion write of the descriptor in hand, stop the channel at once; a
failed read is answered with BUS_ERROR, which for a record command carries its handle, the load aborted, with the
record FREE under a DEFINE and otherwise as it was under an AMEND and the blocks at the back of the free list, or
the label refused with its pins and then its reservation released (log 10), and the channel is STOPPED after that
completion. A failed completion write of a finished label drops that completion and its index; the channel is
STOPPED at once, or, with a descriptor in hand, when that work ends, which is the model's choice (log 9). Where
the channel was already stopping with BUS_ERROR and the completion of its descriptor in hand fails, it is STOPPED
as it would have been and RING_ERROR is not raised again (R100). That a burst which fails after a STOP is answered
BUS_ERROR too is the model's choice (log 32). -/
def Obligations.TransferBusError : Prop :=
  ∀ (s : State) (c : Chan) (x : Xfer), s.bus = some c → (s.chan c).xfer = some x →
    ∃ t, exec (.transferBusError c) s = .next t ∧ (t.chan c).stopCause = .busError ∧
      (¬(x = .handCompletion ∧ (s.chan c).failing = true) → t.raised .ringError = true) ∧
      (x = .handCompletion → (s.chan c).failing = true → s.quiet = true →
        s.SameEvents t ∧ s.SameRecords t ∧ s.SameLanes t) ∧
      (x = .fetch →
        (t.chan c).state = .stopped ∧ (t.chan c).stopPending = false ∧
        (t.chan c).pollLatch = false ∧ (t.chan c).autoPollTimer = none ∧
        (t.chan c).hand = (s.chan c).hand ∧ (t.chan c).fetchIndex = (s.chan c).fetchIndex) ∧
      (x = .handCompletion →
        (t.chan c).state = .stopped ∧ (t.chan c).hand = none ∧
        (t.chan c).stopPending = false ∧ (t.chan c).pollLatch = false ∧
        (t.chan c).autoPollTimer = none ∧ (t.chan c).written = (s.chan c).written) ∧
      (∀ p ps, x = .pendingCompletion → (s.chan c).pendingCompletions = p :: ps →
        (t.chan c).held = (s.chan c).held.erase p.index ∧
        ps <+: (t.chan c).pendingCompletions ∧
        (t.chan c).hand = (s.chan c).hand ∧
        ((s.chan c).hand = none → (t.chan c).state = .stopped) ∧
        ((s.chan c).hand ≠ none → (t.chan c).failing = true)) ∧
      (∀ d i w, c = .control → s.control.hand = some ⟨d, i, w⟩ → (x = .burst ∨ x = .profile) →
        t.answers .busError ∧ t.control.failing = true ∧ t.control.state = s.control.state ∧
        (controlCode d ∈ [ControlCode.define, .amend, .retire, .query] →
          t.controlAnswer? = some ([byte Status.busError.code, 0, byte (ctlHandle d),
            byte (ctlHandle d / 256)] ++ List.replicate 27 0)) ∧
        (controlCode d ∉ [ControlCode.define, .amend, .retire, .query] →
          t.answersAlone .busError) ∧
        (x = .profile → s.quiet = true → s.SameRecords t ∧ s.SameLanes t) ∧
        (x = .burst → s.canonical = true → (t.record (ctlHandle d)).loading = none ∧
          (s.quiet = true → s.SameLanes t ∧ s.SameMemory t ∧ s.SameRecordsBut t (ctlHandle d) ∧
            t.free = s.free ++ ((s.record (ctlHandle d)).loading.elim [] fun b => b.blocks) ∧
            t.record (ctlHandle d) = (if (s.record (ctlHandle d)).state = .loading then
              Record.empty else { s.record (ctlHandle d) with loading := none })))) ∧
      (∀ d i w n, c = .station n → (s.chan c).hand = some ⟨d, i, w⟩ → x = .data →
        t.labelAnswers n .busError ∧ (t.chan c).failing = true ∧
        (t.chan c).state = (s.chan c).state ∧ (t.station n).fetching = none ∧
        ∀ l, (s.station n).fetching = some l → s.quiet = true → s.canonical = true →
          s.GivesUp t l ∧ (t.station n).queue = (s.station n).queue)

/-! ### Composition and finish (R117 to R126) -/

/-- The Composer's choice. A station's candidate is its oldest label that is ACCEPTED and unmarked, and the
station is urgent where that label is paired. The urgent station with the earliest last-start time is taken, the
lowest number on equal times; without one, the candidate with the oldest acceptance stamp. The label taken is
COMPOSING with one drawn string for each of its counters, in their order; where one of them is exhausted
nothing is drawn and the label is FAILED with COUNTER_EXHAUSTED, its pins kept, and the Composer chooses again; a
counter is exhausted where byte 2 of its current body is 1. A Composer with a label in hand,
and one without a candidate, takes none. -/
def Obligations.ComposerChooses : Prop :=
  (∀ (t : Station) (l : Label), t.candidate? = some l ↔
    ∃ pre rest, t.queue = pre ++ l :: rest ∧ (l.state = .accepted ∧ l.mark = none) ∧
      ∀ x ∈ pre, ¬(x.state = .accepted ∧ x.mark = none)) ∧
  (∀ (t : Station) (u : Word), t.urgentTime? = some u ↔
    ∃ l k e, t.candidate? = some l ∧ (t.eligible.findIdx fun x => x.ctx == l.ctx) = k ∧
      t.triggers[k]? = some e ∧ e.lastStart = some u) ∧
  (∀ (s : State) (n : StationNo) (t0 : Word), (s.station n).urgentTime? = some t0 →
    (∀ m u, (s.station m).urgentTime? = some u →
      (m.toNat < n.toNat → t0 ≠ u ∧ (u - t0).toNat < 2 ^ 31) ∧
      (n.toNat < m.toNat → ¬(u ≠ t0 ∧ (t0 - u).toNat < 2 ^ 31))) →
    s.composerPick? = some n) ∧
  (∀ (s : State) (n : StationNo) (l : Label), (∀ m, (s.station m).urgentTime? = none) →
    (s.station n).candidate? = some l →
    (∀ m x, (s.station m).candidate? = some x →
      (m.toNat < n.toNat → l.stamp.getD 0 < x.stamp.getD 0) ∧
      (n.toNat < m.toNat → l.stamp.getD 0 ≤ x.stamp.getD 0)) →
    s.composerPick? = some n) ∧
  (∀ s : State, (s.composer.isSome = true ∨ ∀ m, (s.station m).candidate? = none) →
    s.chooseLabels = s) ∧
  (∀ (s : State) (n : StationNo) (l : Label), s.composer = none → s.composerPick? = some n →
    (s.station n).candidate? = some l →
    ((∀ h ∈ l.counterPins, s.exhausted h = false) →
      s.chooseLabels.composer = some ⟨n, l.ctx, 0, 0⟩ ∧
      { l with state := .composing, counterPins := [], drawn := (s.drawAll l.counterPins).2 }
        ∈ (s.chooseLabels.station n).queue ∧
      s.chooseLabels.table = (s.drawAll l.counterPins).1.table ∧
      s.chooseLabels.memory = (s.drawAll l.counterPins).1.memory) ∧
    (∀ h ∈ l.counterPins, s.exhausted h = true →
      (s.composerTake n l).composer = none ∧ (s.composerTake n l).table = s.table ∧
      s.SameMemory (s.composerTake n l) ∧
      { l with state := .failed, failure := some .counterExhausted }
        ∈ ((s.composerTake n l).station n).queue)) ∧
  (∀ (s : State) (h : Nat) (hs : List Nat),
    s.drawAll [] = (s, []) ∧
    (s.drawAll (h :: hs)).2 = (h, (s.drawOne h).2) :: ((s.drawOne h).1.drawAll hs).2 ∧
    (s.drawAll (h :: hs)).1 = ((s.drawOne h).1.drawAll hs).1) ∧
  (∀ (s : State) (n : StationNo) (l : Label), s.composer = none → s.composerPick? = some n →
    (s.station n).candidate? = some l → s.chooseLabels = (s.composerTake n l).chooseLabels) ∧
  (∀ (s : State) (h : Nat), s.exhausted h = true ↔ s.currentContent h 2 = 1)

/-- The Composer's steps on its label in hand. A placed field writes its entries as the next element entries and
takes up the next field, and the shift of a BARCODE field stands among the label's shifts at the place that the
BARCODE fields before it give; a rejected string fails the label; after the last field the entries stand sorted in
their blocks, by top line, then by left dot, then in the order written, and the label is READY. Element entry e
stands at byte 16 x (e mod 16) of block e / 16 of the element blocks, which follow the data blocks. A marked
label's composition ends in place of its next step, or of the sort after the last field: the Composer is IDLE, to
choose again at the end of the event, and the label is FAILED with the mark's status as its failure status, its
warnings none and its shifts 0, the drawn values standing and no byte of memory touched; where it stands at the
head of its queue it finishes with the mark in the same event. -/
def Obligations.ComposerSteps : Prop :=
  (∀ (s : State) (j : Job) (l : Label) (es : List Element) (w : Warnings) (shift : Option Int),
    s.quiet = true → s.canonical = true → s.inHand? = some (j, l) → l.mark = none →
    j.nextField < s.fieldCount l → s.layField j.station l j.nextField = .placed es w shift →
    (∀ x ∈ l.elementBlocks, x < s.total) → l.elementBlocks.Nodup →
    j.entries + es.length ≤ 16 * l.elementBlocks.length →
    ∃ t, exec .composerFieldStep s = .next t ∧
      t.composer = some ⟨j.station, j.ctx, j.nextField + 1, j.entries + es.length⟩ ∧
      s.SameEvents t ∧ t.table = s.table ∧ t.free = s.free ∧
      (∀ e, e < es.length → t.entryAt? l.elementBlocks (j.entries + e) = es[e]?) ∧
      (∀ a, (∀ e, e < es.length → ∀ x, entryAddress? l.elementBlocks (j.entries + e) = some x →
        a < x ∨ x + 16 ≤ a) → t.readByte a = s.readByte a) ∧
      ∃ l', (t.station j.station).label? j.ctx = some l' ∧ l'.state = l.state ∧
        l'.warnings = l.warnings.or w ∧ (shift = none → l'.shifts = l.shifts) ∧
        ∀ x, shift = some x → l'.shifts = l.shifts.set (((formFields (s.formContent l)).take
          j.nextField).countP fun f => f.kind == some .barcode) x) ∧
  (∀ (s : State) (j : Job) (l : Label), s.inHand? = some (j, l) → l.mark = none →
    j.nextField < s.fieldCount l → s.layField j.station l j.nextField = .rejected →
    exec .composerFieldStep s = .next (State.finishEvent
      { s.updLabel j.station j.ctx fun l =>
          { l with state := .failed, failure := some .dataRejected }
        with composer := none })) ∧
  (∀ (s : State) (j : Job) (l : Label), s.inHand? = some (j, l) → l.mark = none →
    s.fieldCount l ≤ j.nextField → (∀ x ∈ l.elementBlocks, x < s.total) →
    exec .composerComplete s = .next (State.finishEvent
      { (s.writeEntries l.elementBlocks 0
            (sortElements (s.entries l.elementBlocks j.entries))).updLabel j.station j.ctx fun l =>
          { l with state := .ready, elementCount := some j.entries }
        with composer := none })) ∧
  (∀ (s : State) (j : Job) (l : Label) (st : Status) (c : Instr),
    s.inHand? = some (j, l) → l.mark = some st →
    ((c = .composerFieldStep ∧ j.nextField < s.fieldCount l) ∨
      (c = .composerComplete ∧ s.fieldCount l ≤ j.nextField)) →
    exec c s = .next (s.endMarked j st).finishEvent ∧
    ∀ rest, (s.station j.station).queue = l :: rest →
      ((s.chan (.station j.station)).pendingCompletions ++
        [⟨l.index, { l with
          state := .failed, failure := some st, warnings := Warnings.none,
          shifts := l.shifts.map fun _ => 0 : Label }.completion st⟩])
        <+: ((s.endMarked j st).finishEvent.chan (.station j.station)).pendingCompletions) ∧
  (∀ (s : State) (j : Job) (st : Status),
    let ended : Label → Label := fun l => if l.ctx = j.ctx then
      { l with
        state := .failed, failure := some st, warnings := Warnings.none,
        shifts := l.shifts.map fun _ => 0 } else l
    let queue := (s.station j.station).queue
    let t := s.endMarked j st
    t.composer = none ∧ s.SameMemory t ∧
    (∀ n, n ≠ j.station → t.station n = s.station n) ∧
    ((∀ l rest, queue = l :: rest → l.ctx ≠ j.ctx) →
      t = { s with composer := none, stations := t.stations } ∧
      t.station j.station = { s.station j.station with queue := queue.map ended }) ∧
    (∀ l rest, queue = l :: rest → l.ctx = j.ctx →
      t.station j.station = { s.station j.station with queue := rest.map ended } ∧
      (t.chan (.station j.station)).pendingCompletions
        = (s.chan (.station j.station)).pendingCompletions ++
          [⟨l.index, (ended l).completion st⟩] ∧
      (s.free ++ l.reservation) <+: t.free)) ∧
  (∀ xs : List Element, (sortElements xs).Perm xs ∧
    (sortElements xs).Pairwise (fun a b => elementBefore b a = false) ∧
    ∀ top left : Nat, ((sortElements xs).filter fun x => x.top == top && x.left == left)
      = xs.filter fun x => x.top == top && x.left == left) ∧
  (∀ a b : Element, elementBefore a b = true ↔ a.top < b.top ∨ (a.top = b.top ∧ a.left < b.left)) ∧
  (∀ (s : State) (j : Job) (l : Label), s.inHand? = some (j, l) ↔
    s.composer = some j ∧ (s.station j.station).label? j.ctx = some l) ∧
  (∀ (t : Station) (ctx : Nat) (l : Label), t.label? ctx = some l ↔
    ∃ pre rest, t.queue = pre ++ l :: rest ∧ l.ctx = ctx ∧ ∀ x ∈ pre, x.ctx ≠ ctx) ∧
  (∀ (s : State) (n : StationNo) (ctx : Nat) (f : Label → Label), s.updLabel n ctx f =
    s.updStation n fun t =>
      { t with queue := t.queue.map fun l => if l.ctx = ctx then f l else l }) ∧
  (∀ l : Label, l.elementBlocks = l.reservation.drop ((l.dataLength + 255) / 256)) ∧
  (∀ (blocks : List Nat) (e : Nat), entryAddress? blocks e
    = (blocks[e / 16]?).map fun b => 256 * b + 16 * (e % 16)) ∧
  (∀ (s : State) (blocks : List Nat) (k : Nat) (xs : List Element), xs.length = k →
    (∀ e, e < k → s.entryAt? blocks e = xs[e]?) → s.entries blocks k = xs) ∧
  (∀ (s : State) (blocks : List Nat) (k : Nat) (xs : List Element), s.canonical = true →
    blocks.Nodup → k + xs.length ≤ 16 * blocks.length →
    (let t := s.writeEntries blocks k xs
    t = { s with memory := t.memory, elements := t.elements } ∧
    (∀ e, e < xs.length → t.entryAt? blocks (k + e) = xs[e]?) ∧
    ∀ a, (∀ e, e < xs.length → ∀ x, entryAddress? blocks (k + e) = some x →
      a < x ∨ x + 16 ≤ a) → t.readByte a = s.readByte a))

/-- The field step's layout of TEXT and RULE fields, and of the string of a field, read from the body of the
version the label pinned, whose place among the pinned bodies, the form's being place 0, stands in each glyph's
entry. A RULE is one rectangle, cut at the form's edges with CLIPPED. A TEXT field lays out its first max_chars
characters, CLIPPED where the string is longer: each takes the glyph of its code, or the substitute with
SUBSTITUTED, at the pen, which then moves on by its advance; a cell inside the form is written whole, one partly
inside with its visible box cut and CLIPPED, and one wholly outside is dropped with CLIPPED. -/
def Obligations.FieldsLaidOut : Prop :=
  (∀ (s : State) (blocks : List Nat) (i : Nat), s.content blocks i =
    match blocks[i / 256]? with
    | some b => (s.readByte (256 * b + i % 256)).toNat
    | none => 0) ∧
  (∀ (s : State) (h v : Nat) (c : Body), (s.record h).current = some c →
    (c.version = v → s.versionContent h v = s.content c.blocks) ∧
    (∀ b, (s.record h).prior = some b → c.version ≠ v → b.version = v →
      s.versionContent h v = s.content b.blocks)) ∧
  (∀ (s : State) (l : Label), s.formContent l = s.versionContent l.form l.formVersion ∧
    s.fieldCount l = formFieldCount (s.formContent l) ∧
    s.labelLines l = formLength (s.formContent l)) ∧
  (∀ (s : State) (n : StationNo) (l : Label) (i : Nat),
    (let rd := s.formContent l
    let f := formField rd i
    let size : FormSize := ⟨formWidth rd, formLength rd⟩
    let rot := f.rot90.getD false
    (f.kind = some .rule → s.layField n l i = layRuleField size f rot) ∧
    (∀ k v, f.kind = some .text → pinnedPosition l f.drawHandle = some (k, v) →
      s.layField n l i
        = layTextField (s.versionContent f.drawHandle v) size k f rot (s.fieldString l f)) ∧
    (∀ k v, f.kind = some .barcode → pinnedPosition l f.drawHandle = some (k, v) →
      s.layField n l i
        = layBarcodeField (s.versionContent f.drawHandle v) size (s.station n)
            (s.station n).margin l.dotAvoid f rot (s.fieldString l f)) ∧
    (f.source = some .constant → s.fieldString l f = f.constText.take f.constLength) ∧
    (∀ off len, f.source = some .slot → l.slots[f.slot]? = some (off, len) →
      s.fieldString l f = (List.range len).map fun j => s.content l.dataBlocks (off + j)) ∧
    (∀ pre v rest, f.source = some .counter → l.drawn = pre ++ (f.counterHandle, v) :: rest →
      (∀ x ∈ pre, x.1 ≠ f.counterHandle) → s.fieldString l f = v.map fun b => b.toNat))) ∧
  (∀ (size : FormSize) (f : Field) (rot : Bool) (w h : Nat),
    w = (if rot then f.ruleHeight else f.ruleWidth) →
    h = (if rot then f.ruleWidth else f.ruleHeight) → 0 < w → 0 < h →
    f.x < size.width → f.y < size.length →
    layRuleField size f rot = .placed
      [{ kind := .rule, top := f.y, left := f.x, lines := min h (size.length - f.y),
         dots := min w (size.width - f.x), glyphBody := 0, bitmap := 0, width := 0, height := 0,
         rot90 := false, cellTop := 0, cellLeft := 0 }]
      (clippedIf (decide (size.width < f.x + w ∨ size.length < f.y + h))) none) ∧
  (∀ (rd : Reader) (size : FormSize) (body : Nat) (f : Field) (rot : Bool) (cs : List Nat),
    layTextField rd size body f rot [] = .placed [] Warnings.none none ∧
    layTextField rd size body f rot cs = .placed
      (layText rd size body f.x f.y rot 0 (cs.take f.maxChars)).1
      ((layText rd size body f.x f.y rot 0 (cs.take f.maxChars)).2.or
        (clippedIf (decide (f.maxChars < cs.length)))) none) ∧
  (∀ (l : Label) (h k v : Nat), pinnedPosition l h = some (k, v) ↔
    1 ≤ k ∧ l.pinned[k]? = some (h, v) ∧
      ∀ j w, 1 ≤ j → j < k → l.pinned[j]? ≠ some (h, w)) ∧
  (∀ (t : Station) (p : Profile), t.profile = some p → t.margin = p.leftMargin) ∧
  Warnings.none = ⟨false, false, false, false⟩ ∧
  (∀ b : Bool, clippedIf b = ⟨b, false, false, false⟩) ∧
  (∀ a b : Warnings, a.or b = ⟨a.clipped || b.clipped, a.substituted || b.substituted,
    a.dotsInBars || b.dotsInBars, a.deadlineOverrun || b.deadlineOverrun⟩) ∧
  (∀ (rd : Reader) (c : Nat),
    ((∃ g ∈ fontGlyphs rd, g.code = c) →
      ∃ g ∈ fontGlyphs rd, g.code = c ∧ glyphFor rd c = some (g, false)) ∧
    ((∀ g ∈ fontGlyphs rd, g.code ≠ c) → (∃ g ∈ fontGlyphs rd, g.code = fontSubstitute rd) →
      ∃ g ∈ fontGlyphs rd, g.code = fontSubstitute rd ∧ glyphFor rd c = some (g, true))) ∧
  (∀ (rd : Reader) (size : FormSize) (body x y pen c : Nat) (rot : Bool) (cs : List Nat)
    (g : Glyph) (sub : Bool) (left top dots lines : Nat),
    glyphFor rd c = some (g, sub) →
    left = (if rot then x else x + pen) → top = (if rot then y + pen else y) →
    dots = (if rot then fontHeight rd else g.width) →
    lines = (if rot then g.width else fontHeight rd) → 0 < dots → 0 < lines →
    (left + dots ≤ size.width → top + lines ≤ size.length →
      layText rd size body x y rot pen (c :: cs) =
        ({ kind := .glyph, top := top, left := left, lines := lines, dots := dots,
           glyphBody := body, bitmap := g.bitmap, width := g.width, height := fontHeight rd,
           rot90 := rot, cellTop := top, cellLeft := left }
          :: (layText rd size body x y rot (pen + g.advance) cs).1,
         { Warnings.none with substituted := sub }.or
          (layText rd size body x y rot (pen + g.advance) cs).2)) ∧
    (left < size.width → top < size.length →
      (size.width < left + dots ∨ size.length < top + lines) →
      layText rd size body x y rot pen (c :: cs) =
        ({ kind := .glyph, top := top, left := left, lines := min lines (size.length - top),
           dots := min dots (size.width - left), glyphBody := body, bitmap := g.bitmap,
           width := g.width, height := fontHeight rd, rot90 := rot, cellTop := top,
           cellLeft := left }
          :: (layText rd size body x y rot (pen + g.advance) cs).1,
         { Warnings.none with clipped := true, substituted := sub }.or
          (layText rd size body x y rot (pen + g.advance) cs).2)) ∧
    ((size.width ≤ left ∨ size.length ≤ top) →
      layText rd size body x y rot pen (c :: cs) =
        ((layText rd size body x y rot (pen + g.advance) cs).1,
         { Warnings.none with clipped := true, substituted := sub }.or
          (layText rd size body x y rot (pen + g.advance) cs).2)))

/-- The field step's layout of a BARCODE field. A string too long or too short, or with a character that has no
map entry, is rejected. Otherwise its bars are those of the start pattern, the characters' patterns, under MODULUS
the check character's, and the stop pattern, behind the quiet zone; a bar inside the form is written whole, one
partly inside with its visible box cut, and one wholly outside is dropped; CLIPPED is given where the symbol with
its quiet zones does not fit. A field that qualifies takes the first candidate shift, in the order 0, +1, -1, +2,
-2 and on, with the fewest failed dots in bars, passing over those that leave the form, with DOTS_IN_BARS where
that is not 0; any other takes shift 0. The check value is the sum of the values, each times its place from 1
(POSITION) or times the weights in turn from the rightmost on (CYCLE), modulo M. A candidate leaves the form where
a bar reaches below dot 0 or above form width - 1. The failed dots in bars are the form dots d under a bar whose
head element d + left margin the map classes OPEN or SHORT, an element at or beyond the dot count being good; the
bars of a symbol do not overlap, and no dot counts twice. That it passes over shift 0 too where a bar leaves the
form there, with an empty map as with any, is the model's choice (log 41). -/
def Obligations.BarcodesPlaced : Prop :=
  (∀ (rd : Reader) (size : FormSize) (t : Station) (margin : Nat) (avoid : Bool) (f : Field)
    (rot : Bool) (cs : List Nat),
    ((f.maxChars < cs.length ∨ cs.length < symMin rd ∨ symMax rd < cs.length ∨
        ∃ c ∈ cs, ∀ e ∈ symEntries rd, e.code ≠ c) →
      layBarcodeField rd size t margin avoid f rot cs = .rejected) ∧
    (cs.length ≤ f.maxChars → symMin rd ≤ cs.length → cs.length ≤ symMax rd →
      (∀ c ∈ cs, ∃ e ∈ symEntries rd, e.code = c) →
      ∃ es shift w, es.map (fun e => e.code) = cs ∧ (∀ e ∈ es, e ∈ symEntries rd) ∧
        layBarcodeField rd size t margin avoid f rot cs = .placed
          ((symbolOf rd es).bars.filterMap fun b =>
            plainElement .bar size (barBox f rot shift b)) w (some shift) ∧
        w.clipped = !symbolFits size f rot shift (symbolOf rd es).total ∧
        w.substituted = false ∧ w.deadlineOverrun = false ∧
        (rot = false → avoid = true → 0 < f.maxShift →
          (shift, w.dotsInBars) = chooseShift t margin size.width f (symbolOf rd es).bars) ∧
        (rot = true ∨ avoid = false ∨ f.maxShift = 0 → shift = 0 ∧ w.dotsInBars = false))) ∧
  (∀ (rd : Reader) (es : List MapEntry),
    (symbolOf rd es).bars = barsFrom true (symQuiet rd) (symbolWidths rd es) ∧
    (symbolOf rd es).total = 2 * symQuiet rd + (symbolWidths rd es).sum ∧
    (symModulus rd = false →
      symbolWidths rd es = symStart rd ++ (es.map fun e => e.pattern).flatten ++ symStop rd) ∧
    (∀ c, symModulus rd = true →
      (symEntries rd).find? (fun e => e.value == checkValue rd (es.map fun e => e.value)) = some c →
      symbolWidths rd es
        = symStart rd ++ (es.map fun e => e.pattern).flatten ++ c.pattern ++ symStop rd)) ∧
  (∀ (m w g : Nat) (ws : List Nat), barsFrom true m [] = [] ∧ barsFrom true m [w] = [(m, w)] ∧
    barsFrom true m (w :: g :: ws) = (m, w) :: barsFrom true (m + w + g) ws) ∧
  (∀ (size : FormSize) (f : Field) (shift : Int) (m w left : Nat),
    (f.x : Int) + shift + (m * f.moduleDots : Nat) = left → 0 < w * f.moduleDots →
    0 < f.barHeight → left + w * f.moduleDots ≤ size.width → f.y + f.barHeight ≤ size.length →
    plainElement .bar size (barBox f false shift (m, w)) = some
      { kind := .bar, top := f.y, left := left, lines := f.barHeight, dots := w * f.moduleDots,
        glyphBody := 0, bitmap := 0, width := 0, height := 0, rot90 := false, cellTop := 0,
        cellLeft := 0 }) ∧
  (∀ (size : FormSize) (f : Field) (shift : Int) (m w : Nat), 0 < w * f.moduleDots →
    0 < f.barHeight → f.x + f.barHeight ≤ size.width →
    f.y + m * f.moduleDots + w * f.moduleDots ≤ size.length →
    plainElement .bar size (barBox f true shift (m, w)) = some
      { kind := .bar, top := f.y + m * f.moduleDots, left := f.x, lines := w * f.moduleDots,
        dots := f.barHeight, glyphBody := 0, bitmap := 0, width := 0, height := 0, rot90 := false,
        cellTop := 0, cellLeft := 0 }) ∧
  (∀ (size : FormSize) (f : Field) (shift first last : Int) (m w : Nat), 0 < f.barHeight →
    first = max ((f.x : Int) + shift + (m * f.moduleDots : Nat)) 0 →
    last = min ((f.x : Int) + shift + (m * f.moduleDots : Nat) + (w * f.moduleDots : Nat))
      size.width →
    (first < last → f.y < size.length →
      plainElement .bar size (barBox f false shift (m, w)) = some
        { kind := .bar, top := f.y, left := first.toNat,
          lines := min f.barHeight (size.length - f.y), dots := (last - first).toNat,
          glyphBody := 0, bitmap := 0, width := 0, height := 0, rot90 := false, cellTop := 0,
          cellLeft := 0 }) ∧
    ((last ≤ first ∨ size.length ≤ f.y) →
      plainElement .bar size (barBox f false shift (m, w)) = none)) ∧
  (∀ (size : FormSize) (f : Field) (shift : Int) (m w top : Nat), 0 < w * f.moduleDots →
    0 < f.barHeight → top = f.y + m * f.moduleDots →
    (f.x < size.width → top < size.length →
      plainElement .bar size (barBox f true shift (m, w)) = some
        { kind := .bar, top := top, left := f.x, lines := min (w * f.moduleDots) (size.length - top),
          dots := min f.barHeight (size.width - f.x), glyphBody := 0, bitmap := 0, width := 0,
          height := 0, rot90 := false, cellTop := 0, cellLeft := 0 }) ∧
    ((size.width ≤ f.x ∨ size.length ≤ top) →
      plainElement .bar size (barBox f true shift (m, w)) = none)) ∧
  (∀ (size : FormSize) (f : Field) (shift : Int) (total : Nat),
    (symbolFits size f false shift total = true ↔
      0 ≤ (f.x : Int) + shift ∧
      (f.x : Int) + shift + (total * f.moduleDots : Nat) ≤ size.width ∧
      f.y + f.barHeight ≤ size.length) ∧
    (symbolFits size f true shift total = true ↔
      f.y + total * f.moduleDots ≤ size.length ∧ f.x + f.barHeight ≤ size.width)) ∧
  (∀ (t : Station) (margin width : Nat) (f : Field) (bars : List (Nat × Nat)) (shift : Int)
    (warn : Bool), chooseShift t margin width f bars = (shift, warn) →
    (let count := failedInBars t margin width f bars
    let kept := (candidateShifts f.maxShift).filter fun c => !shiftSkipped width f bars c
    warn = decide (0 < count shift) ∧ (kept = [] → shift = 0) ∧
    (kept ≠ [] → ∃ pre rest, kept = pre ++ shift :: rest ∧ (∀ c ∈ pre, count shift < count c) ∧
      ∀ c ∈ rest, count shift ≤ count c))) ∧
  (∀ (rd : Reader) (vs : List Nat),
    (symCycle rd = false → checkValue rd vs
      = ((List.range vs.length).map fun i => vs.getD i 0 * (i + 1)).sum % symM rd) ∧
    (symCycle rd = true → checkValue rd vs
      = ((List.range vs.length).map fun i => vs.reverse.getD i 0 *
          (symWeights rd).getD (i % (symWeights rd).length) 0).sum % symM rd)) ∧
  (∀ (width : Nat) (f : Field) (bars : List (Nat × Nat)) (shift : Int),
    shiftSkipped width f bars shift = true ↔
      ∃ m w, (m, w) ∈ bars ∧
        ((f.x : Int) + shift + (m * f.moduleDots : Nat) < 0 ∨
          (width : Int) - 1 < (f.x : Int) + shift + ((m + w) * f.moduleDots : Nat) - 1)) ∧
  (∀ (t : Station) (margin width : Nat) (f : Field) (bars : List (Nat × Nat)) (shift : Int),
    let under : Nat × Nat → Nat → Bool := fun b d =>
      decide ((f.x : Int) + shift + (b.1 * f.moduleDots : Nat) ≤ d) &&
      decide ((d : Int) ≤ (f.x : Int) + shift + ((b.1 + b.2) * f.moduleDots : Nat) - 1)
    let bad : Nat → Bool := fun d => decide (d + margin < t.dotCount) &&
      decide ((t.map.getD (d + margin) (.good, 0)).1 ∈ [DotClass.open, .short])
    failedInBars t margin width f bars shift
      = (bars.map fun b => (List.range width).countP fun d => under b d && bad d).sum ∧
    (bars.Pairwise (fun a b => a.1 + a.2 ≤ b.1) →
      failedInBars t margin width f bars shift
        = (List.range width).countP fun d => bars.any (fun b => under b d) && bad d)) ∧
  (∀ (rd : Reader) (es : List MapEntry),
    (symbolOf rd es).bars.Pairwise fun a b => a.1 + a.2 ≤ b.1) ∧
  (∀ m : Nat, (candidateShifts m).length = 2 * m + 1 ∧ (candidateShifts m)[0]? = some 0 ∧
    ∀ k : Nat, k < m → (candidateShifts m)[2 * k + 1]? = some (k + 1 : Int) ∧
      (candidateShifts m)[2 * k + 2]? = some (-(k + 1 : Int)))

/-- The finish of the head of a queue: it leaves the queue, its reservation goes to the back of the free list,
its pins are released and its completion goes to the tail of the channel's pending completions;
MARKED_HEAD_FINISH finishes a marked head that is not COMPOSING with its mark, and does nothing with any other,
which is the model's reading (log 3). The release of a pin lowers the count of the body that carries the
version; a prior body without pins is freed, also of a RETIRING record, which stays while its current body keeps
pins; a RETIRING record without pins becomes FREE with RECORD_FREED, the
current body's blocks before the prior's (log 10), or the prior's first where its pin was the last (log 33),
both the model's choice. The completion holds, from descriptor byte 17 on, the status, the warnings, the form
version, the element count, the four shifts as signed bytes and the drawn values, an entry of 9 bytes for each;
every other byte is 0, and a refused label's carries the status alone. Each status has the code R208 gives. -/
def Obligations.HeadFinishes : Prop :=
  (∀ (s : State) (n : StationNo) (l : Label) (rest : List Label) (st : Status),
    (s.station n).queue = l :: rest →
    ((s.finishHead n st).station n).queue = rest ∧
    (s.free ++ l.reservation) <+: (s.finishHead n st).free ∧
    ((s.finishHead n st).chan (.station n)).pendingCompletions
      = (s.chan (.station n)).pendingCompletions ++ [⟨l.index, l.completion st⟩] ∧
    s.SameMemory (s.finishHead n st) ∧
    (s.canonical = true → ∀ h c, (s.record h).current = some c →
      (s.record h).state ≠ .retiring → (∀ v, (h, v) ∈ l.pinned → v = c.version) →
      ((s.finishHead n st).record h).current
        = some { c with pins := c.pins - l.pinHandles.count h })) ∧
  (∀ (s : State) (n : StationNo) (l : Label) (rest : List Label) (st : Status),
    (s.station n).queue = l :: rest → l.mark = some st → l.state ≠ .composing →
    exec (.markedHeadFinish n) s = .next (s.finishHead n st).finishEvent ∧
    ∃ t, exec (.markedHeadFinish n) s = .next t ∧
      ((s.chan (.station n)).pendingCompletions ++ [⟨l.index, l.completion st⟩])
        <+: (t.chan (.station n)).pendingCompletions) ∧
  (∀ (s : State) (n : StationNo),
    (∀ l rest, (s.station n).queue = l :: rest → l.mark = none ∨ l.state = .composing) →
    exec (.markedHeadFinish n) s = .next s) ∧
  (∀ (s : State) (h v : Nat) (c : Body), s.canonical = true → (s.record h).current = some c →
    (s.unpinCounter h = s.unpinBody h c.version) ∧
    ((s.record h).state ≠ .retiring → c.version = v →
      s.unpinBody h v = s.setRecord h { s.record h with
        current := some { c with pins := c.pins - 1 } }) ∧
    (∀ b, (s.record h).prior = some b → c.version ≠ v → b.version = v →
      (1 < b.pins → s.unpinBody h v = s.setRecord h { s.record h with
        prior := some { b with pins := b.pins - 1 } }) ∧
      (b.pins ≤ 1 → (s.record h).state ≠ .retiring →
        ((s.unpinBody h v).record h).prior = none ∧
        ((s.unpinBody h v).record h).current = some c ∧
        (s.unpinBody h v).free = s.free ++ b.blocks ∧
        (∀ g, g ≠ h → (s.unpinBody h v).record g = { s.record g with
          referrers := (s.record g).referrers - b.refs.count g })) ∧
      (b.pins ≤ 1 → (s.record h).state = .retiring → c.pins = 0 →
        (s.unpinBody h v).record h = Record.empty ∧
        (s.unpinBody h v).free = s.free ++ b.blocks ++ c.blocks ∧
        (s.unpinBody h v).raised .recordFreed = true ∧
        (∀ g, g ≠ h → (s.unpinBody h v).record g = { s.record g with
          referrers := (s.record g).referrers - b.refs.count g - c.refs.count g })) ∧
      (b.pins ≤ 1 → (s.record h).state = .retiring → 0 < c.pins →
        ((s.unpinBody h v).record h).state = .retiring ∧
        ((s.unpinBody h v).record h).prior = none ∧
        ((s.unpinBody h v).record h).current = some c ∧
        ((s.unpinBody h v).record h).version = (s.record h).version ∧
        (s.unpinBody h v).free = s.free ++ b.blocks ∧
        (s.unpinBody h v).eventStatus = s.eventStatus ∧
        (∀ g, g ≠ h → (s.unpinBody h v).record g = { s.record g with
          referrers := (s.record g).referrers - b.refs.count g }))) ∧
    ((s.record h).state = .retiring → c.version = v → c.pins ≤ 1 →
      bodyPins (s.record h).prior = 0 →
      (s.unpinBody h v).record h = Record.empty ∧
      (s.unpinBody h v).free = s.free ++ c.blocks ++
        ((s.record h).prior.elim [] fun b => b.blocks) ∧
      (s.unpinBody h v).raised .recordFreed = true ∧
      ((s.record h).prior = none → ∀ g, g ≠ h → (s.unpinBody h v).record g = { s.record g with
        referrers := (s.record g).referrers - c.refs.count g })) ∧
    ((s.record h).state = .retiring → c.version = v →
      0 < c.pins - 1 + bodyPins (s.record h).prior →
      s.unpinBody h v = s.setRecord h { s.record h with
        current := some { c with pins := c.pins - 1 } })) ∧
  (∀ (l : Label) (st : Status) (b : List Byte), (∀ p ∈ l.drawn, p.2.length ≤ 13) →
    l.completion st = b →
    b.length = 46 ∧ b.getD 0 0 = byte st.code ∧
    b.getD 1 0 = byte ((if l.warnings.clipped then 1 else 0)
      + (if l.warnings.substituted then 2 else 0) + (if l.warnings.dotsInBars then 4 else 0)
      + (if l.warnings.deadlineOverrun then 8 else 0)) ∧
    le16 (listReader b) 2 = l.formVersion % 65536 ∧
    le16 (listReader b) 4 = l.elementCount.getD 0 % 65536 ∧
    (∀ k, k < 4 → b.getD (6 + k) 0 = BitVec.ofInt 8 (l.shifts.getD k 0)) ∧
    (∀ k h v, k < 4 → l.drawn[k]? = some (h, v) →
      le16 (listReader b) (10 + 9 * k) = h % 1024 + 4096 * v.length ∧
      ∀ j, j < 14 → (b.getD (12 + 9 * k + j / 2) 0).toNat / 16 ^ (j % 2) % 16
        = if j < v.length then (v.getD j 0).toNat % 16 else 0) ∧
    (∀ k j, k < 4 → l.drawn.length ≤ k → j < 9 → b.getD (10 + 9 * k + j) 0 = 0)) ∧
  (∀ st : Status, refusalCompletion st = byte st.code :: List.replicate 45 0) ∧
  ([Status.ok, .retirePending, .badHandle, .badKind, .handleInUse, .badBody, .noSpace, .noRecord,
      .kindMismatch, .priorInUse, .busyLoading, .referenced, .badRef].map Status.code
    = [0x00, 0x01, 0x02, 0x03, 0x04, 0x05, 0x06, 0x07, 0x08, 0x09, 0x0A, 0x0B, 0x0C] ∧
  [Status.badCommand, .noHead, .stationOffline, .stationBusy, .badProfile, .badLimits, .dcuBusy,
      .formMissing, .versionMismatch, .formTooLarge, .badData, .busError, .aborted].map Status.code
    = [0x0F, 0x10, 0x11, 0x12, 0x13, 0x14, 0x15, 0x16, 0x17, 0x18, 0x19, 0x1A, 0x1B] ∧
  [Status.mediaFault, .headOpen, .applied, .printed, .late, .skipped, .flushed, .applyTimeout,
      .mediaMismatch, .counterExhausted, .dataRejected].map Status.code
    = [0x1E, 0x1F, 0x20, 0x21, 0x22, 0x23, 0x24, 0x25, 0x26, 0x27, 0x28])

/-! ### Triggers (R134 to R140) -/

/-- An arrival by the table of R135 and the overrun of R140: joining with its deadline an apply window after the
clock, waking a PARKED station, and the fault of the fifth arrival, in which a label that prints or presents
finishes SKIPPED, a calibration answers ABORTED, a check ends, its automatic request set again, aligned is
cleared under a label or an eject, and skip-on-fault takes the pending entries and then the arrival. An entry
that is paired at once takes its last-start time, the deadline less the label's form length and feed to peel at
the nominal line period in whole milliseconds rounded up, and one at or before the clock expires in the same
event. In IDLE an arrival waits with a head not yet composed or marked; paired with a READY head it starts it, or
finishes it MEDIA_MISMATCH where its form is longer than the pitch; paired with a FAILED head it is consumed by it.
The labels behind the head stay as they are where none has its context number, which R107 gives every label.
In HELD and FAULT an arrival is dropped where skip-on-fault is clear; where it is set, it abandons the
oldest label that has not started with SKIPPED, and is dropped where there is none. That the clock comes to the
filter time is the model's (log 2), and that a command without a running filter timer changes nothing (log 3). -/
def Obligations.TriggerArrives : Prop :=
  (∀ (s : State) (n : StationNo), (s.station n).filterTimer = none →
    exec (.triggerArrival n) s = .next s) ∧
  (∀ (s : State) (n : StationNo) (l : Label) (p : Profile), (s.station n).profile = some p →
    s.leadTime n l = ((s.labelLines l + p.feedToPeel) * p.linePeriod + 999) / 1000) ∧
  (∀ t : Station, t.eligible = t.queue.filter fun l =>
    decide (l.state ∈ [LabelState.accepted, .composing, .ready, .failed]) && l.mark.isNone) ∧
  (∀ l : Label, l.eligible = true ↔
    l.state ∈ [LabelState.accepted, .composing, .ready, .failed] ∧ l.mark = none) ∧
  ∀ (s : State) (n : StationNo) (t0 : Word) (p : Profile), s.atRest = true →
    (s.station n).filterTimer = some t0 → (s.station n).profile = some p →
    (let r := s.reachTime (t0 + BitVec.ofNat 32 p.filter)
    let entry : Trigger := ⟨r.clock, r.clock + BitVec.ofNat 32 p.applyWindow, none⟩
    let dropped := r.updStation n fun t => { t with filterTimer := none }
    let waits : Prop := (s.station n).state ∈ [StationState.printing, .presenting, .ejecting,
        .checking, .calibrating, .waking] ∨ ((s.station n).state = .idle ∧
      ∀ h rest, (s.station n).queue = h :: rest →
        h.mark ≠ none ∨ (h.state ≠ .ready ∧ h.state ≠ .failed))
    (waits →
      (s.station n).triggers.length < 4 →
      (s.station n).eligible.length ≤ (s.station n).triggers.length →
      exec (.triggerArrival n) s = .next (r.updStation n fun t =>
        { t with filterTimer := none, triggers := t.triggers ++ [entry] })) ∧
    (∀ l, waits → (s.station n).triggers.length < 4 →
      (s.station n).eligible[(s.station n).triggers.length]? = some l → p.applyWindow ≤ 10000 →
      (s.leadTime n l < p.applyWindow →
        exec (.triggerArrival n) s = .next (r.updStation n fun t =>
          { t with filterTimer := none, triggers := t.triggers ++ [{ entry with
            lastStart := some (entry.deadline - BitVec.ofNat 32 (s.leadTime n l)) }] })) ∧
      (p.applyWindow ≤ s.leadTime n l → s.leadTime n l < 2 ^ 31 →
        ∃ t, exec (.triggerArrival n) s = .next t ∧
          (∀ rest, (s.station n).queue = l :: rest → l.state ≠ .composing → l.state ≠ .failed →
            ((s.chan (.station n)).pendingCompletions ++ [⟨l.index, l.completion .late⟩])
              <+: (t.chan (.station n)).pendingCompletions))) ∧
    (∀ h rest, (s.station n).state = .idle → (s.station n).queue = h :: rest → h.mark = none →
      p.applyWindow ≤ 10000 → s.leadTime n h < 2 ^ 31 →
      ((h.state = .ready ∨ h.state = .failed) → (s.station n).triggers = []) ∧
      (h.state = .ready → s.leadTime n h < p.applyWindow → s.labelLines h ≤ p.pitch →
        ((s.station n).thermal.hotHold = true ∨ ((s.station n).mediaPresent = true ∧
          (if (s.station n).registered then (s.station n).sinceEdge else 0)
            < p.pitch + p.tolerance)) →
        ∃ t, exec (.triggerArrival n) s = .next t ∧ (t.station n).state = .printing ∧
          (t.station n).triggers = [] ∧ (t.station n).printDeadline = some entry.deadline ∧
          (t.station n).queue.head? = some { h with state := .printing } ∧
          ((∀ x ∈ rest, x.ctx ≠ h.ctx) →
            (t.station n).queue = { h with state := .printing } :: rest)) ∧
      (∀ st, (h.state = .ready ∧ s.leadTime n h < p.applyWindow ∧ p.pitch < s.labelLines h ∧
            st = .mediaMismatch) ∨
          (h.state = .ready ∧ p.applyWindow ≤ s.leadTime n h ∧ st = .late) ∨
          (h.state = .failed ∧ h.failure = some st) →
        ∃ t, exec (.triggerArrival n) s = .next t ∧ (t.station n).triggers = [] ∧
          ((s.chan (.station n)).pendingCompletions ++ [⟨h.index, h.completion st⟩])
            <+: (t.chan (.station n)).pendingCompletions)) ∧
    ((s.station n).state = .parked → (s.station n).triggers.length < 4 →
      ∃ t, exec (.triggerArrival n) s = .next t ∧ (t.station n).state = .waking ∧
        (t.station n).wakeCause = .trigger ∧ (t.station n).power = true ∧
        (t.station n).wakeTimer = some r.clock ∧
        ((s.station n).eligible.length ≤ (s.station n).triggers.length →
          (t.station n).triggers = (s.station n).triggers ++ [entry])) ∧
    (((s.station n).state = .held ∨ (s.station n).state = .fault) →
      (p.skipOnFault = false ∨ (s.station n).eligible = [] →
        exec (.triggerArrival n) s = .next dropped) ∧
      (∀ l rest, p.skipOnFault = true → (s.station n).eligible = l :: rest →
        (s.station n).label? l.ctx = some l →
        ((s.station n).queue.head? = some l → l.state ≠ .composing →
          exec (.triggerArrival n) s = .next (dropped.finishHead n .skipped).finishEvent) ∧
        ((s.station n).queue.head? ≠ some l ∨ l.state = .composing →
          exec (.triggerArrival n) s = .next (dropped.updLabel n l.ctx fun l =>
            { l with mark := some .skipped }).finishEvent))) ∧
    ((s.station n).state ∈ [StationState.idle, .printing, .presenting, .ejecting, .checking,
        .calibrating, .waking, .parked] → 4 ≤ (s.station n).triggers.length →
      ∃ t, exec (.triggerArrival n) s = .next t ∧ (t.station n).state = .fault ∧
        (t.station n).faultCause = .overrun ∧ t.raised (.stationFault n) = true ∧
        (t.station n).triggers = [] ∧ (t.station n).holdPending = false ∧
        (t.station n).motor = false ∧ (t.station n).labelOut = false ∧
        (t.station n).feed = none ∧ (t.station n).drive = none ∧ (t.station n).applyTimer = none ∧
        (t.station n).wakeTimer = none ∧ (t.station n).checkDue = false ∧
        (t.station n).printDeadline = none ∧
        (t.station n).power = (decide ((s.station n).state ∉ [StationState.parked, .waking]) &&
          (s.station n).power) ∧
        (t.station n).registered = (s.station n).registered ∧
        (t.station n).aligned = (decide ((s.station n).state ∉
          [StationState.printing, .presenting, .ejecting]) && (s.station n).aligned) ∧
        (∀ d i, (s.station n).state = .calibrating → s.control.hand = some ⟨d, i, .busy⟩ →
          controlCode d = .calibrate → t.answersAlone .aborted ∧ (t.station n).profile = some p) ∧
        (∀ c, s.check = some c → c.station = n →
          (∀ x, t.check = some x → x.station ≠ n) ∧
          (c.origin = .auto → t.checkPending.get n = true) ∧
          (∀ d i, c.origin = .command → s.control.hand = some ⟨d, i, .busy⟩ →
            controlCode d = .dotcheck → t.answersAlone .aborted)) ∧
        (∀ working, working = (if (s.station n).state ∈ [StationState.printing, .presenting] then 1
            else 0) →
          (p.skipOnFault = true →
            (∀ l ∈ (s.station n).queue.drop working, l.eligible = true ∧ l.state ≠ .composing) →
            (t.chan (.station n)).pendingCompletions = (s.chan (.station n)).pendingCompletions ++
              ((s.station n).queue.take (working + (s.station n).triggers.length + 1)).map fun l =>
                ⟨l.index, l.completion .skipped⟩) ∧
          (p.skipOnFault = true → s.composer.isSome = true →
            ∀ l rest, (s.station n).queue.drop working = l :: rest → l.eligible = true →
              l.state = .composing → { l with mark := some .skipped } ∈ (t.station n).queue) ∧
          (p.skipOnFault = false →
            (t.chan (.station n)).pendingCompletions = (s.chan (.station n)).pendingCompletions ++
              ((s.station n).queue.take working).map (fun l => ⟨l.index, l.completion .skipped⟩) ∧
            (s.composer.isSome = true →
              (t.station n).queue = (s.station n).queue.drop working)))))

/-- The last-start of a paired entry comes: the entry leaves the trigger queue, those behind it moving up, and
only a station that is IDLE may take further entries from the front in the same event, for its starts; a FAILED
head finishes with its own status and any other head that is not COMPOSING with LATE; a label behind the head,
or COMPOSING, is marked LATE. The deadline of an unpaired entry comes: it is removed with CARTON_MISSED and
those behind it move up; a paired entry's deadline does nothing, and that of an absent entry nothing either,
which is the model's reading (log 3). That the clock comes to the deadline is the model's choice (log 2). -/
def Obligations.TriggerExpiries : Prop :=
  (∀ (s : State) (n : StationNo) (k : Nat) (e : Trigger) (t0 : Word) (l : Label), k < 4 →
    (s.station n).triggers[k]? = some e → e.lastStart = some t0 →
    (s.station n).eligible[k]? = some l → (s.station n).label? l.ctx = some l →
    ∃ t, exec (.lastStartExpiry n k) s = .next t ∧
      (∀ rest, (s.station n).queue = l :: rest → l.state ≠ .composing →
        ((s.chan (.station n)).pendingCompletions ++ [⟨l.index, l.completion
            (if l.state = .failed then l.failure.getD .late else .late)⟩])
          <+: (t.chan (.station n)).pendingCompletions) ∧
      (s.quiet = true → ((s.station n).queue.head? ≠ some l ∨ l.state = .composing) →
        { l with mark := some .late } ∈ (t.station n).queue) ∧
      (s.quiet = true →
        (t.station n).triggers <:+ (s.station n).triggers.eraseIdx k ∧
        ((s.station n).state ≠ .idle →
          (t.station n).triggers = (s.station n).triggers.eraseIdx k))) ∧
  (∀ (s : State) (n : StationNo) (k : Nat) (e : Trigger), s.atRest = true → k < 4 →
    (s.station n).triggers[k]? = some e → (s.station n).eligible.length ≤ k →
    exec (.deadlineExpiry n k) s = .next (((s.reachTime e.deadline).updStation n fun t =>
      { t with triggers := t.triggers.eraseIdx k }).raise (.cartonMissed n))) ∧
  (∀ (s : State) (n : StationNo) (k : Nat), k < 4 →
    ((s.station n).triggers.length ≤ k ∨ k < (s.station n).eligible.length) →
    exec (.deadlineExpiry n k) s = .next s)

/-! ### Lines, strobes and edges (R144 to R147, R155, R160, R163 to R172) -/

/-- The start test of a station, and a start. The test waits out of IDLE, without a profile or a label, at a
marked head or one neither READY nor FAILED, and in APPLY mode without a pending entry. Otherwise a READY head
starts, or finishes MEDIA_MISMATCH where its form is longer than the pitch, and a FAILED head finishes with its
failure status; a finish takes the oldest entry with it and the test is made again. A start puts label and
station into PRINTING, takes the oldest entry, whose deadline becomes the print deadline, and begins with the
first printed line where the stock is aligned and with a leading feed where it is not; under hot hold that line
waits. Lines since edge counts from 0 where no edge has registered. -/
def Obligations.PrintStarts : Prop :=
  (∀ t : Station, t.mode? = t.profile.map fun p => p.mode) ∧
  Drive.initial = {
    nextLine := 0, live := [], listPosition := 0, older := [], previous := [], lineDots := [],
    firing := [] } ∧
  (∀ (s : State) (n : StationNo), ((s.station n).state ≠ .idle ∨ (s.station n).profile = none ∨
      (s.station n).queue = [] ∨
      (∃ l rest, (s.station n).queue = l :: rest ∧
        (l.mark ≠ none ∨ (l.state ≠ .ready ∧ l.state ≠ .failed))) ∨
      ((s.station n).mode? = some .apply ∧ (s.station n).triggers = [])) →
    s.startTest n = .wait ∧ s.startStation n = s) ∧
  (∀ (s : State) (n : StationNo) (p : Profile) (l : Label) (rest : List Label),
    (s.station n).state = .idle → (s.station n).profile = some p →
    (s.station n).queue = l :: rest → l.mark = none →
    (p.mode = .stream ∨ (s.station n).triggers ≠ []) →
    (l.state = .ready → s.labelLines l ≤ p.pitch → s.startStation n = s.printStart n l) ∧
    (∀ st, (l.state = .ready ∧ p.pitch < s.labelLines l ∧ st = .mediaMismatch) ∨
        (l.state = .failed ∧ l.failure = some st) →
      s.startStation n = ((s.updStation n fun t =>
        { t with triggers := t.triggers.drop 1 }).finishHead n st).startStation n)) ∧
  (∀ (s : State) (n : StationNo) (p : Profile) (l : Label) (rest : List Label),
    (s.station n).profile = some p → (s.station n).queue = l :: rest →
    (let t := (s.printStart n l).station n
    let since := if (s.station n).registered then (s.station n).sinceEdge else 0
    ((s.station n).thermal.hotHold = true ∨ ((s.station n).mediaPresent = true ∧
        since < p.pitch + p.tolerance) →
      t.state = .printing ∧ t.power = true ∧ t.labelOut = false ∧
      t.triggers = (s.station n).triggers.drop 1 ∧
      t.printDeadline = ((s.station n).triggers.head?.map fun e => e.deadline) ∧
      t.queue.head? = some { l with state := .printing } ∧
      t.registered = (s.station n).registered ∧ t.aligned = (s.station n).aligned) ∧
    ((s.station n).thermal.hotHold = true →
      t.feed = some ⟨if (s.station n).aligned then .printed else .leading, true, p.linePeriod⟩ ∧
      t.motor = false ∧ t.sinceEdge = since ∧ t.drive = some Drive.initial) ∧
    ((s.station n).thermal.hotHold = false → (s.station n).mediaPresent = true →
      since < p.pitch + p.tolerance →
      t.motor = true ∧ t.sinceEdge = since + 1 ∧
      ((s.station n).aligned = false →
        t.feed = some ⟨.leading, false, p.linePeriod⟩ ∧ t.drive = some Drive.initial) ∧
      ((s.station n).aligned = true →
        t.feed.map (fun f => (f.kind, f.paused)) = some (.printed, false) ∧
        t.drive.map (fun d => d.nextLine) = some 1)) ∧
    ((s.station n).thermal.hotHold = false →
      ((s.station n).mediaPresent = false ∨ p.pitch + p.tolerance ≤ since) →
      t.state = .fault ∧ t.faultCause = .mediaFault ∧
      ((s.chan (.station n)).pendingCompletions ++
        [⟨l.index, { l with state := LabelState.printing }.completion .mediaFault⟩])
          <+: ((s.printStart n l).chan (.station n)).pendingCompletions)))

/-- The end of a line of feed and the begin of the next. With the stock present, no hot hold and lines since
edge below the limit, a leading feed goes on until aligned, an eject until its edge, feed to peel from the last
printed line up to its length, a calibration up to line 8400, MOTOR making one step for each; the next printed
line of the form, the first after an aligned leading line (log 12), is rasterised, with the left margin of the
profile as it stands (log 31), and fired for the longer of the nominal period and its busy time. Under hot hold
the next line of PRINTING, of any kind, waits with MOTOR stopped; without stock, and at a step that would pass
the edge limit, a line of PRINTING fails the label with MEDIA_FAULT, and one of EJECTING faults the station
alike. A calibration without stock, and one at line 8400, ends with MEDIA_FAULT and the pitch unchanged, in HELD
where that is the return state or a hold is pending and in IDLE otherwise. After the last line of the feed an
APPLY station presents the label, which takes DEADLINE_OVERRUN where the clock is past the print deadline, and a
STREAM station finishes it PRINTED and comes to rest, in HELD where a hold is pending. -/
def Obligations.LineEnds : Prop :=
  (∀ (s : State) (n : StationNo) (p : Profile) (kind : LineKind) (last : Nat),
    s.atRest = true → (s.station n).profile = some p →
    (s.station n).feed = some ⟨kind, false, last⟩ →
    (∀ next, (s.station n).state = .printing →
      ((kind = .leading ∧ (s.station n).aligned = false ∧ next = .leading) ∨
        ∃ k, kind = .peel k ∧ k < p.feedToPeel ∧ next = .peel (k + 1)) →
      ((s.station n).thermal.hotHold = false → (s.station n).mediaPresent = true →
        (s.station n).sinceEdge < p.pitch + p.tolerance →
        exec (.linePeriodExpiry n) s = .next (s.updStation n fun t =>
          { t with sinceEdge := t.sinceEdge + 1, motor := true,
                   feed := some ⟨next, false, p.linePeriod⟩ })) ∧
      ((s.station n).thermal.hotHold = true →
        exec (.linePeriodExpiry n) s = .next (s.updStation n fun t =>
          { t with feed := some ⟨next, true, p.linePeriod⟩, motor := false }))) ∧
    ((s.station n).state = .ejecting → kind = .eject → (s.station n).mediaPresent = true →
      (s.station n).sinceEdge < p.pitch + p.tolerance →
      exec (.linePeriodExpiry n) s = .next (s.updStation n fun t =>
        { t with sinceEdge := t.sinceEdge + 1, motor := true,
                 feed := some ⟨.eject, false, p.linePeriod⟩ })) ∧
    (((s.station n).mediaPresent = false ∨ p.pitch + p.tolerance ≤ (s.station n).sinceEdge) →
      (((s.station n).state = .ejecting ∧ kind = .eject) ∨
        ((s.station n).state = .printing ∧ (s.station n).thermal.hotHold = false ∧
          ((kind = .leading ∧ (s.station n).aligned = false) ∨
            ∃ k, kind = .peel k ∧ k < p.feedToPeel))) →
      ∃ t, exec (.linePeriodExpiry n) s = .next t ∧ (t.station n).state = .fault ∧
        (t.station n).faultCause = .mediaFault ∧ t.raised (.stationFault n) = true ∧
        (t.station n).registered = false ∧ (t.station n).aligned = false ∧
        (t.station n).motor = false ∧ (t.station n).holdPending = false ∧
        (∀ l rest, (s.station n).state = .printing → (s.station n).queue = l :: rest →
          ((s.chan (.station n)).pendingCompletions ++ [⟨l.index, l.completion .mediaFault⟩])
            <+: (t.chan (.station n)).pendingCompletions)) ∧
    (∀ lines edges, (s.station n).state = .calibrating → kind = .calibrate lines edges →
      ((s.station n).mediaPresent = true → lines < 8400 →
        exec (.linePeriodExpiry n) s = .next (s.updStation n fun t =>
          { t with sinceEdge := t.sinceEdge + 1, motor := true,
                   feed := some ⟨.calibrate (lines + 1) edges, false, p.linePeriod⟩ })) ∧
      (((s.station n).mediaPresent = false ∨ 8400 ≤ lines) →
        ∃ t, exec (.linePeriodExpiry n) s = .next t ∧ (t.station n).profile = some p ∧
          (∀ d i, s.control.hand = some ⟨d, i, .busy⟩ → controlCode d = .calibrate →
            t.answersAlone .mediaFault) ∧
          (((s.station n).holdPending = true ∨ (s.station n).returnState = some .held) →
            (t.station n).state = .held ∧ (t.station n).holdPending = false ∧
            (t.station n).registered = false ∧ (t.station n).aligned = false ∧
            (t.station n).motor = false) ∧
          ((s.station n).holdPending = false → (s.station n).returnState ≠ some .held →
            (s.station n).queue = [] → s.unasked n →
            (t.station n).state = .idle ∧ (t.station n).registered = false ∧
            (t.station n).aligned = false ∧ (t.station n).motor = false)))) ∧
  (∀ (s : State) (n : StationNo) (p : Profile) (l : Label) (rest : List Label) (d : Drive)
    (last : Nat),
    s.atRest = true → (s.station n).profile = some p → (s.station n).queue = l :: rest →
    (s.station n).drive = some d → d.firing = [] → (s.station n).state = .printing →
    (((s.station n).feed = some ⟨.printed, false, last⟩ ∨
        ((s.station n).feed = some ⟨.leading, false, last⟩ ∧ (s.station n).aligned = true)) →
      d.nextLine < s.labelLines l →
      ((s.station n).thermal.hotHold = false → (s.station n).mediaPresent = true →
        (s.station n).sinceEdge < p.pitch + p.tolerance →
        exec (.linePeriodExpiry n) s = .next (s.updStation n fun t =>
          { t with
            sinceEdge := t.sinceEdge + 1, motor := true, drive := some (s.rasterise n p l d),
            feed := some ⟨.printed, false, max p.linePeriod
              (((s.rasterise n p l d).firing.map fun x => x.width).sum + 30)⟩ })) ∧
      ((s.station n).thermal.hotHold = true →
        exec (.linePeriodExpiry n) s = .next (s.updStation n fun t =>
          { t with feed := some ⟨.printed, true, p.linePeriod⟩, motor := false })) ∧
      ((s.station n).thermal.hotHold = false →
        ((s.station n).mediaPresent = false ∨
          p.pitch + p.tolerance ≤ (s.station n).sinceEdge) →
        ∃ t, exec (.linePeriodExpiry n) s = .next t ∧ (t.station n).state = .fault ∧
          (t.station n).faultCause = .mediaFault ∧ t.raised (.stationFault n) = true ∧
          (t.station n).registered = false ∧ (t.station n).aligned = false ∧
          ((s.chan (.station n)).pendingCompletions ++
            [⟨l.index, l.completion .mediaFault⟩])
              <+: (t.chan (.station n)).pendingCompletions)) ∧
    ((s.station n).feed = some ⟨.printed, false, last⟩ → s.labelLines l ≤ d.nextLine →
      0 < p.feedToPeel →
      ((s.station n).thermal.hotHold = false → (s.station n).mediaPresent = true →
        (s.station n).sinceEdge < p.pitch + p.tolerance →
        exec (.linePeriodExpiry n) s = .next (s.updStation n fun t =>
          { t with sinceEdge := t.sinceEdge + 1, motor := true,
                   feed := some ⟨.peel 1, false, p.linePeriod⟩ })) ∧
      ((s.station n).thermal.hotHold = true →
        exec (.linePeriodExpiry n) s = .next (s.updStation n fun t =>
          { t with feed := some ⟨.peel 1, true, p.linePeriod⟩, motor := false })) ∧
      ((s.station n).thermal.hotHold = false →
        ((s.station n).mediaPresent = false ∨
          p.pitch + p.tolerance ≤ (s.station n).sinceEdge) →
        ∃ t, exec (.linePeriodExpiry n) s = .next t ∧ (t.station n).state = .fault ∧
          (t.station n).faultCause = .mediaFault ∧ t.raised (.stationFault n) = true ∧
          (t.station n).registered = false ∧ (t.station n).aligned = false ∧
          ((s.chan (.station n)).pendingCompletions ++
            [⟨l.index, l.completion .mediaFault⟩])
              <+: (t.chan (.station n)).pendingCompletions)) ∧
    (((s.station n).feed = some ⟨.peel p.feedToPeel, false, last⟩ ∨
        ((s.station n).feed = some ⟨.printed, false, last⟩ ∧ s.labelLines l ≤ d.nextLine ∧
          p.feedToPeel = 0)) →
      ∃ t, exec (.linePeriodExpiry n) s = .next t ∧
        (p.mode = .apply → (t.station n).state = .presenting ∧ (t.station n).labelOut = true ∧
          (t.station n).aligned = true ∧ (t.station n).motor = false ∧
          (t.station n).applyTimer = some s.clock ∧
          ((t.station n).queue.head?.map fun x => (x.state, x.warnings)) =
            some (.presenting, { l.warnings with
              deadlineOverrun := l.warnings.deadlineOverrun ||
                ((s.station n).printDeadline.any fun dl =>
                  decide (dl ≠ s.clock) && decide ((s.clock - dl).toNat < 2 ^ 31)) })) ∧
        (p.mode = .stream →
          ((s.chan (.station n)).pendingCompletions ++ [⟨l.index, l.completion .printed⟩])
            <+: (t.chan (.station n)).pendingCompletions ∧
          ((s.station n).holdPending = true →
            (t.station n).state = .held ∧ (t.station n).holdPending = false ∧
            (t.station n).aligned = true ∧ (t.station n).motor = false) ∧
          ((s.station n).holdPending = false → rest = [] → s.unasked n →
            (t.station n).state = .idle ∧ (t.station n).aligned = true ∧
            (t.station n).motor = false))))

/-- A printed line at the drive. The live set loses the entries that end above the line and takes those of the
sorted list that begin with it; the line's dots are the head elements, the left margin on and below the dot
count, whose form dot a live entry sets, in ascending order; a line with dots is to fire its sub-phases, and one
without moves the history on at once. A BAR or RULE sets every dot of its box, a GLYPH those whose bit of the
bitmap is set, its row and column turned in ROT90; the bitmap is read from the body that its glyph body item
names, that entry of the label's pinned bodies. -/
def Obligations.LinesRastered : Prop :=
  (∀ (s : State) (l : Label) (k h v : Nat), l.pinned[k]? = some (h, v) →
    s.glyphContents l k = s.versionContent h v) ∧
  (∀ (s : State) (n : StationNo) (p : Profile) (l : Label) (d : Drive),
    (s.entries l.elementBlocks (l.elementCount.getD 0)).Pairwise (fun a b => a.top ≤ b.top) →
    0 < p.maxDots →
    (let r := s.rasterise n p l d
    let list := s.entries l.elementBlocks (l.elementCount.getD 0)
    r.nextLine = d.nextLine + 1 ∧
    (∀ x, x ∈ r.live ↔ (x ∈ d.live ∧ d.nextLine ≤ x.top + x.lines - 1) ∨
      (x ∈ list.drop d.listPosition ∧ x.top = d.nextLine)) ∧
    r.listPosition = d.listPosition +
      ((list.drop d.listPosition).filter fun x => decide (x.top ≤ d.nextLine)).length ∧
    ∃ dots : List Nat, dots.Pairwise (fun a b => a < b) ∧
      (∀ e, e ∈ dots ↔ e < (s.station n).dotCount ∧ p.leftMargin ≤ e ∧
        ∃ x ∈ r.live, x.setsDot (s.glyphContents l) d.nextLine (e - p.leftMargin) = true) ∧
      (dots ≠ [] → r.lineDots = dots ∧ r.previous = d.previous ∧ r.older = d.older ∧
        r.firing = subPhases p (s.station n).thermal.band (formDarkness (s.formContent l))
          d.previous d.older dots) ∧
      (dots = [] → r.lineDots = [] ∧ r.firing = [] ∧ r.previous = [] ∧ r.older = d.previous))) ∧
  (∀ (glyphs : Nat → Reader) (x : Element) (line dot : Nat),
    (x.kind ≠ .glyph → (x.setsDot glyphs line dot = true ↔
      x.left ≤ dot ∧ dot < x.left + x.dots)) ∧
    (x.kind = .glyph → x.rot90 = false → (x.setsDot glyphs line dot = true ↔
      (x.left ≤ dot ∧ dot < x.left + x.dots) ∧
        bitmapBit (glyphs x.glyphBody) x (line - x.cellTop) (dot - x.cellLeft) = true)) ∧
    (x.kind = .glyph → x.rot90 = true → (x.setsDot glyphs line dot = true ↔
      (x.left ≤ dot ∧ dot < x.left + x.dots) ∧
        bitmapBit (glyphs x.glyphBody) x (x.cellLeft + x.height - 1 - dot) (line - x.cellTop)
          = true)))

/-- The end of a strobe sub-phase: the next of the line is fired, and after the last the heat history moves on,
the line's dots becoming the previous line's and those the older line's; with nothing being fired nothing
changes, which is the model's reading (log 3). The class of a dot is read from the two lines before its own, its
strobe time is the table's by (16 + darkness) / 16 rounded down, each sub-phase fires at most max dots, and the
classes fire in the order BOTH, PREV_ONLY, OLDER_ONLY, NEITHER, the elements of each in ascending order. A class
of k dots has as many sub-phases as k / max dots rounded up, none without a dot; each but the last fires exactly max
dots, and sub-phase j the elements from place j x max dots of the class on. -/
def Obligations.StrobeHistory : Prop :=
  [HistoryClass.both, .prevOnly, .olderOnly, .neither].map HistoryClass.code = [0, 1, 2, 3] ∧
  [Band.normal, .warm, .cold].map Band.code = [0, 1, 2] ∧
  (∀ (s : State) (n : StationNo),
    exec (.strobeSubphaseEnd n) s = .next (s.updStation n fun t =>
      { t with drive := t.drive.map Drive.fireNext })) ∧
  (∀ d : Drive, d.firing = [] → d.fireNext = d) ∧
  (∀ (d : Drive) (x : SubPhase), d.firing = [x] → d.fireNext =
    { d with older := d.previous, previous := d.lineDots, lineDots := [], firing := [] }) ∧
  (∀ (d : Drive) (x y : SubPhase) (rest : List SubPhase), d.firing = x :: y :: rest →
    d.fireNext = { d with firing := y :: rest }) ∧
  (∀ (previous older : List Nat) (e : Nat),
    historyClass previous older e =
      if e ∈ previous then (if e ∈ older then .both else .prevOnly)
      else (if e ∈ older then .olderOnly else .neither)) ∧
  (∀ (p : Profile) (band : Band) (darkness : Int) (c : HistoryClass),
    strobeWidth p band darkness c
      = p.strobe.getD (3 * c.code + band.code) 0 * (16 + darkness).toNat / 16) ∧
  (∀ (p : Profile) (band : Band) (darkness : Int) (previous older dots : List Nat),
    0 < p.maxDots →
    (∀ x ∈ subPhases p band darkness previous older dots,
      x.dots ≠ [] ∧ x.dots.length ≤ p.maxDots ∧
      ∃ c, x.width = strobeWidth p band darkness c ∧
        ∀ e ∈ x.dots, e ∈ dots ∧ historyClass previous older e = c) ∧
    (((subPhases p band darkness previous older dots).map fun x => x.dots).flatten).Perm dots ∧
    (dots.Pairwise (fun a b => a < b) →
      (((subPhases p band darkness previous older dots).map fun x => x.dots).flatten).Pairwise
        fun a b =>
          (historyClass previous older a).code < (historyClass previous older b).code ∨
          (historyClass previous older a = historyClass previous older b ∧ a < b)) ∧
    subPhases p band darkness previous older dots
      = ([HistoryClass.both, .prevOnly, .olderOnly, .neither].map fun c =>
          let ds := dots.filter fun e => historyClass previous older e == c
          (List.range ((ds.length + p.maxDots - 1) / p.maxDots)).map fun k =>
            (⟨(ds.drop (p.maxDots * k)).take p.maxDots, strobeWidth p band darkness c⟩
              : SubPhase)).flatten ∧
    ∀ c, let ds := dots.filter fun e => historyClass previous older e == c
      ∀ k, k + 1 < (ds.length + p.maxDots - 1) / p.maxDots →
        ((ds.drop (p.maxDots * k)).take p.maxDots).length = p.maxDots)

/-- A label edge. Calibration: the first edge sets lines since edge to 0, the second ends it with the count as the
pitch, in 16..4200, with registered and aligned set, and with MEDIA_FAULT outside, with both clear, in HELD where
that is the return state or a hold is pending and in IDLE otherwise. An edge taken while MOTOR is stopped changes
nothing. That lines since edge counts afresh from the second edge is the model's (log 13). Otherwise an edge is
good when none was registered or the count lies within the tolerance of the pitch: the count becomes 0 and a
leading feed is aligned at once, while its line runs on, which is the model's reading (log 12); an edge below the
window is a media fault; a good edge ends an eject with the stock aligned, in HELD where that is the return state
or a hold is pending, and in IDLE otherwise. -/
def Obligations.GapEdges : Prop :=
  (∀ (s : State) (n : StationNo), s.enter n .idle = s.updStation n fun t => { t with
    state := .idle, power := true, motor := false, feed := none, drive := none,
    parkTimer := none, wakeTimer := none, applyTimer := none, labelOut := false,
    checkDue := false, returnState := none, printDeadline := none }) ∧
  (∀ (s : State) (n : StationNo), ((s.station n).feed = none ∨
      (∃ k last, (s.station n).feed = some ⟨k, true, last⟩) ∨
      (s.lanesLegal = true ∧ (s.station n).motor = false)) →
    exec (.gapEdge n) s = .next s) ∧
  ∀ (s : State) (n : StationNo) (p : Profile) (kind : LineKind) (last : Nat),
    s.atRest = true → (s.station n).profile = some p →
    (s.station n).feed = some ⟨kind, false, last⟩ →
    (∀ lines, (s.station n).state = .calibrating → kind = .calibrate lines 0 →
      exec (.gapEdge n) s = .next (s.updStation n fun t =>
        { t with sinceEdge := 0, feed := some ⟨.calibrate lines 1, false, last⟩ })) ∧
    (∀ lines d i, (s.station n).state = .calibrating → kind = .calibrate lines 1 →
      s.control.hand = some ⟨d, i, .busy⟩ → controlCode d = .calibrate →
      ∃ t, exec (.gapEdge n) s = .next t ∧
        (if 16 ≤ (s.station n).sinceEdge ∧ (s.station n).sinceEdge ≤ 4200 then
          t.answers .ok ∧
          (t.station n).profile = some { p with pitch := (s.station n).sinceEdge } ∧
          (t.controlAnswer?.map fun b => le16 (listReader b) 8)
            = some (s.station n).sinceEdge ∧
          t.controlAnswer? = some (byte Status.ok.code :: List.replicate 7 0 ++
            [byte (s.station n).sinceEdge, byte ((s.station n).sinceEdge / 256)] ++
            List.replicate 21 0)
        else
          t.answersAlone .mediaFault ∧ (t.station n).profile = some p) ∧
        (let good := decide (16 ≤ (s.station n).sinceEdge ∧ (s.station n).sinceEdge ≤ 4200)
        ((s.station n).holdPending = true ∨ (s.station n).returnState = some .held →
          (t.station n).state = .held ∧ (t.station n).holdPending = false ∧
          (t.station n).registered = good ∧ (t.station n).aligned = good ∧
          (t.station n).motor = false) ∧
        ((s.station n).holdPending = false → (s.station n).returnState ≠ some .held →
          (∃ u : State, t = (u.enter n .idle).finishEvent ∧ u.station n = { s.station n with
            profile := (t.station n).profile, registered := good, aligned := good,
            sinceEdge := if good then 0 else (s.station n).sinceEdge }) ∧
          ((s.station n).queue = [] → s.unasked n →
            (t.station n).state = .idle ∧ (t.station n).power = true ∧
            (t.station n).registered = good ∧ (t.station n).aligned = good ∧
            (t.station n).motor = false)))) ∧
    ((s.station n).state = .printing →
      ((s.station n).registered = false ∨ (p.pitch - p.tolerance ≤ (s.station n).sinceEdge ∧
        (s.station n).sinceEdge ≤ p.pitch + p.tolerance)) →
      (kind = .leading → exec (.gapEdge n) s = .next (s.updStation n fun t =>
        { t with sinceEdge := 0, registered := true, aligned := true })) ∧
      ((kind = .printed ∨ ∃ k, kind = .peel k) →
        exec (.gapEdge n) s = .next (s.updStation n fun t =>
          { t with sinceEdge := 0, registered := true }))) ∧
    ((s.station n).state = .ejecting → kind = .eject →
      ((s.station n).registered = false ∨ (p.pitch - p.tolerance ≤ (s.station n).sinceEdge ∧
        (s.station n).sinceEdge ≤ p.pitch + p.tolerance)) →
      (((s.station n).holdPending = true ∨ (s.station n).returnState = some .held) →
        ∃ t, exec (.gapEdge n) s = .next t ∧ (t.station n).state = .held ∧
          (t.station n).holdPending = false ∧ (t.station n).triggers = [] ∧
          (t.station n).aligned = true ∧ (t.station n).registered = true ∧
          (t.station n).sinceEdge = 0 ∧ (t.station n).motor = false) ∧
      ((s.station n).holdPending = false → (s.station n).returnState ≠ some .held →
        exec (.gapEdge n) s = .next ((s.updStation n fun t =>
          { t with sinceEdge := 0, registered := true, aligned := true }).enter n .idle).finishEvent ∧
        ((s.station n).queue = [] → s.unasked n →
          ∃ t, exec (.gapEdge n) s = .next t ∧ (t.station n).state = .idle ∧
            (t.station n).power = true ∧ (t.station n).triggers = (s.station n).triggers ∧
            (t.station n).aligned = true ∧ (t.station n).registered = true ∧
            (t.station n).sinceEdge = 0 ∧ (t.station n).motor = false))) ∧
    (((s.station n).state = .printing ∨ (s.station n).state = .ejecting) →
      (∀ lines edges, kind ≠ .calibrate lines edges) → (s.station n).registered = true →
      (s.station n).sinceEdge < p.pitch - p.tolerance →
      ∃ t, exec (.gapEdge n) s = .next t ∧ (t.station n).state = .fault ∧
        (t.station n).faultCause = .mediaFault ∧ t.raised (.stationFault n) = true ∧
        (t.station n).registered = false ∧ (t.station n).aligned = false)

/-! ### Stock, applicator, head and timers (R146, R148 to R150, R157, R158, R184, R185) -/

/-- The stock runs out under a line of PRINTING or EJECTING: FAULT with cause MEDIA_FAULT, in the event of the
fall, which is the model's reading (log 29). In PRESENTING the first of APPLIED and the apply timeout decides:
APPLIED finishes the label APPLIED and the station rests, in HELD where a hold is pending; the timeout finishes
it APPLY_TIMEOUT in FAULT. In any other state APPLIED is ignored, and APPLY_TIMEOUT does nothing, which is the
model's reading (log 3). -/
def Obligations.StockAndApplicator : Prop :=
  (∀ t : Station, t.feedsLabel = true ↔ (t.state = .printing ∨ t.state = .ejecting) ∧
    ∃ k last, t.feed = some ⟨k, false, last⟩) ∧
  (∀ (s : State) (n : StationNo), (s.station n).mediaPresent = true →
    (s.station n).feedsLabel = true →
    ∃ t, exec (.mediaPresentFall n false) s = .next t ∧ (t.station n).state = .fault ∧
      (t.station n).faultCause = .mediaFault ∧ t.raised (.stationFault n) = true ∧
      (t.station n).registered = false ∧ (t.station n).aligned = false ∧
      (t.station n).mediaPresent = false ∧ (t.station n).mediaLatch = false ∧
      (∀ l rest, (s.station n).state = .printing → (s.station n).queue = l :: rest →
        ((s.chan (.station n)).pendingCompletions ++ [⟨l.index, l.completion .mediaFault⟩])
          <+: (t.chan (.station n)).pendingCompletions)) ∧
  (∀ (s : State) (n : StationNo) (l : Label) (rest : List Label),
    (s.station n).state = .presenting → (s.station n).queue = l :: rest →
    (∃ t, exec (.applied n) s = .next t ∧ (t.station n).labelOut = false ∧
      (t.station n).applyTimer = none ∧
      ((s.chan (.station n)).pendingCompletions ++ [⟨l.index, l.completion .applied⟩])
        <+: (t.chan (.station n)).pendingCompletions ∧
      ((s.station n).holdPending = true →
        (t.station n).state = .held ∧ (t.station n).holdPending = false) ∧
      ((s.station n).holdPending = false → rest = [] → s.unasked n →
        (t.station n).state = .idle)) ∧
    (∀ t0 p, (s.station n).applyTimer = some t0 → (s.station n).profile = some p →
      ∃ t, exec (.applyTimeout n) s = .next t ∧ (t.station n).state = .fault ∧
        (t.station n).faultCause = .applyTimeout ∧ t.raised (.stationFault n) = true ∧
        (t.station n).holdPending = false ∧ (t.station n).triggers = [] ∧
        (t.station n).labelOut = false ∧
        ((s.chan (.station n)).pendingCompletions ++ [⟨l.index, l.completion .applyTimeout⟩])
          <+: (t.chan (.station n)).pendingCompletions)) ∧
  (∀ (s : State) (n : StationNo), (s.station n).state ≠ .presenting →
    exec (.applied n) s = .next s ∧ exec (.applyTimeout n) s = .next s)

/-- HEAD_OPEN: becoming active it is not acted on in OFFLINE and puts the station into FAULT in every other
state, finishing a label that prints or presents with HEAD_OPEN, ending a calibration with HEAD_OPEN, a commanded
check with ABORTED and an automatic one without a new request; head power goes OFF from PARKED and WAKING and stays
as it was otherwise; becoming inactive it sets the
automatic dot check request where the profile asks for it, and changes nothing else where it does not. -/
def Obligations.HeadOpenAndClosed : Prop :=
  (∀ t : Station, t.asksCheck = true ↔ ∃ p, t.profile = some p ∧ p.autoCheck = true) ∧
  (∀ (s : State) (n : StationNo), (s.station n).headOpen = false →
    ((s.station n).state = .offline →
      exec (.headOpenActive n) s = .next (s.updStation n fun t => { t with headOpen := true })) ∧
    ((s.station n).state ≠ .offline →
      ∃ t, exec (.headOpenActive n) s = .next t ∧ (t.station n).state = .fault ∧
        (t.station n).faultCause = .headOpen ∧ t.raised (.stationFault n) = true ∧
        (t.station n).headOpen = true ∧ (t.station n).registered = false ∧
        (t.station n).aligned = false ∧ (t.station n).holdPending = false ∧
        (t.station n).triggers = [] ∧ (t.station n).motor = false ∧
        (t.station n).labelOut = false ∧
        (∀ d i, (s.station n).state = .calibrating → s.control.hand = some ⟨d, i, .busy⟩ →
          controlCode d = .calibrate → t.answersAlone .headOpen) ∧
        (∀ c d i, s.check = some c → c.station = n → c.origin = .command →
          s.control.hand = some ⟨d, i, .busy⟩ → controlCode d = .dotcheck →
          t.answersAlone .aborted) ∧
        (∀ c, t.check = some c → c.station ≠ n) ∧
        t.checkPending.get n = s.checkPending.get n ∧
        (t.station n).power = (decide ((s.station n).state ∉ [StationState.parked, .waking]) &&
          (s.station n).power) ∧
        (t.station n).feed = none ∧ (t.station n).drive = none ∧ (t.station n).applyTimer = none ∧
        (t.station n).wakeTimer = none ∧ (t.station n).checkDue = false ∧
        (t.station n).printDeadline = none ∧
        (∀ l rest, (s.station n).state ∈ [StationState.printing, .presenting] →
          (s.station n).queue = l :: rest →
          ((s.chan (.station n)).pendingCompletions ++ [⟨l.index, l.completion .headOpen⟩])
            <+: (t.chan (.station n)).pendingCompletions))) ∧
  (∀ (s : State) (n : StationNo), (s.station n).headOpen = true →
    ((s.station n).asksCheck = false →
      exec (.headOpenInactive n) s = .next (s.updStation n fun t =>
        { t with headOpen := false })) ∧
    ((s.station n).asksCheck = true → (s.station n).state ∈ [StationState.fault, .offline] →
      ∃ t, exec (.headOpenInactive n) s = .next t ∧ t.checkPending.get n = true ∧
        (t.station n).headOpen = false ∧ (t.station n).state = (s.station n).state))

/-- The park timer, the settle time of a wake and the settle time of the DCU: PARKED with head power OFF;
IDLE, or CHECKING with return state IDLE where a check is due, which then measures; the DCU measures. That the
clock comes to each expiry is the model's (log 2). -/
def Obligations.TimerExpiries : Prop :=
  (∀ (s : State) (n : StationNo) (t0 : Word) (p : Profile),
    (s.station n).parkTimer = some t0 → (s.station n).profile = some p →
    (s.station n).state = .idle → (s.station n).queue = [] →
    ∃ t, exec (.parkTimerExpiry n) s = .next t ∧
      t.clock = (s.reachTime (t0 + BitVec.ofNat 32 (1000 * p.parkDelay))).clock ∧
      (s.unasked n → (t.station n).state = .parked ∧ (t.station n).power = false ∧
        (t.station n).parkTimer = none ∧ (t.station n).triggers = (s.station n).triggers)) ∧
  (∀ (s : State) (n : StationNo) (t0 : Word),
    (s.station n).wakeTimer = some t0 → (s.station n).state = .waking →
    ((s.station n).checkDue = false →
      ∃ t, exec (.wakeSettleExpiry n) s = .next t ∧
        t.clock = (s.reachTime (t0 + 30)).clock ∧
        ((s.station n).queue = [] → s.unasked n →
          (t.station n).state = .idle ∧ (t.station n).power = true)) ∧
    ((s.station n).checkDue = true → ∀ c, s.check = some c → c.station = n →
      ∃ t, exec (.wakeSettleExpiry n) s = .next t ∧ (t.station n).state = .checking ∧
        (t.station n).returnState = some .idle ∧ (t.station n).checkDue = false ∧
        t.check = some { c with phase := .measuring })) ∧
  (∀ (s : State) (c : Check) (t0 : Word), s.check = some c → c.settleTimer = some t0 →
    c.phase = .settling →
    exec .dcuSettleExpiry s = .next { s.reachTime (t0 + 30) with
      check := some { c with phase := .measuring, settleTimer := none } })

/-! ### Dot check and thermal sample (R175 to R178, R187, R188) -/

/-- A measurement: the class of the reading, the count and the list of at most 8 failed elements; the last
element replaces the station's map and summary, count and list, raises DOTCHECK_DONE and answers a DOTCHECK
with the count and the failed elements, three bytes for each; the station goes to its return state and the DCU is
IDLE, but for a pending automatic request that its service test takes up in the same event. -/
def Obligations.ElementMeasured : Prop :=
  (∀ r : Byte, classOf r =
    if r.toNat ≤ 47 then .short else if r.toNat ≤ 207 then .good else .open) ∧
  [DotClass.good, .open, .short].map DotClass.code = [0, 1, 2] ∧
  (∀ (s : State) (c : Check) (r : Byte), s.check = some c → c.phase = .measuring →
    c.next + 1 < (s.station c.station).dotCount →
    exec (.elementMeasurementEnd r) s = .next { s with check := some { c with
      map := c.map ++ [(classOf r, r)], next := c.next + 1,
      count := if classOf r = .good then c.count else c.count + 1,
      dots := if classOf r ≠ .good ∧ c.dots.length < 8 then c.dots ++ [⟨c.next, classOf r, r⟩]
        else c.dots } }) ∧
  (∀ (s : State) (c : Check) (r : Byte), s.check = some c → c.phase = .measuring →
    (s.station c.station).dotCount ≤ c.next + 1 →
    (let count := if classOf r = .good then c.count else c.count + 1
    let dots := if classOf r ≠ .good ∧ c.dots.length < 8 then c.dots ++ [⟨c.next, classOf r, r⟩]
      else c.dots
    ∃ t, exec (.elementMeasurementEnd r) s = .next t ∧
      t.raised (.dotcheckDone c.station) = true ∧
      (t.station c.station).map = c.map ++ [(classOf r, r)] ∧
      (t.station c.station).summary = ⟨count, dots⟩ ∧
      ((s.station c.station).returnState = some .held → (t.station c.station).state = .held) ∧
      ((s.station c.station).returnState ≠ some .held →
        (s.station c.station).holdPending = false → (s.station c.station).queue = [] →
        s.unasked c.station →
        (t.station c.station).state = .idle ∧ (t.station c.station).power = true) ∧
      ((∀ m, s.unasked m) → t.check = none) ∧
      (∀ x, t.check = some x → s.checkPending.get x.station = true ∧ x.origin = .auto ∧
        x.next = 0 ∧ x.count = 0 ∧ x.dots = [] ∧ x.map = []) ∧
      (∀ d i, c.origin = .command → s.control.hand = some ⟨d, i, .busy⟩ →
        controlCode d = .dotcheck → t.answers .ok ∧ ∃ a, t.controlAnswer? = some a ∧
          a.length = 31 ∧ (∀ j ∈ [1, 2, 3], a.getD j 0 = 0) ∧
          le16 (listReader a) 4 = count % 65536 ∧
          (∀ j x, j < 8 → dots[j]? = some x →
            a.getD (6 + 3 * j) 0 = x.reading ∧ a.getD (7 + 3 * j) 0 = byte x.element ∧
            a.getD (8 + 3 * j) 0 = byte (x.element / 256 % 4 + 16 * x.cls.code)) ∧
          (∀ j, 6 + 3 * dots.length ≤ j → a.getD j 0 = 0))))

/-- A thermal sample: the temperature taken as 0..127, the limit that has the turn where it is valid and not
frozen and else the other; its verdict by direction and threshold; frozen, with THERM raised, where it is
crossed and reports; the turn passes to the other limit and the timer restarts. With no such limit the timer
stops. The bands follow the verdicts, and hot hold is any valid crossed limit with that action: where the sample
ends it, a line that it paused begins in the same event, and where it lasts the line waits on. That the clock
comes to the sample time is the model's (log 2). -/
def Obligations.ThermalSampled : Prop :=
  (∀ (s : State) (n : StationNo) (deg : Int) (t0 : Word) (iv : Nat),
    (s.station n).thermal.timer = some t0 → (s.station n).thermal.interval = some iv →
    (let r := s.reachTime (t0 + BitVec.ofNat 32 iv)
    let temp := (min (max deg 0) 127).toNat
    let th := (s.station n).thermal
    (∀ w, th.pick = some w → ∃ t, exec (.thermalSample n deg) s = .next t ∧
      t.clock = r.clock ∧
      (w = .limA → (t.station n).thermal =
        { th with limA := th.limA.sample temp, turn := .limB, timer := some r.clock }) ∧
      (w = .limB → (t.station n).thermal =
        { th with limB := th.limB.sample temp, turn := .limA, timer := some r.clock }) ∧
      (((th.limit w).sample temp).frozen = true → t.raised (.therm n) = true) ∧
      (((th.limit w).sample temp).frozen = false →
        t.raised (.therm n) = s.raised (.therm n)) ∧
      (∀ p k last, (s.station n).profile = some p → (s.station n).state = .printing →
        (s.station n).feed = some ⟨k, true, last⟩ →
        ((t.station n).thermal.hotHold = true →
          (t.station n).feed = some ⟨k, true, last⟩ ∧
          (t.station n).sinceEdge = (s.station n).sinceEdge) ∧
        ((t.station n).thermal.hotHold = false → (s.station n).mediaPresent = true →
          (s.station n).sinceEdge < p.pitch + p.tolerance →
          (t.station n).motor = true ∧
          (t.station n).sinceEdge = (s.station n).sinceEdge + 1 ∧
          (t.station n).feed.map (fun f => (f.kind, f.paused)) = some (k, false)))) ∧
    (th.pick = none → exec (.thermalSample n deg) s = .next (r.updStation n fun st =>
      { st with thermal := { th with timer := none } })))) ∧
  (∀ th : Thermal,
    (th.pick = some .limA ↔ (th.limA.valid = true ∧ th.limA.frozen = false) ∧
      (th.turn = .limA ∨ ¬(th.limB.valid = true ∧ th.limB.frozen = false))) ∧
    (th.pick = some .limB ↔ (th.limB.valid = true ∧ th.limB.frozen = false) ∧
      (th.turn = .limB ∨ ¬(th.limA.valid = true ∧ th.limA.frozen = false)))) ∧
  (∀ th : Thermal, th.limit .limA = th.limA ∧ th.limit .limB = th.limB) ∧
  (∀ (l : Limit) (temp : Nat), l.sample temp =
    { l with
      crossed := if l.direction = 1 then decide (temp < l.threshold)
        else decide (l.threshold < temp),
      verdictValid := true,
      frozen := (if l.direction = 1 then decide (temp < l.threshold)
        else decide (l.threshold < temp)) && l.report }) ∧
  (∀ th : Thermal, th.band =
    if (th.limA.valid ∧ th.limA.crossed ∧ th.limA.action = 1) ∨
        (th.limB.valid ∧ th.limB.crossed ∧ th.limB.action = 1) then .warm
    else if (th.limA.valid ∧ th.limA.crossed ∧ th.limA.action = 2) ∨
        (th.limB.valid ∧ th.limB.crossed ∧ th.limB.action = 2) then .cold
    else .normal) ∧
  (∀ th : Thermal, th.hotHold = true ↔
    (th.limA.valid = true ∧ th.limA.crossed = true ∧ th.limA.action = 3) ∨
    (th.limB.valid = true ∧ th.limB.crossed = true ∧ th.limB.action = 3))

/-! ### The pool and the counters (R32, R35, R77, R78) -/

/-- The Block Pool: a request is granted whole from the front of the free list or refused whole, and a freeing
adds the blocks to its back in their order. -/
def Obligations.PoolAllocatesWhole : Prop :=
  (∀ (s : State) (count : Nat), count ≤ s.free.length →
    ∃ blocks t, s.allocate count = some (blocks, t) ∧ blocks.length = count ∧
      blocks ++ t.free = s.free ∧ t = { s with free := t.free }) ∧
  (∀ (s : State) (count : Nat), s.free.length < count → s.allocate count = none) ∧
  (∀ (s : State) (blocks : List Nat),
    s.freeBlocks blocks = { s with free := s.free ++ blocks })

/-- A counter draw, with digits in 1..12 and the value below 10 to that power: the drawn string is the value in
decimal with leading zeros, and a check digit under WEIGHTED; the value advances by the step, and past high
becomes low under WRAP, or stays with exhausted SET under HALT. The draw writes the value, two digits to a byte,
and the exhausted flag into the counter's current body, and releases one pin of it, with the record FREE and
RECORD_FREED raised where it is RETIRING and the pin was its last. -/
def Obligations.CounterDraw : Prop :=
  (∀ (rd : Reader), 1 ≤ ctrDigits rd → ctrDigits rd ≤ 12 → ctrValue rd < 10 ^ ctrDigits rd →
    (drawString rd).length = ctrDigits rd + (if ctrWeighted rd then 1 else 0) ∧
    (∀ j, j < ctrDigits rd → (drawString rd).getD j 0
      = byte (0x30 + ctrValue rd / 10 ^ (ctrDigits rd - 1 - j) % 10)) ∧
    (ctrWeighted rd = true → (drawString rd).getD (ctrDigits rd) 0
      = byte (0x30 + (10 - ((List.range (ctrDigits rd)).map fun j =>
          ctrValue rd / 10 ^ j % 10
            * (ctrWeights rd).getD (j % (ctrWeights rd).length) 0).sum % 10) % 10))) ∧
  (∀ rd : Reader, drawAdvance rd =
    if ctrValue rd + ctrStep rd ≤ ctrHigh rd then (ctrValue rd + ctrStep rd, ctrExhausted rd)
    else if ctrHalt rd then (ctrValue rd, true) else (ctrLow rd, ctrExhausted rd)) ∧
  (∀ (s : State) (h blk : Nat) (b : Body), s.canonical = true →
    (s.record h).current = some b → b.blocks[0]? = some blk →
    (let rd := s.content b.blocks
    let t := (s.drawOne h).1
    (s.drawOne h).2 = drawString rd ∧
    (∀ j, j < 6 → t.readByte (256 * blk + 16 + j)
      = byte ((drawAdvance rd).1 / 100 ^ j % 10
          + 16 * ((drawAdvance rd).1 / 100 ^ j / 10 % 10))) ∧
    t.readByte (256 * blk + 2) = (if (drawAdvance rd).2 then 1 else 0) ∧
    (∀ a, a ≠ 256 * blk + 2 → (a < 256 * blk + 16 ∨ 256 * blk + 22 ≤ a) →
      t.readByte a = s.readByte a) ∧
    ((s.record h).state ≠ .retiring ∨ 0 < b.pins - 1 + bodyPins (s.record h).prior →
      t.record h = { s.record h with current := some { b with pins := b.pins - 1 } } ∧
      s.SameRecordsBut t h ∧ t.free = s.free ∧ t.eventStatus = s.eventStatus) ∧
    ((s.record h).state = .retiring → b.pins - 1 + bodyPins (s.record h).prior = 0 →
      t.record h = Record.empty ∧ t.raised .recordFreed = true ∧
      t.free = s.free ++ b.blocks ++ ((s.record h).prior.elim [] fun x => x.blocks))))

end
end

