-- ==== Sys2Proof/Laws/HeadDrive.lean ====
section
/-! SUPPORT. The split of a class of dots into its sub-phases, part by part (R169). -/

namespace Sys2Proof.Machine

/-- A list cut into parts of at most m: part k holds the elements from place m × k on, and there are as many parts
as the length over m, rounded up. -/
theorem chunks_eq (m : Nat) (hm : 0 < m) : ∀ (r : Nat) (l : List Nat), l.length ≤ r →
    chunks m r l
      = (List.range ((l.length + m - 1) / m)).map fun k => (l.drop (m * k)).take m := by
  intro r
  induction r with
  | zero =>
    intro l h
    have hl : l = [] := List.length_eq_zero_iff.mp (by omega)
    subst hl
    simp [chunks]
    exact Or.inr hm
  | succ r ih =>
    intro l h
    cases l with
    | nil => simp [chunks]; exact Or.inr hm
    | cons x xs =>
      have count : ((x :: xs).length + m - 1) / m
          = (((x :: xs).drop m).length + m - 1) / m + 1 := by
        simp only [List.length_drop]
        by_cases hl : (x :: xs).length ≤ m
        · rw [Nat.sub_eq_zero_of_le hl]
          have none : (0 + m - 1) / m = 0 := Nat.div_eq_of_lt (by omega)
          have pos : 0 < (x :: xs).length := by simp
          rw [none]
          apply Nat.div_eq_of_lt_le <;> omega
        · rw [show (x :: xs).length + m - 1 = ((x :: xs).length - m + m - 1) + m by omega,
            Nat.add_div_right _ hm]
      rw [count, List.range_succ_eq_map]
      simp only [chunks, List.isEmpty_cons, Bool.false_eq_true, if_false, List.map_cons,
        List.map_map]
      rw [ih _ (by simp at *; omega)]
      simp [Function.comp_def, Nat.mul_succ, Nat.add_comm]

end Sys2Proof.Machine
end

