-- ==== Sys2Proof/Laws/State.lean ====
section
/-! SUPPORT. Reading back what an update of the state wrote: stations, channels, single fields. -/

namespace Sys2Proof.Machine

/-! ### Four of a kind -/

@[simp] theorem Four.get_set_same {α : Type} (f : Four α) (n : StationNo) (a : α) :
    (f.set n a).get n = a := by cases n <;> rfl

@[simp] theorem Four.get_set_ne {α : Type} (f : Four α) {n m : StationNo} (a : α) (h : m ≠ n) :
    (f.set n a).get m = f.get m := by
  cases n <;> cases m <;> first | rfl | exact absurd rfl h

@[simp] theorem Four.get_fill {α : Type} (a : α) (n : StationNo) : (Four.fill a).get n = a := by
  cases n <;> rfl

@[simp] theorem Four.set_get {α : Type} (f : Four α) (n : StationNo) : f.set n (f.get n) = f := by
  cases n <;> rfl

/-! ### Stations -/

@[simp] theorem State.station_updStation (s : State) (n : StationNo) (f : Station → Station) :
    (s.updStation n f).station n = f (s.station n) := Four.get_set_same _ _ _

theorem State.station_updStation_ne (s : State) {n m : StationNo} (f : Station → Station)
    (h : m ≠ n) : (s.updStation n f).station m = s.station m := Four.get_set_ne _ _ h

@[simp] theorem State.station_updChan (s : State) (c : Chan) (f : Channel → Channel)
    (n : StationNo) : (s.updChan c f).station n = s.station n := by cases c <;> rfl

@[simp] theorem State.station_raise (s : State) (c : Cause) (n : StationNo) :
    (s.raise c).station n = s.station n := rfl

@[simp] theorem State.station_freeBlocks (s : State) (b : List Nat) (n : StationNo) :
    (s.freeBlocks b).station n = s.station n := rfl

@[simp] theorem State.station_setRecord (s : State) (h : Nat) (r : Record) (n : StationNo) :
    (s.setRecord h r).station n = s.station n := rfl

/-! ### Channels -/

@[simp] theorem State.chan_updChan (s : State) (c : Chan) (f : Channel → Channel) :
    (s.updChan c f).chan c = f (s.chan c) := by
  cases c with
  | control => rfl
  | station n => exact Four.get_set_same _ _ _

theorem State.chan_updChan_ne (s : State) {c d : Chan} (f : Channel → Channel) (h : d ≠ c) :
    (s.updChan c f).chan d = s.chan d := by
  cases c with
  | control => cases d with
    | control => exact absurd rfl h
    | station m => rfl
  | station n => cases d with
    | control => rfl
    | station m => exact Four.get_set_ne _ _ (fun e => h (by rw [e]))

@[simp] theorem State.chan_updStation (s : State) (n : StationNo) (f : Station → Station)
    (c : Chan) : (s.updStation n f).chan c = s.chan c := by cases c <;> rfl

@[simp] theorem State.chan_raise (s : State) (e : Cause) (c : Chan) :
    (s.raise e).chan c = s.chan c := by cases c <;> rfl

@[simp] theorem State.chan_freeBlocks (s : State) (b : List Nat) (c : Chan) :
    (s.freeBlocks b).chan c = s.chan c := by cases c <;> rfl

@[simp] theorem State.chan_setRecord (s : State) (h : Nat) (r : Record) (c : Chan) :
    (s.setRecord h r).chan c = s.chan c := by cases c <;> rfl

/-! ### What an update of a channel leaves -/

@[simp] theorem State.updChan_pending (s : State) (c : Chan) (f : Channel → Channel) :
    (s.updChan c f).pending = s.pending := by cases c <;> rfl
@[simp] theorem State.updChan_freeIndex (s : State) (c : Chan) (f : Channel → Channel) :
    (s.updChan c f).freeIndex = s.freeIndex := by cases c <;> rfl
@[simp] theorem State.updChan_readData (s : State) (c : Chan) (f : Channel → Channel) :
    (s.updChan c f).readData = s.readData := by cases c <;> rfl
@[simp] theorem State.updChan_clock (s : State) (c : Chan) (f : Channel → Channel) :
    (s.updChan c f).clock = s.clock := by cases c <;> rfl
@[simp] theorem State.updChan_loading (s : State) (c : Chan) (f : Channel → Channel) :
    (s.updChan c f).loading = s.loading := by cases c <;> rfl
@[simp] theorem State.updChan_defaulted (s : State) (c : Chan) (f : Channel → Channel) :
    (s.updChan c f).defaulted = s.defaulted := by cases c <;> rfl
@[simp] theorem State.updChan_boardTag (s : State) (c : Chan) (f : Channel → Channel) :
    (s.updChan c f).boardTag = s.boardTag := by cases c <;> rfl
@[simp] theorem State.updChan_arbiter (s : State) (c : Chan) (f : Channel → Channel) :
    (s.updChan c f).arbiter = s.arbiter := by cases c <;> rfl
@[simp] theorem State.updChan_autoPoll (s : State) (c : Chan) (f : Channel → Channel) :
    (s.updChan c f).autoPoll = s.autoPoll := by cases c <;> rfl
@[simp] theorem State.updChan_eventStatus (s : State) (c : Chan) (f : Channel → Channel) :
    (s.updChan c f).eventStatus = s.eventStatus := by cases c <;> rfl
@[simp] theorem State.updChan_eventEnable (s : State) (c : Chan) (f : Channel → Channel) :
    (s.updChan c f).eventEnable = s.eventEnable := by cases c <;> rfl
@[simp] theorem State.updChan_inspect (s : State) (c : Chan) (f : Channel → Channel) :
    (s.updChan c f).inspect = s.inspect := by cases c <;> rfl
@[simp] theorem State.updChan_total (s : State) (c : Chan) (f : Channel → Channel) :
    (s.updChan c f).total = s.total := by cases c <;> rfl
@[simp] theorem State.updChan_free (s : State) (c : Chan) (f : Channel → Channel) :
    (s.updChan c f).free = s.free := by cases c <;> rfl
@[simp] theorem State.updChan_memory (s : State) (c : Chan) (f : Channel → Channel) :
    (s.updChan c f).memory = s.memory := by cases c <;> rfl
@[simp] theorem State.updChan_elements (s : State) (c : Chan) (f : Channel → Channel) :
    (s.updChan c f).elements = s.elements := by cases c <;> rfl
@[simp] theorem State.updChan_table (s : State) (c : Chan) (f : Channel → Channel) :
    (s.updChan c f).table = s.table := by cases c <;> rfl
@[simp] theorem State.updChan_bus (s : State) (c : Chan) (f : Channel → Channel) :
    (s.updChan c f).bus = s.bus := by cases c <;> rfl
@[simp] theorem State.updChan_transfer (s : State) (c : Chan) (f : Channel → Channel) :
    (s.updChan c f).transfer = s.transfer := by cases c <;> rfl
@[simp] theorem State.updChan_pointer (s : State) (c : Chan) (f : Channel → Channel) :
    (s.updChan c f).pointer = s.pointer := by cases c <;> rfl
@[simp] theorem State.updChan_composer (s : State) (c : Chan) (f : Channel → Channel) :
    (s.updChan c f).composer = s.composer := by cases c <;> rfl
@[simp] theorem State.updChan_nextStamp (s : State) (c : Chan) (f : Channel → Channel) :
    (s.updChan c f).nextStamp = s.nextStamp := by cases c <;> rfl
@[simp] theorem State.updChan_stations (s : State) (c : Chan) (f : Channel → Channel) :
    (s.updChan c f).stations = s.stations := by cases c <;> rfl
@[simp] theorem State.updChan_check (s : State) (c : Chan) (f : Channel → Channel) :
    (s.updChan c f).check = s.check := by cases c <;> rfl
@[simp] theorem State.updChan_checkPending (s : State) (c : Chan) (f : Channel → Channel) :
    (s.updChan c f).checkPending = s.checkPending := by cases c <;> rfl

/-! ### What an update of a station leaves -/

@[simp] theorem State.updStation_pending (s : State) (n : StationNo) (f : Station → Station) :
    (s.updStation n f).pending = s.pending := rfl
@[simp] theorem State.updStation_clock (s : State) (n : StationNo) (f : Station → Station) :
    (s.updStation n f).clock = s.clock := rfl
@[simp] theorem State.updStation_free (s : State) (n : StationNo) (f : Station → Station) :
    (s.updStation n f).free = s.free := rfl
@[simp] theorem State.updStation_memory (s : State) (n : StationNo) (f : Station → Station) :
    (s.updStation n f).memory = s.memory := rfl
@[simp] theorem State.updStation_elements (s : State) (n : StationNo) (f : Station → Station) :
    (s.updStation n f).elements = s.elements := rfl
@[simp] theorem State.updStation_table (s : State) (n : StationNo) (f : Station → Station) :
    (s.updStation n f).table = s.table := rfl
@[simp] theorem State.updStation_eventStatus (s : State) (n : StationNo) (f : Station → Station) :
    (s.updStation n f).eventStatus = s.eventStatus := rfl
@[simp] theorem State.updStation_composer (s : State) (n : StationNo) (f : Station → Station) :
    (s.updStation n f).composer = s.composer := rfl
@[simp] theorem State.updStation_check (s : State) (n : StationNo) (f : Station → Station) :
    (s.updStation n f).check = s.check := rfl
@[simp] theorem State.updStation_checkPending (s : State) (n : StationNo)
    (f : Station → Station) : (s.updStation n f).checkPending = s.checkPending := rfl

/-! ### Other single updates -/

@[simp] theorem State.raise_eventStatus (s : State) (c : Cause) :
    (s.raise c).eventStatus = s.eventStatus ||| BitVec.ofNat 29 (2 ^ c.bit) := rfl
@[simp] theorem State.freeBlocks_free (s : State) (b : List Nat) :
    (s.freeBlocks b).free = s.free ++ b := rfl
@[simp] theorem State.setRecord_table (s : State) (h : Nat) (r : Record) :
    (s.setRecord h r).table = sparseSet Record.empty s.table h r := rfl
@[simp] theorem State.endTransfer_bus (s : State) (c : Chan) : (s.endTransfer c).bus = none := rfl
@[simp] theorem State.endTransfer_transfer (s : State) (c : Chan) :
    (s.endTransfer c).transfer = none := rfl
@[simp] theorem State.tick_clock (s : State) : s.tick.clock = s.clock + 1 := rfl

end Sys2Proof.Machine
end

