-- ==== Sys2Proof/Laws/Sparse.lean ====
section
/-! SUPPORT. Sparse maps: what is read after a write, and that a write keeps the canonical form; the same for
record memory, the element entries and the Resource Table. -/

namespace Sys2Proof.Machine

variable {α : Type}

/-! ### Read after write -/

@[simp] theorem sparseGet_put_same (d : α) (m : List (Nat × α)) (a : Nat) (v : α) :
    sparseGet d (sparsePut m a v) a = v := by
  induction m with
  | nil => simp [sparsePut, sparseGet]
  | cons p m ih =>
    obtain ⟨k, w⟩ := p
    unfold sparsePut
    split
    · simp [sparseGet]
    · split
      · simp [sparseGet]
      · next h => rw [sparseGet, if_neg h, ih]

theorem sparseGet_put_ne (d : α) (m : List (Nat × α)) {a b : Nat} (v : α) (h : b ≠ a) :
    sparseGet d (sparsePut m a v) b = sparseGet d m b := by
  induction m with
  | nil => simp [sparsePut, sparseGet, h]
  | cons p m ih =>
    obtain ⟨k, w⟩ := p
    unfold sparsePut
    split
    · rw [sparseGet, if_neg h]
    · split
      · next e => subst e; simp [sparseGet, h]
      · simp only [sparseGet, ih]

theorem sparseGet_del_ne (d : α) (m : List (Nat × α)) {a b : Nat} (h : b ≠ a) :
    sparseGet d (sparseDel m a) b = sparseGet d m b := by
  induction m with
  | nil => rfl
  | cons p m ih =>
    obtain ⟨k, w⟩ := p
    unfold sparseDel
    split
    · rfl
    · split
      · next e => subst e; rw [sparseGet, if_neg h]
      · simp only [sparseGet, ih]

theorem sparseGet_set_ne [DecidableEq α] (d : α) (m : List (Nat × α)) {a b : Nat} (v : α)
    (h : b ≠ a) : sparseGet d (sparseSet d m a v) b = sparseGet d m b := by
  unfold sparseSet
  split
  · exact sparseGet_del_ne d m h
  · exact sparseGet_put_ne d m v h

theorem sparseGet_set_same_of_ne [DecidableEq α] (d : α) (m : List (Nat × α)) (a : Nat) {v : α}
    (h : v ≠ d) : sparseGet d (sparseSet d m a v) a = v := by
  rw [sparseSet, if_neg h, sparseGet_put_same]

/-! ### The canonical form -/

theorem sparseAbove_trans {b c : Nat} (m : List (Nat × α)) (h : b ≤ c)
    (hm : sparseAbove c m = true) : sparseAbove b m = true := by
  cases m with
  | nil => rfl
  | cons p m => simp only [sparseAbove, decide_eq_true_eq] at *; omega

theorem sparseWf_cons [DecidableEq α] {d v : α} {k : Nat} {m : List (Nat × α)} :
    sparseWf d ((k, v) :: m) = true ↔ v ≠ d ∧ sparseAbove k m = true ∧ sparseWf d m = true := by
  simp [sparseWf, and_assoc]

/-- Nothing stands at or below a bound that every key is above. -/
theorem sparseGet_above [DecidableEq α] {d : α} {m : List (Nat × α)} {a : Nat}
    (hm : sparseWf d m = true) (ha : sparseAbove a m = true) : sparseGet d m a = d := by
  induction m with
  | nil => rfl
  | cons p m ih =>
    obtain ⟨k, v⟩ := p
    obtain ⟨-, hk, hw⟩ := sparseWf_cons.mp hm
    simp only [sparseAbove, decide_eq_true_eq] at ha
    rw [sparseGet, if_neg (by omega)]
    exact ih hw (sparseAbove_trans m (by omega) hk)

theorem sparseGet_del_same [DecidableEq α] {d : α} {m : List (Nat × α)} (a : Nat)
    (hm : sparseWf d m = true) : sparseGet d (sparseDel m a) a = d := by
  induction m with
  | nil => rfl
  | cons p m ih =>
    obtain ⟨k, v⟩ := p
    obtain ⟨-, hk, hw⟩ := sparseWf_cons.mp hm
    unfold sparseDel
    split
    · next h => exact sparseGet_above hm (by simpa [sparseAbove] using h)
    · split
      · next h => subst h; exact sparseGet_above hw hk
      · next h => rw [sparseGet, if_neg h, ih hw]

theorem sparseGet_set_same [DecidableEq α] {d : α} {m : List (Nat × α)} (a : Nat) (v : α)
    (hm : sparseWf d m = true) : sparseGet d (sparseSet d m a v) a = v := by
  unfold sparseSet
  split
  · next h => rw [h, sparseGet_del_same a hm]
  · exact sparseGet_put_same d m a v

theorem sparseAbove_put {b a : Nat} {v : α} {m : List (Nat × α)} (hb : b < a)
    (hm : sparseAbove b m = true) : sparseAbove b (sparsePut m a v) = true := by
  cases m with
  | nil => simpa [sparsePut, sparseAbove] using hb
  | cons p m =>
    obtain ⟨k, w⟩ := p
    unfold sparsePut
    split
    · simpa [sparseAbove] using hb
    · split
      · simpa [sparseAbove] using hb
      · simpa [sparseAbove] using hm

theorem sparseWf_put [DecidableEq α] {d v : α} (hv : v ≠ d) (a : Nat) {m : List (Nat × α)}
    (hm : sparseWf d m = true) : sparseWf d (sparsePut m a v) = true := by
  induction m with
  | nil => simp [sparsePut, sparseWf, sparseAbove, hv]
  | cons p m ih =>
    obtain ⟨k, w⟩ := p
    obtain ⟨hw, hk, hr⟩ := sparseWf_cons.mp hm
    unfold sparsePut
    split
    · next h => exact sparseWf_cons.mpr ⟨hv, by simpa [sparseAbove] using h, hm⟩
    · split
      · next h => subst h; exact sparseWf_cons.mpr ⟨hv, hk, hr⟩
      · next h1 h2 =>
        exact sparseWf_cons.mpr ⟨hw, sparseAbove_put (by omega) hk, ih hr⟩

theorem sparseAbove_del {b a : Nat} [DecidableEq α] {d : α} {m : List (Nat × α)}
    (hw : sparseWf d m = true) (hm : sparseAbove b m = true) :
    sparseAbove b (sparseDel m a) = true := by
  cases m with
  | nil => rfl
  | cons p m =>
    obtain ⟨k, w⟩ := p
    obtain ⟨-, hk, -⟩ := sparseWf_cons.mp hw
    simp only [sparseAbove, decide_eq_true_eq] at hm
    unfold sparseDel
    split
    · simpa [sparseAbove] using hm
    · split
      · exact sparseAbove_trans m (by omega) hk
      · simpa [sparseAbove] using hm

theorem sparseWf_del [DecidableEq α] {d : α} (a : Nat) {m : List (Nat × α)}
    (hm : sparseWf d m = true) : sparseWf d (sparseDel m a) = true := by
  induction m with
  | nil => rfl
  | cons p m ih =>
    obtain ⟨k, w⟩ := p
    obtain ⟨hw, hk, hr⟩ := sparseWf_cons.mp hm
    unfold sparseDel
    split
    · exact hm
    · split
      · exact hr
      · exact sparseWf_cons.mpr ⟨hw, sparseAbove_del hr hk, ih hr⟩

/-- A write keeps the canonical form. -/
theorem sparseWf_set [DecidableEq α] {d : α} (a : Nat) (v : α) {m : List (Nat × α)}
    (hm : sparseWf d m = true) : sparseWf d (sparseSet d m a v) = true := by
  unfold sparseSet
  split
  · exact sparseWf_del a hm
  · next h => exact sparseWf_put h a hm

/-! ### Record memory -/

theorem Memory.wf_write {m : Memory} (a : Nat) (b : Byte) (h : m.wf = true) :
    (m.write a b).wf = true := sparseWf_set a b h

theorem Memory.read_write_same {m : Memory} (a : Nat) (b : Byte) (h : m.wf = true) :
    (m.write a b).read a = b := sparseGet_set_same a b h

theorem Memory.read_write_ne (m : Memory) {a x : Nat} (b : Byte) (h : x ≠ a) :
    (m.write a b).read x = m.read x := sparseGet_set_ne _ m b h

/-! ### The Resource Table -/

theorem State.record_setRecord_ne (s : State) {h k : Nat} (r : Record) (e : k ≠ h) :
    (s.setRecord h r).record k = s.record k := sparseGet_set_ne _ s.table r e

theorem State.record_setRecord_same (s : State) (h : Nat) {r : Record} (e : r ≠ Record.empty) :
    (s.setRecord h r).record h = r := sparseGet_set_same_of_ne _ s.table h e

/-! ### The canonical form of the whole state -/

theorem State.canonical_iff {s : State} :
    s.canonical = true ↔ s.memory.wf = true ∧ sparseWf none s.elements = true ∧
      sparseWf Record.empty s.table = true := by
  simp [State.canonical, and_assoc]

/-- What leaves memory, element entries and table alone keeps the canonical form. -/
theorem State.canonical_of_same {s t : State} (h : s.canonical = true) (hm : t.memory = s.memory)
    (he : t.elements = s.elements) (ht : t.table = s.table) : t.canonical = true := by
  simpa [State.canonical, hm, he, ht] using h

theorem State.canonical_updChan {s : State} (c : Chan) (f : Channel → Channel)
    (h : s.canonical = true) : (s.updChan c f).canonical = true :=
  canonical_of_same h (by simp) (by simp) (by simp)

theorem State.canonical_updStation {s : State} (n : StationNo) (f : Station → Station)
    (h : s.canonical = true) : (s.updStation n f).canonical = true :=
  canonical_of_same h rfl rfl rfl

theorem State.canonical_setRecord {s : State} (k : Nat) (r : Record) (h : s.canonical = true) :
    (s.setRecord k r).canonical = true := by
  obtain ⟨hm, he, ht⟩ := canonical_iff.mp h
  exact canonical_iff.mpr ⟨hm, he, sparseWf_set k r ht⟩

theorem State.canonical_writeByte {s : State} (a : Nat) (b : Byte) (h : s.canonical = true) :
    (s.writeByte a b).canonical = true := by
  obtain ⟨hm, he, ht⟩ := canonical_iff.mp h
  exact canonical_iff.mpr ⟨Memory.wf_write a b hm, sparseWf_set a none he, ht⟩

theorem State.canonical_writeContent {s : State} (bl : List Nat) (i : Nat) (b : Byte)
    (h : s.canonical = true) : (s.writeContent bl i b).canonical = true := by
  unfold State.writeContent
  split
  · exact canonical_writeByte _ b h
  · exact h

theorem State.canonical_writeContents (bl : List Nat) (bs : List Byte) :
    ∀ {s : State} (i : Nat), s.canonical = true → (s.writeContents bl i bs).canonical = true := by
  induction bs with
  | nil => intro s i h; exact h
  | cons b bs ih => intro s i h; exact ih (i + 1) (canonical_writeContent bl i b h)

theorem State.canonical_writeEntryByte {s : State} (a : Nat) (x : Element) (j : Nat)
    (h : s.canonical = true) :
    State.canonical { s with
      memory := s.memory.write (a + j) unwrittenByte,
      elements := sparseSet none s.elements (a + j) (some ⟨x, j⟩) } = true := by
  obtain ⟨hm, he, ht⟩ := canonical_iff.mp h
  refine canonical_iff.mpr ⟨?_, ?_, ?_⟩
  · exact Memory.wf_write (a + j) unwrittenByte hm
  · exact sparseWf_set (a + j) (some ⟨x, j⟩) he
  · exact ht

theorem State.canonical_writeEntryFrom (a : Nat) (x : Element) (k : Nat) :
    ∀ {s : State} (j : Nat), s.canonical = true → (s.writeEntryFrom a x k j).canonical = true := by
  induction k with
  | zero => intro s j h; exact h
  | succ k ih =>
    intro s j h
    exact ih (j + 1) (canonical_writeEntryByte a x j h)

theorem State.canonical_writeEntry {s : State} (bl : List Nat) (e : Nat) (x : Element)
    (h : s.canonical = true) : (s.writeEntry bl e x).canonical = true := by
  unfold State.writeEntry
  split
  · exact canonical_writeEntryFrom _ x 16 0 h
  · exact h

theorem State.canonical_writeEntries (bl : List Nat) (xs : List Element) :
    ∀ {s : State} (e : Nat), s.canonical = true → (s.writeEntries bl e xs).canonical = true := by
  induction xs with
  | nil => intro s e h; exact h
  | cons x xs ih => intro s e h; exact ih (e + 1) (canonical_writeEntry bl e x h)

/-! ### Reading a byte of record memory back -/

theorem State.readByte_writeByte_same {s : State} (a : Nat) (b : Byte) (h : s.canonical = true) :
    (s.writeByte a b).readByte a = b := by
  obtain ⟨hm, he, -⟩ := canonical_iff.mp h
  simp only [readByte, writeByte, sparseGet_set_same a none he, Memory.read_write_same a b hm]

theorem State.readByte_writeByte_ne (s : State) {a x : Nat} (b : Byte) (h : x ≠ a) :
    (s.writeByte a b).readByte x = s.readByte x := by
  simp only [readByte, writeByte, sparseGet_set_ne none s.elements none h,
    Memory.read_write_ne s.memory b h]

end Sys2Proof.Machine
end

