-- ==== Sys2Proof/Laws/Kept.lean ====
section
/-! SUPPORT. What no shared operation of the labels, the stations, the DCU, the channels and the end of an event
touches, said once as a relation between two states, and one lemma for each of those operations. -/

namespace Sys2Proof.Machine

/-! ### The relation -/

/-- The items of a station that the work of its lane leaves alone; its trigger queue grows at an
arrival alone. -/
structure Station.LaneKept (a b : Station) : Prop where
  dotCount : b.dotCount = a.dotCount
  profile : b.profile = a.profile
  thermal : b.thermal = a.thermal
  map : b.map = a.map
  summary : b.summary = a.summary
  lastCode : b.lastCode = a.lastCode
  lastResult : b.lastResult = a.lastResult
  mediaLatch : b.mediaLatch = a.mediaLatch
  mediaPresent : b.mediaPresent = a.mediaPresent
  headOpen : b.headOpen = a.headOpen
  triggerHigh : b.triggerHigh = a.triggerHigh
  triggers : b.triggers.length ≤ a.triggers.length

/-- The items of a channel that its work leaves alone: for each, base, size and fetch index; for RCH-C
an empty held set, no pending completions, and not FULL. -/
structure Channel.RegsKept (c : Chan) (a b : Channel) : Prop where
  base : b.base = a.base
  size : b.size = a.size
  fetchIndex : b.fetchIndex = a.fetchIndex
  held : c = .control → b.held = a.held
  pendingCompletions : c = .control → b.pendingCompletions = a.pendingCompletions
  full : c = .control → a.state ≠ .full → b.state ≠ .full

/-- What the shared operations leave alone. -/
structure State.Kept (s t : State) : Prop where
  canonical : s.canonical = true → t.canonical = true
  pending : t.pending = s.pending
  clock : t.clock = s.clock
  readData : t.readData = s.readData
  loading : t.loading = s.loading
  defaulted : t.defaulted = s.defaulted
  boardTag : t.boardTag = s.boardTag
  total : t.total = s.total
  arbiter : t.arbiter = s.arbiter
  autoPoll : t.autoPoll = s.autoPoll
  eventEnable : t.eventEnable = s.eventEnable
  inspect : t.inspect = s.inspect
  events : ∀ i, s.eventStatus.getLsbD i = true → t.eventStatus.getLsbD i = true
  regs : ∀ c, Channel.RegsKept c (s.chan c) (t.chan c)
  lanes : ∀ n, Station.LaneKept (s.station n) (t.station n)

theorem Station.LaneKept.refl (a : Station) : Station.LaneKept a a :=
  ⟨rfl, rfl, rfl, rfl, rfl, rfl, rfl, rfl, rfl, rfl, rfl, le_refl _⟩

theorem Station.LaneKept.trans {a b c : Station} (h : Station.LaneKept a b)
    (k : Station.LaneKept b c) : Station.LaneKept a c :=
  ⟨k.dotCount.trans h.dotCount, k.profile.trans h.profile, k.thermal.trans h.thermal,
    k.map.trans h.map, k.summary.trans h.summary, k.lastCode.trans h.lastCode,
    k.lastResult.trans h.lastResult, k.mediaLatch.trans h.mediaLatch,
    k.mediaPresent.trans h.mediaPresent, k.headOpen.trans h.headOpen,
    k.triggerHigh.trans h.triggerHigh, k.triggers.trans h.triggers⟩

theorem Channel.RegsKept.refl (c : Chan) (a : Channel) : Channel.RegsKept c a a :=
  ⟨rfl, rfl, rfl, fun _ => rfl, fun _ => rfl, fun _ h => h⟩

theorem Channel.RegsKept.trans {c : Chan} {a b d : Channel} (h : Channel.RegsKept c a b)
    (k : Channel.RegsKept c b d) : Channel.RegsKept c a d :=
  ⟨k.base.trans h.base, k.size.trans h.size, k.fetchIndex.trans h.fetchIndex,
    fun e => (k.held e).trans (h.held e),
    fun e => (k.pendingCompletions e).trans (h.pendingCompletions e),
    fun e n => k.full e (h.full e n)⟩

namespace State.Kept

theorem refl (s : State) : s.Kept s :=
  ⟨fun h => h, rfl, rfl, rfl, rfl, rfl, rfl, rfl, rfl, rfl, rfl, rfl, fun _ h => h,
    fun _ => .refl _ _, fun _ => .refl _⟩

theorem trans {s t u : State} (h : s.Kept t) (k : t.Kept u) : s.Kept u :=
  ⟨fun e => k.canonical (h.canonical e), k.pending.trans h.pending, k.clock.trans h.clock,
    k.readData.trans h.readData, k.loading.trans h.loading, k.defaulted.trans h.defaulted,
    k.boardTag.trans h.boardTag, k.total.trans h.total, k.arbiter.trans h.arbiter,
    k.autoPoll.trans h.autoPoll, k.eventEnable.trans h.eventEnable, k.inspect.trans h.inspect,
    fun i e => k.events i (h.events i e), fun c => (h.regs c).trans (k.regs c),
    fun n => (h.lanes n).trans (k.lanes n)⟩

/-- The trigger queues stay within four entries. -/
theorem triggersBounded {s t : State} (h : s.Kept t) (b : s.triggersBounded = true) :
    t.triggersBounded = true := by
  simp only [State.triggersBounded, List.all_eq_true, decide_eq_true_eq] at b ⊢
  exact fun n hn => ((h.lanes n).triggers).trans (b n hn)

/-- A cause that was raised stays raised. -/
theorem raised {s t : State} (h : s.Kept t) (c : Cause) (b : s.raised c = true) :
    t.raised c = true := h.events _ b

/-- The channels stay legal. -/
theorem ringsLegal {s t : State} (h : s.Kept t) (b : s.ringsLegal = true) :
    t.ringsLegal = true := by
  have hc := h.regs .control
  simp only [State.ringsLegal, Bool.and_eq_true, List.all_eq_true, bne_iff_ne] at b ⊢
  obtain ⟨⟨⟨b1, b2⟩, b3⟩, b4⟩ := b
  refine ⟨⟨⟨fun c hc => ?_, hc.full rfl b2⟩, ?_⟩, ?_⟩
  · have r := h.regs c
    simpa only [Channel.legal, r.base, r.size, r.fetchIndex] using b1 c hc
  · have e : t.control.held = s.control.held := hc.held rfl
    rw [e]; exact b3
  · have e : t.control.pendingCompletions = s.control.pendingCompletions :=
      hc.pendingCompletions rfl
    rw [e]; exact b4

end State.Kept

/-! ### Single updates -/

namespace State

theorem kept_updStation (s : State) (n : StationNo) (f : Station → Station)
    (h : Station.LaneKept (s.station n) (f (s.station n))) : s.Kept (s.updStation n f) := by
  refine ⟨canonical_updStation n f, rfl, rfl, rfl, rfl, rfl, rfl, rfl, rfl, rfl, rfl, rfl,
    fun _ e => e, fun c => ?_, fun m => ?_⟩
  · rw [chan_updStation]; exact .refl _ _
  · by_cases e : m = n
    · subst e; rw [station_updStation]; exact h
    · rw [station_updStation_ne s f e]; exact .refl _

theorem kept_updChan (s : State) (c : Chan) (f : Channel → Channel)
    (h : Channel.RegsKept c (s.chan c) (f (s.chan c))) : s.Kept (s.updChan c f) := by
  refine ⟨canonical_updChan c f, updChan_pending .., updChan_clock .., updChan_readData ..,
    updChan_loading .., updChan_defaulted .., updChan_boardTag .., updChan_total ..,
    updChan_arbiter .., updChan_autoPoll .., updChan_eventEnable .., updChan_inspect ..,
    fun _ e => ?_, fun d => ?_, fun m => ?_⟩
  · rw [updChan_eventStatus]; exact e
  · by_cases e : d = c
    · subst e; rw [chan_updChan]; exact h
    · rw [chan_updChan_ne s f e]; exact .refl _ _
  · rw [station_updChan]; exact .refl _

theorem kept_raise (s : State) (c : Cause) : s.Kept (s.raise c) := by
  refine ⟨fun h => canonical_of_same h rfl rfl rfl, rfl, rfl, rfl, rfl, rfl, rfl, rfl, rfl, rfl, rfl,
    rfl, fun i e => ?_, fun d => ?_, fun _ => .refl _⟩
  · rw [raise_eventStatus, BitVec.getLsbD_or, e, Bool.true_or]
  · rw [chan_raise]; exact .refl _ _

theorem kept_setRecord (s : State) (h : Nat) (r : Record) : s.Kept (s.setRecord h r) := by
  refine ⟨canonical_setRecord h r, rfl, rfl, rfl, rfl, rfl, rfl, rfl, rfl, rfl, rfl, rfl,
    fun _ e => e, fun c => ?_, fun _ => .refl _⟩
  rw [chan_setRecord]; exact .refl _ _

/-- What leaves all but the pool, the bus, the Composer, the DCU and the counters alone. -/
theorem kept_rest (s : State) (free : List Nat) (bus : Option Chan)
    (transfer : Option HostTransfer) (pointer : Chan) (composer : Option Job) (stamp index : Nat)
    (check : Option Check) (asked : Four Bool) :
    s.Kept { s with free := free, bus := bus, transfer := transfer, pointer := pointer,
                    composer := composer, nextStamp := stamp, freeIndex := index, check := check,
                    checkPending := asked } := by
  refine ⟨fun h => canonical_of_same h rfl rfl rfl, rfl, rfl, rfl, rfl, rfl, rfl, rfl, rfl, rfl, rfl,
    rfl, fun _ e => e, fun c => ?_, fun _ => .refl _⟩
  cases c <;> exact .refl _ _

/-- What writes record memory alone keeps the rest. -/
theorem kept_memory (s : State) (m : Memory) (e : List (Nat × Option ElemByte))
    (h : s.canonical = true → State.canonical { s with memory := m, elements := e } = true) :
    s.Kept { s with memory := m, elements := e } := by
  refine ⟨h, rfl, rfl, rfl, rfl, rfl, rfl, rfl, rfl, rfl, rfl, rfl, fun _ e => e, fun c => ?_,
    fun _ => .refl _⟩
  cases c <;> exact .refl _ _

/-! ### Lists of updates -/

theorem kept_foldl {β : Type} (f : State → β → State) (h : ∀ s b, State.Kept s (f s b))
    (l : List β) : ∀ s : State, s.Kept (l.foldl f s) := by
  induction l with
  | nil => exact fun s => .refl s
  | cons b l ih => exact fun s => (h s b).trans (ih _)

/-! ### Record memory and the pool (Chapter 2) -/

theorem kept_writeByte (s : State) (a : Nat) (b : Byte) : s.Kept (s.writeByte a b) :=
  kept_memory s _ _ (canonical_writeByte a b)

theorem kept_writeContent (s : State) (bl : List Nat) (i : Nat) (b : Byte) :
    s.Kept (s.writeContent bl i b) := by
  unfold writeContent
  split
  · exact kept_writeByte ..
  · exact .refl s

theorem kept_writeContents (bl : List Nat) (bs : List Byte) :
    ∀ (s : State) (i : Nat), s.Kept (s.writeContents bl i bs) := by
  induction bs with
  | nil => exact fun s _ => .refl s
  | cons b bs ih => exact fun s i => (kept_writeContent s bl i b).trans (ih _ _)

theorem kept_writeEntryFrom (a : Nat) (x : Element) (k : Nat) :
    ∀ (s : State) (j : Nat), s.Kept (s.writeEntryFrom a x k j) := by
  induction k with
  | zero => exact fun s _ => .refl s
  | succ k ih =>
    exact fun s j => (kept_memory s _ _ (canonical_writeEntryByte a x j)).trans (ih _ _)

theorem kept_writeEntry (s : State) (bl : List Nat) (e : Nat) (x : Element) :
    s.Kept (s.writeEntry bl e x) := by
  unfold writeEntry
  split
  · exact kept_writeEntryFrom ..
  · exact .refl s

theorem kept_writeEntries (bl : List Nat) (xs : List Element) :
    ∀ (s : State) (e : Nat), s.Kept (s.writeEntries bl e xs) := by
  induction xs with
  | nil => exact fun s _ => .refl s
  | cons x xs ih => exact fun s e => (kept_writeEntry s bl e x).trans (ih _ _)

theorem kept_freeBlocks (s : State) (bl : List Nat) : s.Kept (s.freeBlocks bl) := kept_rest s ..

theorem kept_allocate {s t : State} {k : Nat} {bl : List Nat} (h : s.allocate k = some (bl, t)) :
    s.Kept t := by
  unfold allocate at h
  split at h
  · cases h; exact kept_rest s ..
  · cases h

/-! ### Records (Chapter 1) -/

theorem kept_raiseReferrers (hs : List Nat) : ∀ s : State, s.Kept (s.raiseReferrers hs) := by
  induction hs with
  | nil => exact fun s => .refl s
  | cons h hs ih => exact fun s => (kept_setRecord ..).trans (ih _)

theorem kept_lowerReferrers (hs : List Nat) : ∀ s : State, s.Kept (s.lowerReferrers hs) := by
  induction hs with
  | nil => exact fun s => .refl s
  | cons h hs ih => exact fun s => (kept_setRecord ..).trans (ih _)

theorem kept_freeBody (s : State) (b : Body) : s.Kept (s.freeBody b) :=
  (kept_freeBlocks ..).trans (kept_lowerReferrers ..)

theorem kept_freeBody? (s : State) (b : Option Body) : s.Kept (s.freeBody? b) := by
  cases b with
  | none => exact .refl s
  | some b => exact kept_freeBody s b

theorem kept_freeRecord (s : State) (h : Nat) : s.Kept (s.freeRecord h) :=
  ((kept_setRecord ..).trans (kept_freeBody? ..)).trans (kept_freeBody? ..)

theorem kept_freeIfRetired (s : State) (h : Nat) : s.Kept (s.freeIfRetired h) := by
  unfold freeIfRetired
  dsimp only
  split
  · exact (kept_freeRecord ..).trans (kept_raise ..)
  · exact .refl s

theorem kept_pinCurrent (s : State) (h : Nat) : s.Kept (s.pinCurrent h) := by
  unfold pinCurrent
  dsimp only
  split
  · exact kept_setRecord ..
  · exact .refl s

theorem kept_pinAll (hs : List Nat) : ∀ s : State, s.Kept (s.pinAll hs) := by
  induction hs with
  | nil => exact fun s => .refl s
  | cons h hs ih => exact fun s => (kept_pinCurrent ..).trans (ih _)

theorem kept_unpinBody (s : State) (h v : Nat) : s.Kept (s.unpinBody h v) := by
  unfold unpinBody
  dsimp only
  split
  · split
    · exact (kept_setRecord ..).trans (kept_freeIfRetired ..)
    · split
      · split
        · split
          · exact ((kept_setRecord ..).trans (kept_freeBody ..)).trans (kept_freeIfRetired ..)
          · exact kept_setRecord ..
        · exact .refl s
      · exact .refl s
  · exact .refl s

theorem kept_unpinCounter (s : State) (h : Nat) : s.Kept (s.unpinCounter h) := by
  unfold unpinCounter
  dsimp only
  split
  · exact (kept_setRecord ..).trans (kept_freeIfRetired ..)
  · exact .refl s

theorem kept_unpinBodies (l : List (Nat × Nat)) : ∀ s : State, s.Kept (s.unpinBodies l) := by
  induction l with
  | nil => exact fun s => .refl s
  | cons p l ih => exact fun s => (kept_unpinBody ..).trans (ih _)

theorem kept_unpinCounters (l : List Nat) : ∀ s : State, s.Kept (s.unpinCounters l) := by
  induction l with
  | nil => exact fun s => .refl s
  | cons h l ih => exact fun s => (kept_unpinCounter ..).trans (ih _)

theorem kept_releasePins (s : State) (l : Label) : s.Kept (s.releasePins l) :=
  (kept_unpinBodies ..).trans (kept_unpinCounters ..)

theorem kept_dropLoading (s : State) (h : Nat) : s.Kept (s.dropLoading h) := by
  unfold dropLoading
  dsimp only
  split <;> split <;>
    first
    | exact (kept_setRecord ..).trans (kept_freeBlocks ..)
    | exact kept_setRecord ..

/-! ### Channels (Chapter 5) -/

theorem kept_setWork (s : State) (c : Chan) (w : Work) : s.Kept (s.setWork c w) :=
  kept_updChan s c _ ⟨rfl, rfl, rfl, fun _ => rfl, fun _ => rfl, fun _ h => h⟩

theorem kept_outcome (s : State) (b : List Byte) : s.Kept (s.outcome b) := kept_setWork ..

theorem kept_report (s : State) (code : ControlCode) (b : List Byte) : s.Kept (s.report code b) := by
  unfold report
  split
  · split
    · exact kept_outcome ..
    · exact .refl s
  · exact .refl s

theorem kept_abortLoad (s : State) (d : List Byte) : s.Kept (s.abortLoad d) :=
  (kept_dropLoading ..).trans (kept_outcome ..)

theorem kept_endTransfer (s : State) (c : Chan) : s.Kept (s.endTransfer c) := by
  refine (kept_updChan s c (fun ch => { ch with xfer := none })
    ⟨rfl, rfl, rfl, fun _ => rfl, fun _ => rfl, fun _ h => h⟩).trans ?_
  exact kept_rest _ ..

theorem kept_stopChannel (s : State) (c : Chan) (k : StopCause) : s.Kept (s.stopChannel c k) :=
  kept_updChan s c _ ⟨rfl, rfl, rfl, fun _ => rfl, fun _ => rfl, fun _ _ => nofun⟩

theorem kept_stopFailed (s : State) (c : Chan) : s.Kept (s.stopFailed c) :=
  (kept_stopChannel ..).trans
    (kept_updChan _ c _ ⟨rfl, rfl, rfl, fun _ => rfl, fun _ => rfl, fun _ h => h⟩)

theorem kept_dropHand (s : State) (c : Chan) : s.Kept (s.dropHand c) := by
  have k : s.Kept (s.updChan c fun ch => { ch with hand := none }) :=
    kept_updChan s c _ ⟨rfl, rfl, rfl, fun _ => rfl, fun _ => rfl, fun _ h => h⟩
  unfold dropHand
  dsimp only
  split
  · exact k.trans (kept_stopFailed ..)
  · split
    · exact k.trans (kept_stopChannel ..)
    · exact k

theorem kept_suspend (s : State) (c : Chan) : s.Kept (s.suspend c) :=
  (kept_updChan s c (fun ch => { ch with state := .suspended, autoPollTimer := s.autoPollStart })
    ⟨rfl, rfl, rfl, fun _ => rfl, fun _ => rfl, fun _ _ => nofun⟩).trans (kept_raise ..)

theorem kept_deliver (s : State) (c : Chan) (i : Nat) (b : List Byte) : s.Kept (s.deliver c i b) :=
  kept_updChan s c _ ⟨rfl, rfl, rfl, fun _ => rfl, fun _ => rfl, fun _ h => h⟩

theorem kept_retestFull (s : State) (c : Chan) : s.Kept (s.retestFull c) := by
  unfold retestFull
  split
  · exact kept_updChan s c _ ⟨rfl, rfl, rfl, fun _ => rfl, fun _ => rfl, fun _ _ => nofun⟩
  · exact .refl s

/-- A request leaves a channel's registers, and makes FULL only where the condition holds. -/
theorem Channel_regsKept_request (c : Chan) (ch : Channel) (full : Bool)
    (h : c = .control → full = false) : Channel.RegsKept c ch (ch.request full) := by
  unfold Channel.request
  split
  · exact .refl ..
  · split
    · exact ⟨rfl, rfl, rfl, fun _ => rfl, fun _ => rfl, fun _ h => h⟩
    · split
      · exact ⟨rfl, rfl, rfl, fun _ => rfl, fun _ => rfl, fun _ h => h⟩
      · split
        · split
          · rename_i hf
            exact ⟨rfl, rfl, rfl, fun _ => rfl, fun _ => rfl,
              fun e => absurd (h e ▸ hf) (by decide)⟩
          · exact ⟨rfl, rfl, rfl, fun _ => rfl, fun _ => rfl, fun _ h => h⟩
        · split
          · exact ⟨rfl, rfl, rfl, fun _ => rfl, fun _ => rfl, fun _ h => h⟩
          · exact .refl ..
        · exact .refl ..
        · exact .refl ..

theorem kept_request (s : State) (c : Chan) : s.Kept (s.request c) :=
  kept_updChan s c _ (Channel_regsKept_request c _ _ fun e => by subst e; rfl)

theorem kept_grant (s : State) : s.Kept s.grant := by
  unfold grant
  split
  · exact .refl s
  · split
    · exact kept_rest s ..
    · exact .refl s

theorem kept_settleBus (s : State) : s.Kept s.settleBus :=
  (kept_foldl _ (fun s c => kept_request s c) _ s).trans (kept_grant _)

/-! ### Labels and the Composer (Chapter 6) -/

theorem kept_updLabel (s : State) (n : StationNo) (c : Nat) (f : Label → Label) :
    s.Kept (s.updLabel n c f) :=
  kept_updStation s n _ ⟨rfl, rfl, rfl, rfl, rfl, rfl, rfl, rfl, rfl, rfl, rfl, le_refl _⟩

/-- A station channel may take a completion in hand: the control channel's items are not touched. -/
theorem kept_addCompletion (s : State) (n : StationNo) (p : Completion) :
    s.Kept (s.updChan (.station n) fun ch =>
      { ch with pendingCompletions := ch.pendingCompletions ++ [p] }) :=
  kept_updChan s _ _ ⟨rfl, rfl, rfl, nofun, nofun, nofun⟩

theorem kept_finishHead (s : State) (n : StationNo) (st : Status) : s.Kept (s.finishHead n st) := by
  unfold finishHead
  split
  · exact .refl s
  · rename_i rest _
    refine Kept.trans ?_ (kept_addCompletion ..)
    refine Kept.trans (Kept.trans ?_ (kept_freeBlocks ..)) (kept_releasePins ..)
    exact kept_updStation s n _ ⟨rfl, rfl, rfl, rfl, rfl, rfl, rfl, rfl, rfl, rfl, rfl, le_refl _⟩

theorem kept_abandon (s : State) (n : StationNo) (c : Nat) (st : Status) :
    s.Kept (s.abandon n c st) := by
  unfold abandon
  split
  · exact .refl s
  · split
    · exact .refl s
    · split
      · exact kept_finishHead ..
      · exact kept_updLabel ..

theorem kept_abandonAll (n : StationNo) (st : Status) (l : List Nat) :
    ∀ s : State, s.Kept (s.abandonAll n st l) := by
  induction l with
  | nil => exact fun s => .refl s
  | cons c l ih => exact fun s => (kept_abandon ..).trans (ih _)

theorem kept_join (s : State) (n : StationNo) (l : Label) : s.Kept (s.join n l) := by
  let s1 := s.updStation n fun t =>
    { t with queue := t.queue ++ [{ l with state := .accepted, stamp := some s.nextStamp }],
             fetching := none, parkTimer := none }
  have a : s.Kept s1 := kept_updStation s n _
    ⟨rfl, rfl, rfl, rfl, rfl, rfl, rfl, rfl, rfl, rfl, rfl, le_refl _⟩
  have b : s1.Kept { s1 with nextStamp := s1.nextStamp + 1 } := kept_rest s1 ..
  have c : State.Kept { s1 with nextStamp := s1.nextStamp + 1 }
      (State.updChan { s1 with nextStamp := s1.nextStamp + 1 } (.station n) fun ch =>
        { ch with held := ch.held ++ [l.index] }) :=
    kept_updChan _ (.station n) _ ⟨rfl, rfl, rfl, nofun, nofun, nofun⟩
  exact ((a.trans b).trans c).trans (kept_dropHand ..)

theorem kept_discardFetching (s : State) (n : StationNo) : s.Kept (s.discardFetching n) := by
  unfold discardFetching
  split
  · exact .refl s
  · refine Kept.trans (Kept.trans ?_ (kept_releasePins ..)) (kept_freeBlocks ..)
    exact kept_updStation s n _ ⟨rfl, rfl, rfl, rfl, rfl, rfl, rfl, rfl, rfl, rfl, rfl, le_refl _⟩

theorem kept_drawOne (s : State) (h : Nat) : s.Kept (s.drawOne h).1 := by
  unfold drawOne
  split
  · exact .refl s
  · exact ((kept_writeContents ..).trans (kept_writeContent ..)).trans (kept_unpinCounter ..)

theorem kept_drawAll (hs : List Nat) : ∀ s : State, s.Kept (s.drawAll hs).1 := by
  induction hs with
  | nil => exact fun s => .refl s
  | cons h hs ih => exact fun s => (kept_drawOne s h).trans (ih _)

theorem kept_updCandidate (s : State) (n : StationNo) (c : Nat) (f : Label → Label) :
    s.Kept (s.updCandidate n c f) := kept_updLabel ..

theorem kept_composerTake (s : State) (n : StationNo) (l : Label) : s.Kept (s.composerTake n l) := by
  unfold composerTake
  split
  · exact kept_updCandidate ..
  · exact ((kept_drawAll ..).trans (kept_updCandidate ..)).trans (kept_rest _ ..)

theorem kept_composerChoose (k : Nat) : ∀ s : State, s.Kept (State.composerChoose k s) := by
  induction k with
  | zero => exact fun s => .refl s
  | succ k ih =>
    intro s
    unfold composerChoose
    split
    · exact .refl s
    · split
      · exact .refl s
      · split
        · exact .refl s
        · exact (kept_composerTake ..).trans (ih _)

theorem kept_endMarked (s : State) (j : Job) (st : Status) : s.Kept (s.endMarked j st) := by
  unfold endMarked
  dsimp only
  split
  · exact ((kept_updLabel ..).trans (kept_rest _ ..)).trans (kept_finishHead ..)
  · exact (kept_updLabel ..).trans (kept_rest _ ..)

theorem kept_rejectField (s : State) (j : Job) : s.Kept (s.rejectField j) :=
  (kept_updLabel ..).trans (kept_rest _ ..)

theorem kept_placeField (s : State) (j : Job) (l : Label) (es : List Element) (w : Warnings)
    (x : Option Int) : s.Kept (s.placeField j l es w x) :=
  ((kept_writeEntries ..).trans (kept_updLabel ..)).trans (kept_rest _ ..)

theorem kept_completeLabel (s : State) (j : Job) (l : Label) : s.Kept (s.completeLabel j l) :=
  ((kept_writeEntries ..).trans (kept_updLabel ..)).trans (kept_rest _ ..)

/-! ### Stations (Chapter 7) -/

theorem kept_enter (s : State) (n : StationNo) (st : StationState) : s.Kept (s.enter n st) :=
  kept_updStation s n _ ⟨rfl, rfl, rfl, rfl, rfl, rfl, rfl, rfl, rfl, rfl, rfl, le_refl _⟩

theorem kept_wakeUp (s : State) (n : StationNo) (c : WakeCause) : s.Kept (s.wakeUp n c) :=
  (kept_enter ..).trans
    (kept_updStation _ n _ ⟨rfl, rfl, rfl, rfl, rfl, rfl, rfl, rfl, rfl, rfl, rfl, le_refl _⟩)

theorem kept_skipOne (s : State) (n : StationNo) : s.Kept (s.skipOne n) := by
  unfold skipOne
  split
  · split
    · exact kept_abandon ..
    · exact .refl s
  · exact .refl s

theorem kept_skipMany (n : StationNo) (k : Nat) : ∀ s : State, s.Kept (s.skipMany n k) := by
  induction k with
  | zero => exact fun s => .refl s
  | succ k ih => exact fun s => (kept_skipOne ..).trans (ih _)

theorem kept_skipPending (s : State) (n : StationNo) : s.Kept (s.skipPending n) :=
  (kept_updStation s n _
    ⟨rfl, rfl, rfl, rfl, rfl, rfl, rfl, rfl, rfl, rfl, rfl, Nat.zero_le _⟩).trans
    (kept_skipMany ..)

theorem kept_enterHeld (s : State) (n : StationNo) : s.Kept (s.enterHeld n) :=
  ((kept_enter ..).trans
    (kept_updStation _ n _
      ⟨rfl, rfl, rfl, rfl, rfl, rfl, rfl, rfl, rfl, rfl, rfl, le_refl _⟩)).trans
    (kept_skipPending ..)

theorem kept_enterRest (s : State) (n : StationNo) : s.Kept (s.enterRest n) := by
  unfold enterRest
  split
  · exact kept_enterHeld ..
  · exact kept_enter ..

theorem kept_enterReturn (s : State) (n : StationNo) : s.Kept (s.enterReturn n) := by
  unfold enterReturn
  split
  · exact kept_enterHeld ..
  · exact kept_enter ..

theorem kept_enterFault (s : State) (n : StationNo) (c : FaultCause) : s.Kept (s.enterFault n c) :=
  (((kept_enter ..).trans
    (kept_updStation _ n _
      ⟨rfl, rfl, rfl, rfl, rfl, rfl, rfl, rfl, rfl, rfl, rfl, le_refl _⟩)).trans
    (kept_raise ..)).trans (kept_skipPending ..)

theorem kept_setStock (s : State) (n : StationNo) (r a : Bool) : s.Kept (s.setStock n r a) :=
  kept_updStation s n _ ⟨rfl, rfl, rfl, rfl, rfl, rfl, rfl, rfl, rfl, rfl, rfl, le_refl _⟩

theorem kept_finishWorking (s : State) (n : StationNo) (st : Status) :
    s.Kept (s.finishWorking n st) := by
  unfold finishWorking
  split
  · exact kept_finishHead ..
  · exact .refl s

theorem kept_mediaFault (s : State) (n : StationNo) : s.Kept (s.mediaFault n) :=
  ((kept_finishWorking ..).trans (kept_setStock ..)).trans (kept_enterFault ..)

theorem kept_calibrationFails (s : State) (n : StationNo) : s.Kept (s.calibrationFails n) :=
  ((kept_report ..).trans (kept_setStock ..)).trans (kept_enterReturn ..)

theorem kept_stepMotor (s : State) (n : StationNo) : s.Kept (s.stepMotor n) :=
  kept_updStation s n _ ⟨rfl, rfl, rfl, rfl, rfl, rfl, rfl, rfl, rfl, rfl, rfl, le_refl _⟩

theorem kept_setFeed (s : State) (n : StationNo) (k : LineKind) (p : Nat) :
    s.Kept (s.setFeed n k p) :=
  kept_updStation s n _ ⟨rfl, rfl, rfl, rfl, rfl, rfl, rfl, rfl, rfl, rfl, rfl, le_refl _⟩

theorem kept_firePrinted (s : State) (n : StationNo) : s.Kept (s.firePrinted n) := by
  unfold firePrinted
  dsimp only
  split
  · exact (kept_updStation s n _
      ⟨rfl, rfl, rfl, rfl, rfl, rfl, rfl, rfl, rfl, rfl, rfl, le_refl _⟩).trans (kept_setFeed ..)
  · exact kept_setFeed ..

theorem kept_beginPrinting (s : State) (n : StationNo) (k : LineKind) :
    s.Kept (s.beginPrinting n k) := by
  unfold beginPrinting
  dsimp only
  split
  · exact kept_updStation s n _ ⟨rfl, rfl, rfl, rfl, rfl, rfl, rfl, rfl, rfl, rfl, rfl, le_refl _⟩
  · split
    · exact kept_mediaFault ..
    · split
      · exact kept_mediaFault ..
      · split <;>
          first
          | exact (kept_stepMotor ..).trans (kept_firePrinted ..)
          | exact (kept_stepMotor ..).trans (kept_setFeed ..)

theorem kept_beginEjecting (s : State) (n : StationNo) : s.Kept (s.beginEjecting n) := by
  unfold beginEjecting
  dsimp only
  split
  · exact kept_mediaFault ..
  · split
    · exact kept_mediaFault ..
    · exact (kept_stepMotor ..).trans (kept_setFeed ..)

theorem kept_beginCalibrating (s : State) (n : StationNo) (l e : Nat) :
    s.Kept (s.beginCalibrating n l e) := by
  unfold beginCalibrating
  dsimp only
  split
  · exact kept_calibrationFails ..
  · split
    · exact kept_calibrationFails ..
    · exact (kept_stepMotor ..).trans (kept_setFeed ..)

theorem kept_resetUnregistered (s : State) (n : StationNo) : s.Kept (s.resetUnregistered n) :=
  kept_updStation s n _ ⟨rfl, rfl, rfl, rfl, rfl, rfl, rfl, rfl, rfl, rfl, rfl, le_refl _⟩

theorem kept_peelEnd (s : State) (n : StationNo) : s.Kept (s.peelEnd n) := by
  have k : s.Kept (s.updStation n fun t => { t with aligned := true }) :=
    kept_updStation s n _ ⟨rfl, rfl, rfl, rfl, rfl, rfl, rfl, rfl, rfl, rfl, rfl, le_refl _⟩
  unfold peelEnd
  dsimp only
  split
  · exact (k.trans (kept_finishHead ..)).trans (kept_enterRest ..)
  · split
    · exact (k.trans (kept_updLabel ..)).trans (kept_enter ..)
    · exact k.trans (kept_enter ..)

theorem kept_afterPrinted (s : State) (n : StationNo) : s.Kept (s.afterPrinted n) := by
  unfold afterPrinted
  dsimp only
  split
  · split
    · exact kept_beginPrinting ..
    · split
      · exact kept_peelEnd ..
      · exact kept_beginPrinting ..
  · exact .refl s

theorem kept_afterPeel (s : State) (n : StationNo) (k : Nat) : s.Kept (s.afterPeel n k) := by
  unfold afterPeel
  split
  · split
    · exact kept_beginPrinting ..
    · exact kept_peelEnd ..
  · exact .refl s

theorem kept_releasePaused (s : State) (n : StationNo) : s.Kept (s.releasePaused n) := by
  unfold releasePaused
  dsimp only
  split
  · split
    · exact kept_beginPrinting ..
    · exact .refl s
  · exact .refl s

theorem kept_printStart (s : State) (n : StationNo) (l : Label) : s.Kept (s.printStart n l) := by
  have k : s.Kept (((s.enter n .printing).updStation n fun t =>
      { t with triggers := t.triggers.drop 1,
               printDeadline := ((s.station n).triggers.head?).map fun e => e.deadline,
               drive := some Drive.initial }).updLabel n l.ctx
      fun l => { l with state := .printing }) := by
    refine Kept.trans ((kept_enter s n .printing).trans ?_) (kept_updLabel ..)
    refine kept_updStation _ n _ ⟨rfl, rfl, rfl, rfl, rfl, rfl, rfl, rfl, rfl, rfl, rfl, ?_⟩
    exact (List.length_drop ..).le.trans (Nat.sub_le ..)
  have k2 := k.trans (kept_resetUnregistered _ n)
  unfold printStart
  dsimp only
  split
  · exact k2.trans (kept_beginPrinting ..)
  · exact k2.trans (kept_beginPrinting ..)

theorem kept_startEject (s : State) (n : StationNo) : s.Kept (s.startEject n) :=
  (((kept_enter ..).trans
    (kept_updStation _ n _
      ⟨rfl, rfl, rfl, rfl, rfl, rfl, rfl, rfl, rfl, rfl, rfl, le_refl _⟩)).trans
    (kept_resetUnregistered ..)).trans (kept_beginEjecting ..)

theorem kept_abortCheck (s : State) (n : StationNo) (again : Bool) :
    s.Kept (s.abortCheck n again) := by
  unfold abortCheck
  split
  · exact .refl s
  · split
    · dsimp only
      split
      · exact (kept_rest s ..).trans (kept_report ..)
      · split
        · exact kept_rest s ..
        · exact kept_rest s ..
    · exact .refl s

theorem kept_endCalibration (s : State) (n : StationNo) (st : Status) :
    s.Kept (s.endCalibration n st) := by
  unfold endCalibration
  split
  · exact kept_report ..
  · exact .refl s

theorem kept_overrun (s : State) (n : StationNo) : s.Kept (s.overrun n) := by
  have k : s.Kept (((s.finishWorking n .skipped).endCalibration n .aborted).abortCheck n true) :=
    ((kept_finishWorking ..).trans (kept_endCalibration ..)).trans (kept_abortCheck ..)
  unfold overrun
  dsimp only
  split
  · refine ((k.trans ?_).trans (kept_enterFault ..)).trans (kept_skipOne ..)
    exact kept_updStation _ n _ ⟨rfl, rfl, rfl, rfl, rfl, rfl, rfl, rfl, rfl, rfl, rfl, le_refl _⟩
  · exact (k.trans (kept_enterFault ..)).trans (kept_skipOne ..)

theorem kept_headOpened (s : State) (n : StationNo) : s.Kept (s.headOpened n) :=
  ((((kept_finishWorking ..).trans (kept_endCalibration ..)).trans (kept_abortCheck ..)).trans
    (kept_setStock ..)).trans (kept_enterFault ..)

/-! ### Pairing and the start test (R136, R141, R142) -/

theorem kept_dropTrigger (s : State) (n : StationNo) (k : Nat) : s.Kept (s.dropTrigger n k) := by
  refine kept_updStation s n _ ⟨rfl, rfl, rfl, rfl, rfl, rfl, rfl, rfl, rfl, rfl, rfl, ?_⟩
  exact List.length_eraseIdx_le ..

theorem kept_expireEntry (s : State) (n : StationNo) (k : Nat) (l : Label) :
    s.Kept (s.expireEntry n k l) := by
  unfold expireEntry
  dsimp only
  split
  · exact (kept_dropTrigger ..).trans (kept_finishHead ..)
  · exact (kept_dropTrigger ..).trans (kept_abandon ..)

theorem kept_pair (n : StationNo) (r : Nat) : ∀ s : State, s.Kept (State.pair n r s) := by
  induction r with
  | zero => exact fun s => .refl s
  | succ r ih =>
    intro s
    unfold pair
    split
    · exact .refl s
    · dsimp only
      split
      · exact (kept_expireEntry ..).trans (ih _)
      · refine Kept.trans ?_ (ih _)
        refine kept_updStation s n _ ⟨rfl, rfl, rfl, rfl, rfl, rfl, rfl, rfl, rfl, rfl, rfl, ?_⟩
        exact (List.length_set ..).le

theorem kept_startLoop (n : StationNo) (r : Nat) : ∀ s : State, s.Kept (State.startLoop n r s) := by
  induction r with
  | zero => exact fun s => .refl s
  | succ r ih =>
    intro s
    unfold startLoop
    split
    · exact .refl s
    · exact kept_printStart ..
    · refine Kept.trans (Kept.trans ?_ (kept_finishHead ..)) (ih _)
      refine kept_updStation s n _ ⟨rfl, rfl, rfl, rfl, rfl, rfl, rfl, rfl, rfl, rfl, rfl, ?_⟩
      exact (List.length_drop ..).le.trans (Nat.sub_le ..)

/-! ### The Dot Check Unit (Chapter 9) -/

theorem kept_enterChecking (s : State) (n : StationNo) (b : ReturnState) :
    s.Kept (s.enterChecking n b) :=
  (kept_updStation s n _
    ⟨rfl, rfl, rfl, rfl, rfl, rfl, rfl, rfl, rfl, rfl, rfl, le_refl _⟩).trans (kept_enter ..)

theorem kept_beginAtStation (s : State) (n : StationNo) : s.Kept (s.beginAtStation n) := by
  unfold beginAtStation
  split
  · exact kept_enterChecking ..
  · exact kept_enterChecking ..
  · exact (kept_wakeUp ..).trans (kept_updStation _ n _
      ⟨rfl, rfl, rfl, rfl, rfl, rfl, rfl, rfl, rfl, rfl, rfl, le_refl _⟩)
  · exact kept_updStation s n _ ⟨rfl, rfl, rfl, rfl, rfl, rfl, rfl, rfl, rfl, rfl, rfl, le_refl _⟩
  all_goals exact .refl s

theorem kept_beginCheck (s : State) (n : StationNo) (o : CheckOrigin) :
    s.Kept (s.beginCheck n o) := (kept_beginAtStation s n).trans (kept_rest _ ..)

/-! ### The end of an event -/

theorem kept_startAll (s : State) : s.Kept s.startAll :=
  kept_foldl _ (fun s n => kept_startLoop n _ s) _ s

theorem kept_pairAll (s : State) : s.Kept s.pairAll := kept_foldl _ (fun s n => kept_pair n _ s) _ s

theorem kept_parkTimers (s : State) : s.Kept s.parkTimers :=
  kept_foldl _ (fun s n => kept_updStation s n _
    ⟨rfl, rfl, rfl, rfl, rfl, rfl, rfl, rfl, rfl, rfl, rfl, le_refl _⟩) _ s

theorem kept_serveAndStart (k : Nat) : ∀ s : State, s.Kept (s.serveAndStart k) := by
  induction k with
  | zero => exact fun s => kept_startAll s
  | succ k ih =>
    intro s
    have r : s.Kept { s with freeIndex := s.freeIndex + 1 } := kept_rest s ..
    unfold serveAndStart
    split
    · exact kept_startAll s
    · split
      · dsimp only
        split
        · exact (r.trans (kept_beginCheck ..)).trans (kept_startAll _)
        · exact (r.trans (kept_startLoop _ _ _)).trans (ih _)
      · exact (kept_beginCheck ..).trans (kept_startAll _)

theorem kept_settleStations (s : State) : s.Kept s.settleStations :=
  (((kept_pairAll s).trans (kept_composerChoose _ _)).trans (kept_serveAndStart _ _)).trans
    (kept_parkTimers _)

end State

end Sys2Proof.Machine
end

