-- ==== Sys2Proof/Laws/Lanes.lean ====
section
/-! SUPPORT. A station that enters a state has the head power and the lane items of that state. -/

namespace Sys2Proof.Machine

theorem Station.enter_powerLegal (t : Station) (new : StationState) (clock : Word) :
    (t.enter new clock).powerLegal = true := by
  cases new <;> rfl

theorem Station.enter_workLegal (t : Station) (new : StationState) (clock : Word) :
    (t.enter new clock).workLegal = true := by
  cases new <;> simp [Station.workLegal, Station.enter, StationState.feeds]

/-- Legal head power is a matter of state and power alone. -/
theorem Station.powerLegal_of_same {a b : Station} (h : a.powerLegal = true) (hs : b.state = a.state)
    (hp : b.power = a.power) : b.powerLegal = true := by
  simpa only [Station.powerLegal, hs, hp] using h

/-- Legal lane items are a matter of the state and those items alone. -/
theorem Station.workLegal_of_same {a b : Station} (h : a.workLegal = true) (hs : b.state = a.state)
    (ho : b.labelOut = a.labelOut) (hm : b.motor = a.motor) (hf : b.feed = a.feed)
    (hd : b.drive = a.drive) (hw : b.wakeTimer = a.wakeTimer) (hc : b.checkDue = a.checkDue)
    (ha : b.applyTimer = a.applyTimer) (hk : b.parkTimer = a.parkTimer)
    (hl : b.printDeadline = a.printDeadline) (hr : b.returnState = a.returnState) :
    b.workLegal = true := by
  simpa only [Station.workLegal, hs, ho, hm, hf, hd, hw, hc, ha, hk, hl, hr] using h

end Sys2Proof.Machine
end

