-- ==== Sys2Proof/Laws/Settle.lean ====
section
/-! SUPPORT. The end of an event that leaves nothing to do: each part of it, and the whole, answers the state it
was given. -/

namespace Sys2Proof.Machine

/-! ### Updates that change nothing -/

theorem State.updStation_self {s : State} {n : StationNo} {f : Station → Station}
    (h : f (s.station n) = s.station n) : s.updStation n f = s := by
  unfold updStation
  rw [show f (s.stations.get n) = s.stations.get n from h, Four.set_get]

theorem State.updChan_self {s : State} {c : Chan} {f : Channel → Channel}
    (h : f (s.chan c) = s.chan c) : s.updChan c f = s := by
  cases c with
  | control => simp only [updChan, show f s.control = s.control from h]
  | station n =>
    simp only [updChan, show f (s.rings.get n) = s.rings.get n from h, Four.set_get]

theorem Four.set_set {α : Type} (f : Four α) (n : StationNo) (a b : α) :
    (f.set n a).set n b = f.set n b := by cases n <;> rfl

theorem State.updStation_updStation (s : State) (n : StationNo) (f g : Station → Station) :
    (s.updStation n f).updStation n g = s.updStation n (g ∘ f) := by
  simp only [updStation, Four.get_set_same, Four.set_set, Function.comp]

theorem State.updChan_updChan (s : State) (c : Chan) (f g : Channel → Channel) :
    (s.updChan c f).updChan c g = s.updChan c (g ∘ f) := by
  cases c with
  | control => rfl
  | station n => simp only [updChan, Four.get_set_same, Four.set_set, Function.comp]

theorem StationNo.mem_all (n : StationNo) : n ∈ StationNo.all := by cases n <;> decide

theorem Chan.mem_all (c : Chan) : c ∈ Chan.all := by
  rcases c with _ | n
  · decide
  · cases n <;> decide

/-- A fold of operations that each leave a state as it is leaves it as it is. -/
theorem foldl_self {β : Type} (f : State → β → State) (l : List β) (s : State)
    (h : ∀ b ∈ l, f s b = s) : l.foldl f s = s := by
  induction l with
  | nil => rfl
  | cons b bs ih =>
    rw [List.foldl_cons, h b (List.mem_cons_self ..)]
    exact ih fun x hx => h x (List.mem_cons_of_mem _ hx)

/-! ### The parts of the end of an event -/

theorem State.pair_self {s : State} {n : StationNo} (r : Nat)
    (h : (s.station n).newPair? = none) : State.pair n r s = s := by
  cases r with
  | zero => rfl
  | succ r => simp only [State.pair, h]

theorem State.startLoop_self {s : State} {n : StationNo} (r : Nat) (h : s.startTest n = .wait) :
    State.startLoop n r s = s := by
  cases r with
  | zero => rfl
  | succ r => simp only [State.startLoop, h]

theorem State.composerChoose_self {s : State} (r : Nat)
    (h : s.composer.isSome = true ∨ s.composerPick? = none) : State.composerChoose r s = s := by
  cases r with
  | zero => rfl
  | succ r =>
    rcases h with h | h
    · simp only [State.composerChoose, h, if_true]
    · simp only [State.composerChoose, h, ite_self]

theorem State.parkStation_self {s : State} {n : StationNo}
    (h : (s.station n).parkTimerAt s.clock = (s.station n).parkTimer) : s.parkStation n = s :=
  updStation_self (by rw [h])

theorem State.pairAll_self {s : State} (h : ∀ n, (s.station n).newPair? = none) :
    s.pairAll = s :=
  foldl_self _ _ _ fun n _ => pair_self _ (h n)

theorem State.startAll_self {s : State} (h : ∀ n, s.startTest n = .wait) : s.startAll = s :=
  foldl_self _ _ _ fun n _ => startLoop_self _ (h n)

theorem State.parkTimers_self {s : State}
    (h : ∀ n, (s.station n).parkTimerAt s.clock = (s.station n).parkTimer) : s.parkTimers = s :=
  foldl_self _ _ _ fun n _ => parkStation_self (h n)

theorem State.serveAndStart_of_none {s : State} (k : Nat) (h : s.serviceStation? = none) :
    s.serveAndStart k = s.startAll := by
  cases k with
  | zero => rfl
  | succ k => simp only [State.serveAndStart, h]

/-! ### What quiet and busQuiet say -/

theorem State.quiet_iff {s : State} :
    s.quiet = true ↔
      (∀ n, (s.station n).newPair? = none ∧ s.startTest n = .wait ∧
        (s.station n).parkTimerAt s.clock = (s.station n).parkTimer) ∧
      (s.composer.isSome = true ∨ s.composerPick? = none) ∧ s.serviceStation? = none := by
  simp only [State.quiet, State.stationQuiet, Bool.and_eq_true, Bool.or_eq_true,
    List.all_eq_true, Option.isNone_iff_eq_none, beq_iff_eq, and_assoc]
  constructor
  · rintro ⟨h, hc, hs⟩
    exact ⟨fun n => h n (StationNo.mem_all n), hc, hs⟩
  · rintro ⟨h, hc, hs⟩
    exact ⟨fun n _ => h n, hc, hs⟩

theorem State.busQuiet_iff {s : State} :
    s.busQuiet = true ↔
      (∀ c, s.request c = s) ∧ (s.bus.isSome = true ∨ s.arbitrate = none) := by
  simp only [State.busQuiet, Bool.and_eq_true, Bool.or_eq_true, List.all_eq_true,
    decide_eq_true_eq, Option.isNone_iff_eq_none]
  constructor
  · rintro ⟨h, hb⟩
    exact ⟨fun c => h c (Chan.mem_all c), hb⟩
  · rintro ⟨h, hb⟩
    exact ⟨fun c _ => h c, hb⟩

/-- The end of an event has nothing to do at the stations of a quiet state. -/
theorem State.settleStations_of_quiet {s : State} (h : s.quiet = true) : s.settleStations = s := by
  obtain ⟨hn, hc, hs⟩ := quiet_iff.mp h
  unfold settleStations
  rw [pairAll_self fun n => (hn n).1, show s.chooseLabels = s from composerChoose_self _ hc,
    serveAndStart_of_none _ hs, startAll_self fun n => (hn n).2.1,
    parkTimers_self fun n => (hn n).2.2]

theorem State.grant_self {s : State} (h : s.bus.isSome = true ∨ s.arbitrate = none) :
    s.grant = s := by
  unfold grant
  rcases h with h | h
  · rw [if_pos h]
  · rw [h]; exact ite_self _

/-- The end of an event has nothing to do at the channels of a state whose bus is quiet. -/
theorem State.settleBus_of_busQuiet {s : State} (h : s.busQuiet = true) : s.settleBus = s := by
  obtain ⟨hr, hg⟩ := busQuiet_iff.mp h
  unfold settleBus
  rw [foldl_self _ _ _ fun c _ => hr c, grant_self hg]

theorem State.finishEvent_of_quiet {s : State} (h : s.quiet = true) :
    s.finishEvent = s.settleBus := by
  unfold finishEvent
  rw [settleStations_of_quiet h]

/-- A state at rest stands as it is at the end of an event. -/
theorem State.finishEvent_of_atRest {s : State} (h : s.atRest = true) : s.finishEvent = s := by
  simp only [State.atRest, Bool.and_eq_true] at h
  rw [finishEvent_of_quiet h.1, settleBus_of_busQuiet h.2]

/-! ### What a request and a grant change -/

/-- A grant touches the bus, the transfer on it and the rotation pointer alone. -/
theorem State.grant_eq (s : State) :
    ∃ b p x, s.grant = { s with bus := b, pointer := p, transfer := x } := by
  unfold State.grant
  split
  · exact ⟨s.bus, s.pointer, s.transfer, rfl⟩
  · split
    · exact ⟨_, _, _, rfl⟩
    · exact ⟨s.bus, s.pointer, s.transfer, rfl⟩

end Sys2Proof.Machine
end

