-- ==== Sys2Proof/Tests/Slice0.lean ====
section
/-! SUPPORT. Tests of the model: ill-formed commands are refused, a few commands give the results the manual states, and
for the hypotheses of every statement a concrete state and operands that meet them together. -/

namespace Sys2Proof.Tests

open Sys2Proof.Machine

set_option maxRecDepth 100000

/-! ### Small states -/

/-- An APPLY profile. -/
def prof : Profile :=
  { mode := .apply, activeLow := false, filter := 2, applyWindow := 1000, applyTimeout := 500,
    skipOnFault := false, parkDelay := 1, linePeriod := 400, leftMargin := 0, pitch := 100,
    tolerance := 10, feedToPeel := 1, strobe := List.replicate 12 100, maxDots := 32,
    autoCheck := false }

/-- A station with a profile in a state. -/
def lane (st : StationState) : Station :=
  { Station.initial with
    dotCount := 64, state := st, profile := some prof, power := true,
    parkTimer := if st = .idle then some 0 else none }

/-- The card with its ROM loaded and a station 0. -/
def card (t : Station) : State :=
  { State.reset with
    loading := false, total := 16, free := List.range 16,
    stations := { Four.fill { Station.initial with dotCount := 64 } with s0 := t } }

/-- A label in a state. -/
def lab (st : LabelState) : Label :=
  { ctx := 0, state := st, mark := none, index := 3, form := 1, formVersion := 1,
    pinned := [(1, 1)], counterPins := [], drawn := [], dotAvoid := false, slotCount := 0,
    slots := [], dataLength := 0, reservation := [1], elementCount := some 0, shifts := [],
    warnings := Warnings.none, failure := none, stamp := some 0 }

/-- An ACTIVE form: 20 lines, 8 dots wide, its first field a rule of 4 dots by 2 lines, its second a
barcode. -/
def formRecord : Record :=
  { Record.empty with
    state := .active, kind := some .form, version := 1,
    current := some { blocks := [0], length := 160, version := 1, pins := 1, refs := [] } }

/-- A card that holds the form in block 0. -/
def formCard (t : Station) : State :=
  { card t with
    table := [(1, formRecord)],
    memory := [(0, 20), (2, 8), (5, 2), (32, 3), (50, 4), (52, 2), (96, 2), (102, 1), (103, 1),
      (109, 1)] }

/-- A descriptor of 64 bytes from its first bytes. -/
def descr (first : List Byte) (owner : Byte) : List Byte :=
  first ++ List.replicate (63 - first.length) 0 ++ [owner]

/-- RCH-C holds a descriptor at some work. -/
def holding (s : State) (d : List Byte) (w : Work) : State :=
  { s with control := { s.control with state := .running, size := 16, hand := some ⟨d, 2, w⟩ } }

/-- A channel in a transfer, which holds the bus master. -/
def moving (s : State) (c : Chan) (x : Xfer) : State :=
  { s.updChan c fun ch => { ch with state := .running, size := 16, xfer := some x } with
    bus := some c }

/-- The state a command leaves, where it leaves one. -/
def after (c : Instr) (s : State) (check : State → Bool) : Bool :=
  match exec c s with
  | .next t => check t
  | .fault _ => false
  | .refused _ => false

/-- A command is refused as ill formed. -/
def illFormed (c : Instr) : Bool :=
  !c.wellFormed && match exec c (card (lane .idle)) with
    | .refused .illFormed => true
    | .refused (.notModelled _) => false
    | .refused (.transferLength _) => false
    | .next _ => false
    | .fault _ => false

/-! ### Ill-formed commands are refused -/

theorem test_illFormed_configRomLoadEnd : illFormed (.configRomLoadEnd (some [1, 2])) = true := by
  decide
theorem test_illFormed_inspectionDataRead : illFormed (.inspectionDataRead 0) = true := by decide
theorem test_illFormed_statusARead : illFormed (.statusARead .s0 0) = true := by decide
theorem test_illFormed_registerWriteIgnored_lanes :
    illFormed (.registerWriteIgnored 0x04 0 7) = true := by decide
theorem test_illFormed_registerWriteIgnored_full :
    illFormed (.registerWriteIgnored 0x44 15 7) = true := by decide
theorem test_illFormed_stationCommandBadCode :
    illFormed (.stationCommandBadCode .s0 0x13) = true := by decide
theorem test_illFormed_descriptorFetchEnd :
    illFormed (.descriptorFetchEnd .control (List.replicate 63 0)) = true := by decide
theorem test_illFormed_setProfile : illFormed (.setProfile (List.replicate 65 0)) = true := by decide
theorem test_illFormed_bodyBurstEnd_none : illFormed (.bodyBurstEnd []) = true := by decide
theorem test_illFormed_bodyBurstEnd_long :
    illFormed (.bodyBurstEnd (List.replicate 257 0)) = true := by decide
theorem test_illFormed_labelDataTransferEnd_none :
    illFormed (.labelDataTransferEnd .s0 []) = true := by decide
theorem test_illFormed_labelDataTransferEnd_long :
    illFormed (.labelDataTransferEnd .s0 (List.replicate 257 0)) = true := by decide
theorem test_illFormed_lastStartExpiry : illFormed (.lastStartExpiry .s0 4) = true := by decide
theorem test_illFormed_deadlineExpiry : illFormed (.deadlineExpiry .s0 4) = true := by decide

/-! ### A few results -/

theorem test_decodeTableWord : decodeTableWord 32 7 = none := by decide

theorem test_registerWriteIgnored_narrow :
    (Instr.registerWriteIgnored 0x44 1 7).wellFormed = true := by decide

theorem test_hold_idle : after (.hold .s0) (card (lane .idle))
    (fun t => (t.station .s0).state == .held && (t.station .s0).power) = true := by decide

theorem test_park_then_power : after (.park .s0) (card (lane .idle))
    (fun t => (t.station .s0).state == .parked && !(t.station .s0).power) = true := by decide

theorem test_define_first_blocks :
    after .define (holding (card (lane .idle)) (descr ([1, 0, 5, 0, 2] ++ List.replicate 15 0 ++
      [1, 1]) 1) .owner)
    (fun t => (t.record 5).loading == some ⟨[0, 1], 257, 0⟩ && t.free.head? == some 2 &&
      t.control.xfer == some .burst) = true := by decide

theorem test_query_free_record :
    after .query (holding (card (lane .idle)) (descr [4, 0, 5, 0] 1) .owner)
    (fun t => t.controlStatus? == some 0 && t.controlAnswer? == some (0 :: 0 :: 5 ::
      List.replicate 28 0)) = true := by decide

theorem test_strobe_widths :
    (subPhases prof .normal (-8) [1, 2] [2, 3] [1, 2, 3, 4]).map (fun x => (x.dots, x.width))
      = [([2], 50), ([1], 50), ([3], 50), ([4], 50)] := by decide

theorem test_counter_draw :
    drawString (listReader ([3, 1, 0, 1, 2, 3, 1] ++ List.replicate 9 0 ++ [0x41, 0])) =
      [0x30, 0x34, 0x31, 0x33] := by decide

theorem test_inspection_wraps_to_next_block :
    (InspectAddress.afterRead ⟨252, 8191, false, 0, true⟩) = ⟨0, 0, false, 0, true⟩ := by decide

theorem test_rom_defaults : after (.configRomLoadEnd none) State.reset
    (fun t => t.defaulted && (t.station .s3).dotCount == 832 && t.raised .configDefaulted) = true := by
  decide

/-! ### The hypotheses of the statements are met -/

theorem witness_invariants_at_reset :
    State.reset.canonical = true ∧ State.reset.ringsLegal = true ∧ State.reset.lanesLegal = true ∧
    State.reset.triggersBounded = true ∧ State.reset.atRest = true ∧
    State.reset.pending = [] := by decide

theorem witness_StepRunsFrontCommand :
    ({ State.reset with pending := [.hold .s0, .query] }).pending = .hold .s0 :: [.query] := rfl

theorem witness_step_answers_next :
    (match step { State.reset with pending := [.hold .s0] } with
      | .next _ => true
      | .fault _ => false
      | .refused _ => false) = true := by decide

theorem witness_SettingsAndEventsKept :
    after (.hold .s0) (card (lane .idle)) (fun _ => true) = true ∧
    (Instr.hold .s0).setsCard = false ∧ (Instr.hold .s0).setsEngine = false ∧
    (Instr.hold .s0).setsRings = false ∧ (Instr.hold .s0).clearsEvents = false ∧
    ((card (lane .idle)).raise .ringError).raised .ringError = true := by decide

theorem witness_StationItemsAndMemoryKept :
    after .define (card (lane .idle)) (fun _ => true) = true ∧
    Instr.define.keepsMemory = true ∧ Instr.define.setsProfile = false ∧
    Instr.define.setsThermal = false ∧ Instr.define.setsMap = false ∧
    Instr.define.recordsCommand = false ∧ Instr.define.setsInputs = false := by decide

theorem witness_RomLoadEnds_taken :
    State.reset.loading = true ∧
    (let rom : List Byte := [2, 9, 64, 0, 0, 0, 0, 4, 64, 0, 1, 2, 3, 4, 153, 0]
    rom.length = 16 ∧ rom.getD 0 0 = 2 ∧
    (∀ n : StationNo, n ∈ StationNo.all → dotCountOk ((rom.getD (2 + 2 * n.toNat) 0).toNat
      + 256 * (rom.getD (3 + 2 * n.toNat) 0).toNat) = true) ∧
    ((rom.take 14).map fun b => b.toNat).sum % 65536
      = (rom.getD 14 0).toNat + 256 * (rom.getD 15 0).toNat) := by decide

theorem witness_RomLoadEnds_defaults_size :
    (List.replicate 16 (3 : Byte)).length = 16 ∧
    2 < ((List.replicate 16 (3 : Byte)).getD 0 0).toNat := by decide

theorem witness_RomLoadEnds_defaults_dots :
    (let rom : List Byte := [0, 0, 65] ++ List.replicate 13 0
    rom.length = 16 ∧ dotCountOk ((rom.getD (2 + 2 * StationNo.s0.toNat) 0).toNat
      + 256 * (rom.getD (3 + 2 * StationNo.s0.toNat) 0).toNat) = false) := by decide

theorem witness_RomLoadEnds_defaults_sum :
    (let rom : List Byte := List.replicate 15 0 ++ [1]
    rom.length = 16 ∧ ((rom.take 14).map fun x => x.toNat).sum % 65536
        ≠ (rom.getD 14 0).toNat + 256 * (rom.getD 15 0).toNat) := by decide

theorem witness_EngineReset :
    (1#32).getLsbD 0 = true ∧ (card (lane .idle)).loading = false ∧ State.reset.loading = true ∧
    (2#32).getLsbD 0 = false ∧ (formCard (lane .idle)).canonical = true ∧
    ((formCard (lane .idle)).record 1).state = .active ∧
    ((formCard (lane .idle)).record 2).state ≠ .active := by decide

theorem witness_RegisterWrites :
    (State.reset.chan .control).state = .stopped ∧ (State.reset.chan .control).held = [] ∧
    (State.reset.chan .control).pendingCompletions = [] ∧
    ((moving State.reset (.station .s0) .fetch).chan (.station .s0)).state ≠ .stopped ∧
    (0x82000000#32).getLsbD 31 = true ∧ (0x82000000#32).extractLsb' 24 3 ≠ 0 ∧
    (0x02000000#32).getLsbD 31 = false ∧
    (let s := (card (lane .idle)).updChan .control fun ch => { ch with state := .suspended }
    (s.chan .control).state = .suspended ∧ (s.chan .control).stopPending = false ∧
    ((s.setStopPending .control).chan .control).state = .suspended ∧
    ((s.setStopPending .control).chan .control).stopPending = true) := by decide

/-- The size RCH-C has after a write of a word to its size register. -/
def sizeAfter (v : Word) : State → Option Nat := fun s =>
  match exec (.ringSizeWrite .control v) s with
  | .next t => some t.control.size
  | .fault _ => none
  | .refused _ => none

theorem witness_RegisterWrites_sizes :
    sizeAfter 15 State.reset = some 0 ∧ sizeAfter 16 State.reset = some 16 ∧
    sizeAfter 1024 State.reset = some 1024 ∧ sizeAfter 1025 State.reset = some 0 ∧
    sizeAfter 2048 State.reset = some 0 ∧ sizeAfter 2064 State.reset = some 16 := by decide

theorem witness_RegisterWrites_indices :
    (let s := State.reset.updChan .control fun ch => { ch with size := 16 }
    (15#32).toNat % 1024 < (s.chan .control).size ∧
    ¬((16#32).toNat % 1024 < (s.chan .control).size) ∧
    (1024#32).toNat % 1024 < (s.chan .control).size) := by decide

theorem witness_RegisterWrites_reads :
    (let s := { (moving (card (lane .idle)) (.station .s1) .fetch) with
      arbiter := .rotate, autoPoll := 7, checkPending := (Four.fill false).set .s1 true,
      check := some ⟨.s2, .auto, .measuring, 0, 0, [], [], none⟩ }
    let h := s.updChan (.station .s1) fun ch => { ch with
      stopCause := .noRing, stopPending := true, held := List.range 8, hand := some ⟨[], 0, .owner⟩ }
    (∀ m ∈ StationNo.all, (s.station m).dotCount ≤ 1024) ∧
    (h.chan (.station .s1)).held.length ≤ 8 ∧
    (h.chan (.station .s1)).pendingCompletions.length ≤ 8 ∧
    s.readRegister 0x00 = 0x07100000 ∧ s.readRegister 0x04 = 0x00000520 ∧
    s.readRegister 0x08 = 0x08080808 ∧ s.readRegister 0x14 = 16 ∧ s.readRegister 0x18 = 16 ∧
    h.readRegister 0x6C = 0x00008341 ∧ h.readRegister 0x1C = 0 ∧ h.readRegister 0xDC = 0 ∧
    h.readRegister 0x3F = 0) := by decide

theorem witness_RingStart :
    (let s := (card (lane .idle)).updChan (.station .s0) fun ch => { ch with size := 16 }
    (0x20#32).getLsbD (4 + (Chan.station .s0).toNat) = true ∧
    (0x20#32).getLsbD (12 + (Chan.station .s0).toNat) = false ∧ (0x20#32).getLsbD 0 = false ∧
    s.loading = false ∧ (s.chan (.station .s0)).state = .stopped ∧
    (s.chan (.station .s0)).size ≠ 0 ∧ (s.chan (.station .s0)).xfer = none ∧
    (s.chan (.station .s0)).hand = none ∧ (s.chan (.station .s0)).pendingCompletions = [] ∧
    (s.chan (.station .s1)).size = 0) := by decide

theorem witness_RingStop :
    (let s := card (lane .idle)
    let w : Word := 0x1000
    let load := moving (holding (formCard (lane .idle)) (descr [2, 0, 1] 1) (.load 0 false)) .control
      .burst
    w.getLsbD (12 + Chan.control.toNat) = true ∧ w.getLsbD 0 = false ∧
    (s.chan .control).state = .stopped ∧
    ((s.updChan .control fun ch => { ch with state := .suspended }).chan .control).xfer
      ≠ some .fetch ∧
    ((s.updChan (.station .s0) fun ch => { ch with state := .full }).chan (.station .s0)).state
      = .full ∧
    ((moving s .control .fetch).chan .control).xfer = some .fetch ∧
    ((moving s .control .fetch).chan .control).state = .running ∧
    ((moving s .control .fetch).chan .control).hand = none ∧
    (holding s [] .owner).control.hand = some ⟨[], 2, .owner⟩ ∧
    load.control.hand = some ⟨descr [2, 0, 1] 1, 2, .load 0 false⟩ ∧
    load.control.state = .running ∧ load.canonical = true ∧
    load.inTransfer .control .burst = true ∧
    { load with bus := none }.inTransfer .control .burst = false) := by decide

theorem witness_RingStop_aborts :
    (let load := { moving (holding { card (lane .held) with
        free := [4, 5],
        table := [(1, { Record.empty with
          state := .loading, kind := some .counter, version := 1,
          loading := some ⟨[2, 3], 300, 0⟩ })] }
      (descr [1, 0, 1, 0, 4] 1) (.load 0 false)) .control .burst with bus := some (.station .s0) }
    load.canonical = true ∧ load.inTransfer .control .burst = false ∧
    load.control.state = .running ∧
    after (.ringStop .control 0x1000) load (fun t => t.free == [4, 5, 2, 3] && t.table == []) = true) := by
  decide

theorem witness_PollDemandAndAutoPoll :
    (let s := card (lane .idle)
    let susp := s.updChan .control fun ch => { ch with state := .suspended, size := 16 }
    let writes := moving s (.station .s0) .pendingCompletion |>.updChan (.station .s0) fun ch =>
      { ch with state := .suspended, pendingCompletions := [⟨3, [7]⟩], held := [3] }
    (1#32).getLsbD Chan.control.toNat = true ∧ (1#32).getLsbD (Chan.station .s0).toNat = false ∧
    s.busQuiet = true ∧ (s.chan .control).state = .stopped ∧
    (moving s .control .fetch).busQuiet = true ∧
    ((moving s .control .fetch).chan .control).state = .running ∧
    ((moving s .control .fetch).updChan .control fun ch =>
      { ch with state := .suspended }).busQuiet = true ∧
    susp.busQuiet = true ∧ (susp.chan .control).xfer = none ∧
    (susp.chan .control).hand = none ∧
    (2#32).getLsbD (Chan.station .s0).toNat = true ∧ writes.busQuiet = true ∧
    (writes.chan (.station .s0)).state = .suspended ∧
    (writes.chan (.station .s0)).xfer = some .pendingCompletion) := by decide

theorem witness_PollDemandAndAutoPoll_expiry :
    (let s := { (card (lane .held)).updChan .control fun ch =>
      { ch with state := .suspended, autoPollTimer := some 5 } with autoPoll := 4 }
    (s.chan .control).autoPollTimer = some 5 ∧ autoPollMs s.autoPoll = some 10 ∧
    (s.chan .control).state = .suspended ∧ (s.chan .control).xfer = none ∧
    (s.chan .control).hand = none ∧ (s.chan .control).pendingCompletions = []) := by decide

theorem witness_BusGrant :
    (let s := card (lane .idle)
    let w := (s.updChan (.station .s2) fun ch => { ch with xfer := some .fetch }).updChan .control
      fun ch => { ch with xfer := some .fetch }
    (moving s .control .fetch).bus.isSome = true ∧ s.waiting .control = false ∧ w.bus = none ∧
    w.arbiter = .labelsFirst ∧ w.waiting (.station .s2) = true ∧
    { w with arbiter := .rotate }.arbiter = .rotate ∧
    (∀ d ∈ Chan.all, w.waiting d = true →
      circleDistance w.pointer (.station .s2) ≤ circleDistance w.pointer d) ∧
    (let v := s.updChan .control fun ch => { ch with xfer := some .fetch }
    v.waiting .control = true ∧ ∀ m ∈ StationNo.all, v.waiting (.station m) = false)) := by decide

theorem witness_BusGrant_transfers :
    (let ch := { Channel.initial with base := 0xFFFFFFC0, size := 16, fetchIndex := 1 }
    let d := descr ([1, 0, 1, 0, 4] ++ List.replicate 11 0 ++ [0, 0, 0, 16, 44, 1]) 1
    { ch with xfer := some .fetch }.hostTransfer? .control = some ⟨0, 64, false⟩ ∧
    { ch with xfer := some .burst, hand := some ⟨d, 2, .load 1 false⟩ }.hostTransfer? .control
      = some ⟨0x10000100, 44, false⟩ ∧
    { ch with xfer := some .profile, hand := some ⟨d, 2, .profile⟩ }.hostTransfer? .control
      = some ⟨0x10000000, 64, false⟩ ∧
    { ch with xfer := some .data, hand := some ⟨descr (List.replicate 7 0 ++ [44, 1, 0, 0, 0, 0, 0,
        0, 0, 32]) 1, 2, .data 1⟩ }.hostTransfer? (.station .s0)
      = some ⟨0x20000100, 44, false⟩ ∧
    { ch with xfer := some .handCompletion, hand := some ⟨d, 1, .complete [7]⟩ }.hostTransfer?
      .control = some ⟨32, 2, true⟩ ∧
    { ch with xfer := some .pendingCompletion, pendingCompletions := [⟨0, [7]⟩] }.hostTransfer?
      (.station .s0) = some ⟨0xFFFFFFD1, 2, true⟩) := by decide

theorem witness_EventCauses :
    ((State.reset.raise (.ringSuspended (.station .s3))).raise .configDefaulted).readRegister 0x20
      = 0x10000200 ∧
    (State.reset.raise (.dotcheckDone .s3)).raised (.dotcheckDone .s3) = true := by decide

theorem witness_InspectionWindow :
    State.reset.inspect.mapArea = false ∧ (15#4) ≠ 0 ∧
    (⟨0, 0, false, 0, true⟩ : InspectAddress).offset ≠ 252 ∧
    (⟨252, 8, true, 0, true⟩ : InspectAddress).offset = 252 ∧
    State.reset.inspect.postIncrement = false := by decide

theorem witness_InspectionWindow_reads :
    { State.reset with inspect := ⟨252, 8191, true, 3, true⟩ }.readRegister 0x28 = 0x171FFFFC ∧
    (0x12345678#32) &&& laneMask 5 = 0x00340078 := by decide

theorem witness_InspectionWindow_map :
    (let s := { card { lane .idle with
        map := [(.short, 9)], summary := ⟨1, [⟨0, .short, 9⟩]⟩ } with
      inspect := ⟨0, 0, true, 0, true⟩ }
    s.inspect.mapArea = true ∧ s.inspect.mapStation.toNat = StationNo.s0.toNat ∧
    s.loading = false ∧ 0 < (s.station .s0).dotCount ∧ 63 < (s.station .s0).dotCount ∧
    (s.station .s0).dotCount ≤ 64 ∧
    s.mapByte .s0 0 0 = 2 ∧ s.mapByte .s0 0 1 = 9 ∧ s.mapByte .s0 0 126 = 0 ∧
    s.mapByte .s0 0 128 = 0xFF ∧ s.mapByte .s0 7 255 = 0 ∧
    (s.station .s0).summary.dots[0]? = some ⟨0, .short, 9⟩ ∧
    (List.range 6).map (s.mapByte .s0 8) = [1, 0, 9, 0, 0x20, 0] ∧
    (⟨252, 8191, true, 0, true⟩ : InspectAddress).afterRead = ⟨0, 0, true, 0, true⟩ ∧
    (⟨252, 9, true, 0, true⟩ : InspectAddress).afterRead = ⟨0, 10, true, 0, true⟩) := by decide

theorem witness_LaneInputs_media :
    (card (lane .idle)).commandable .s0 ∧
    ((card (lane .idle)).station .s0).queue.length ≤ 15 ∧
    ((card (lane .idle)).station .s0).triggers.length ≤ 4 ∧
    ((card (lane .idle)).station .s0).mediaPresent = true ∧
    ((card (lane .idle)).station .s0).feedsLabel = false := by decide

theorem witness_LaneInputs_status :
    (let t := { lane .held with
      faultCause := .overrun, wakeCause := .check, holdPending := true, headOpen := true,
      queue := List.replicate 8 (lab .ready), triggers := List.replicate 4 ⟨1, 900, none⟩,
      summary := ⟨1024, []⟩, lastCode := 5, lastResult := .badCode,
      thermal := { Thermal.initial with limB := ⟨true, 60, 0, 3, true, true, true, true⟩ } }
    let s := card t
    let u := card { t with dotCount := 0 }
    s.station .s0 = t ∧ s.loading = false ∧ t.dotCount ≠ 0 ∧ t.queue.length ≤ 8 ∧
    t.triggers.length ≤ 4 ∧ t.summary.count ≤ 1024 ∧
    s.readRegister 0xA4 = 0x00CC8E49 ∧ s.readRegister 0xA8 = 0x075400F0 ∧
    (u.station .s0).dotCount = 0 ∧ u.statusA .s0 = 0 ∧ u.statusB .s0 = 0x07500000) := by decide

theorem witness_LaneInputs_trigger :
    ((card (lane .idle)).station .s0).triggerHigh = false ∧
    ((card (lane .idle)).station .s0).profile = some prof ∧ prof.mode = .apply ∧
    true ≠ prof.activeLow ∧ prof.filter ≠ 0 ∧
    ((card { lane .idle with triggerHigh := true }).station .s0).triggerHigh = !prof.activeLow ∧
    ((card (lane .offline)).station .s0).state = .offline ∧
    (let s := card { lane .printing with profile := some { prof with filter := 0 } }
    s.atRest = true ∧ (s.station .s0).state = .printing ∧
    (s.station .s0).eligible.length ≤ (s.station .s0).triggers.length ∧
    (s.station .s0).triggers.length < 4) ∧
    (let s := card { lane .printing with
      profile := some { prof with filter := 0 },
      triggers := List.replicate 4 ⟨1, 900, none⟩ }
    s.atRest = true ∧ 4 ≤ (s.station .s0).triggers.length) := by decide

theorem witness_WakeParkAndRefusals :
    State.reset.loading = true ∧ (card { lane .idle with dotCount := 0 }).loading = false ∧
    ((card { lane .idle with dotCount := 0 }).station .s0).dotCount = 0 ∧
    (0x20#32).toNat % 16 = 0 ∧ 5 < (6#32).toNat % 16 := by decide

theorem witness_station_states (st : StationState) :
    (card (lane st)).commandable .s0 ∧ ((card (lane st)).station .s0).state = st ∧
    (card (lane st)).unasked .s0 ∧ ((card (lane st)).station .s0).queue = [] ∧
    ((card (lane st)).station .s0).headOpen = false ∧
    ((card (lane st)).station .s0).mediaPresent = true ∧
    ((card (lane st)).station .s0).power = true := by cases st <;> decide

theorem witness_Hold_check :
    (let s := { card (lane .waking) with
      check := some ⟨.s0, .auto, .waiting, 0, 0, [], [], none⟩ }
    let d := holding { card (lane .waking) with
      check := some ⟨.s0, .command, .waiting, 0, 0, [], [], none⟩ } (descr [8, 0] 1) .busy
    s.commandable .s0 ∧ (s.station .s0).state = .waking ∧
    s.check = some ⟨.s0, .auto, .waiting, 0, 0, [], [], none⟩ ∧
    (∀ m ∈ StationNo.all, m ≠ StationNo.s0 → s.unasked m) ∧
    d.commandable .s0 ∧ (d.station .s0).state = .waking ∧
    d.check = some ⟨.s0, .command, .waiting, 0, 0, [], [], none⟩ ∧
    d.control.hand = some ⟨descr [8, 0] 1, 2, .busy⟩ ∧ controlCode (descr [8, 0] 1) = .dotcheck ∧
    after (.hold .s0) s (fun t => t.check.isNone && t.checkPending.get .s0) = true ∧
    after (.hold .s0) d (fun t => t.check.isNone && !t.checkPending.get .s0 &&
      t.controlStatus? == some 0x1B && (t.station .s0).state == .held) = true) := by
  decide

/-- A profile with skip-on-fault set. -/
def skipping : Profile := { prof with skipOnFault := true }

theorem witness_Hold_skip :
    (let s := card { lane .waking with
      profile := some skipping, queue := [lab .ready, { lab .accepted with ctx := 1 }],
      triggers := [⟨1, 900, some 500⟩] }
    s.commandable .s0 ∧ (s.station .s0).profile = some skipping ∧
    (∀ l ∈ (s.station .s0).queue, l.eligible = true ∧ l.state ≠ .composing) ∧
    (s.station .s0).triggers.length = 1 ∧
    after (.hold .s0) s (fun t => (t.chan (.station .s0)).pendingCompletions ==
      [⟨3, (lab .ready).completion .skipped⟩]) = true) := by decide

theorem witness_Hold_skip_composing :
    (let s := { card { lane .waking with
        profile := some skipping, queue := [lab .composing], triggers := [⟨1, 900, some 500⟩] }
      with composer := some ⟨.s0, 0, 0, 0⟩ }
    (s.station .s0).triggers ≠ [] ∧ (s.station .s0).queue = lab .composing :: [] ∧
    (lab .composing).eligible = true ∧ s.composer.isSome = true ∧ prof.skipOnFault = false) := by
  decide

theorem witness_Resume :
    ((card { lane .held with power := false }).station .s0).power = false ∧
    ((card { lane .fault with headOpen := true }).station .s0).headOpen = true ∧
    ((card { lane .fault with mediaPresent := false }).station .s0).mediaPresent = false := by decide

/-- A HELD station 0 with head power ON, a label at its head and one pending entry. -/
def resuming (l : Label) (p : Profile) : State :=
  formCard { lane .held with
    profile := some p, queue := [l], triggers := [⟨1, 900, some 500⟩] }

theorem witness_Resume_start :
    (resuming (lab .ready) prof).quiet = true ∧ (resuming (lab .ready) prof).unasked .s0 ∧
    (resuming (lab .ready) prof).commandable .s0 ∧ (lab .ready).mark = none ∧
    (resuming (lab .ready) prof).labelLines (lab .ready) ≤ prof.pitch ∧
    ((resuming (lab .ready) prof).station .s0).thermal.hotHold = false ∧
    ((resuming (lab .ready) prof).station .s0).mediaPresent = true ∧
    (if ((resuming (lab .ready) prof).station .s0).registered then
      ((resuming (lab .ready) prof).station .s0).sinceEdge else 0) < prof.pitch + prof.tolerance := by
  decide

theorem witness_Resume_finish :
    (let p := { prof with pitch := 16 }
    let f := { lab .failed with failure := some .dataRejected }
    (resuming (lab .ready) p).quiet = true ∧
    p.pitch < (resuming (lab .ready) p).labelLines (lab .ready) ∧
    (resuming f prof).quiet = true ∧ f.state = .failed ∧ f.failure = some .dataRejected) := by
  decide

theorem witness_Flush :
    (let ready := card { lane .held with queue := [lab .ready] }
    let comp := card { lane .held with queue := [lab .composing] }
    let pr := card (lane .printing)
    ready.commandable .s0 ∧
    (∀ l ∈ (ready.station .s0).queue, l.mark = none ∧ l.state ≠ .composing) ∧
    (comp.station .s0).queue = [lab .composing] ∧ (lab .composing).mark = none ∧
    (lab .composing).state = .composing ∧ (pr.station .s0).mediaPresent = true ∧
    (if (pr.station .s0).registered then (pr.station .s0).sinceEdge else 0)
      < (pr.station .s0).edgeLimit ∧
    ((card { lane .presenting with holdPending := true }).station .s0).holdPending = true) := by
  decide

theorem witness_Flush_composing :
    (let s := card { lane .held with
      queue := [lab .ready, { lab .composing with ctx := 1 }, { lab .accepted with ctx := 2 }] }
    (s.station .s0).queue
      = [lab .ready] ++ { lab .composing with ctx := 1 } :: [{ lab .accepted with ctx := 2 }] ∧
    (∀ x ∈ (s.station .s0).queue, x.mark = none) ∧
    (∀ x ∈ [lab .ready], x.state ≠ .composing) ∧
    ((card (lane .presenting)).station .s0).holdPending = false ∧
    (card (lane .presenting)).unasked .s0) := by decide

theorem witness_record_commands :
    (let s := formCard (lane .idle)
    (holding s (descr [1, 0, 5, 0, 2] 1) .owner).given (descr [1, 0, 5, 0, 2] 1) .define 2 ∧
    (holding s (descr [2, 0, 1, 0, 1] 1) .owner).given (descr [2, 0, 1, 0, 1] 1) .amend 2 ∧
    (holding s (descr [3, 0, 1] 1) .owner).given (descr [3, 0, 1] 1) .retire 2 ∧
    (holding s (descr [3, 0, 1] 1) .owner).canonical = true ∧
    (s.record 1).current = some ⟨[0], 160, 1, 1, []⟩ ∧ (s.record 1).prior = none ∧
    (holding s (descr [4, 0, 1] 1) .owner).given (descr [4, 0, 1] 1) .query 2 ∧
    (s.record 1).tag.length = 8) := by decide

theorem witness_SetProfile :
    (let s := moving (holding (card (lane .offline)) (descr [5, 0] 1) .profile) .control .profile
    s.control.hand = some ⟨descr [5, 0] 1, 2, .profile⟩ ∧ ctlStation? (descr [5, 0] 1) = some .s0 ∧
    s.inTransfer .control .profile = true ∧ (s.station .s0).state = .offline ∧
    (s.station .s0).queue = [] ∧ s.unasked .s0 ∧ (s.station .s0).headOpen = false ∧
    (profileOf (listReader (1 :: List.replicate 63 0))).mode = .stream) := by decide

/-- A profile block whose every item is in range, under APPLY. -/
def profBytes : List Byte :=
  [0, 1, 8, 1, 50, 0, 10, 0, 255, 1, 200, 0, 56, 0, 16, 0, 64, 0, 0, 4, 32, 0] ++
    (List.range 12).map (fun k => byte (k + 1)) ++ List.replicate 30 0

theorem witness_SetProfile_keeps :
    (let s := moving (holding (card { lane .idle with triggers := [⟨1, 900, none⟩] })
      (descr [5, 0] 1) .profile) .control .profile
    profileFault? (listReader profBytes) 64 = none ∧ s.quiet = true ∧ (s.station .s0).queue = [] ∧
    (profileOf (listReader profBytes)).mode = .apply ∧ (s.station .s0).state ≠ .offline ∧
    after (.setProfile profBytes) s (fun t => (t.station .s0).triggers == [⟨1, 900, none⟩] &&
      (t.station .s0).profile == some
        { mode := .apply, activeLow := true, filter := 8, applyWindow := 50, applyTimeout := 10,
          skipOnFault := true, parkDelay := 255, linePeriod := 200, leftMargin := 56, pitch := 16,
          tolerance := 64, feedToPeel := 1024,
          strobe := [10, 20, 30, 40, 50, 60, 70, 80, 90, 100, 110, 120], maxDots := 32,
          autoCheck := true }) = true) := by decide

theorem witness_SetLimits_bad :
    (let l := fun (valid threshold direction action : Byte) =>
      (ctlLimit [valid, threshold, direction, action] 0).bad
    l 3 127 1 3 = false ∧ l 1 128 0 0 = true ∧ l 1 0 2 0 = true ∧ l 1 0 0 4 = true ∧
    l 2 255 255 255 = false ∧ (ctlLimit [3, 127, 1, 2] 0)
      = ⟨true, 127, 1, 2, true, false, false, false⟩) := by decide

theorem witness_station_control_commands :
    (let s := card (lane .idle)
    (holding s (descr [6, 0] 1) .owner).given (descr [6, 0] 1) .setLimits 2 ∧
    (holding s (descr [7, 0] 1) .owner).given (descr [7, 0] 1) .calibrate 2 ∧
    (holding s (descr [8, 3] 1) .owner).given (descr [8, 3] 1) .dotcheck 2 ∧
    ctlStation? (descr [6, 0] 1) = some .s0 ∧ ctlStation? (descr [8, 3] 1) = some .s3) := by decide

/-- A descriptor of SET_LIMITS for station 0 without a valid limit. -/
def limitsDescr : List Byte := descr [6, 0, 0, 0, 0, 0, 0, 0, 8] 1

theorem witness_SetLimits_releases :
    (let s := holding (card { lane .printing with feed := some ⟨.leading, true, 400⟩ })
      limitsDescr .owner
    s.given limitsDescr .setLimits 2 ∧ ctlStation? limitsDescr = some .s0 ∧
    ctlInterval limitsDescr = 8 ∧ (ctlLimit limitsDescr 24).bad = false ∧
    (ctlLimit limitsDescr 28).bad = false ∧ (s.station .s0).state = .printing ∧
    (s.station .s0).feed = some ⟨.leading, true, 400⟩ ∧ (s.station .s0).mediaPresent = true ∧
    (s.station .s0).sinceEdge < prof.pitch + prof.tolerance) := by decide

theorem witness_FetchEnds_nothing :
    (let s := moving (card (lane .held)) .control .fetch
    (descr [] 0).length = 64 ∧ (descr [] 0).getD 63 0 ≠ 1 ∧ s.inTransfer .control .fetch = true ∧
    s.quiet = true ∧ (s.chan .control).stopPending = false ∧
    (s.chan .control).pollLatch = false ∧ (s.chan .control).state = .running ∧
    (s.chan .control).hand = none ∧ (s.chan .control).pendingCompletions = [] ∧
    (let p := s.updChan .control fun ch =>
      { ch with pollLatch := true, stopPending := true, state := .suspended }
    p.inTransfer .control .fetch = true ∧ p.quiet = true ∧
    (p.chan .control).stopPending = true ∧ (p.chan .control).pollLatch = true ∧
    (p.chan .control).state = .suspended)) := by decide

theorem witness_FetchEnds_again :
    (let s := (moving (card (lane .held)) .control .fetch).updChan .control fun ch =>
      { ch with state := .suspended, refetchDue := true }
    s.inTransfer .control .fetch = true ∧ s.quiet = true ∧ (s.chan .control).stopPending = false ∧
    (s.chan .control).pollLatch = false ∧ (s.chan .control).state = .suspended ∧
    after (.descriptorFetchEnd .control (descr [] 0)) s (fun t => !t.control.refetchDue) = true) := by
  decide

theorem witness_FetchEnds_parameters :
    (let d := descr [1, 3, 0x34, 0x02, 4, 0, 7, 1, 9, 0, 0, 0, 0, 0, 0, 5, 1, 2, 3, 4, 0, 0, 1, 0] 1
    controlCode d = .define ∧ controlCode (descr [8] 1) = .dotcheck ∧
    controlCode (descr [9] 1) = .unknown ∧ controlCode (descr [0] 1) = .unknown ∧
    ctlStation? d = some .s3 ∧ ctlStation? (descr [5, 4] 1) = none ∧ ctlHandle d = 0x234 ∧
    ctlKind? d = some .counter ∧ ctlVersion d = 263 ∧ ctlTag d = [9, 0, 0, 0, 0, 0, 0, 5] ∧
    ctlInterval d = 9 ∧ ctlAddress d = 0x04030201 ∧ ctlLength d = 65536) := by decide

theorem witness_FetchEnds_part :
    (let s := moving (card (lane .held)) (.station .s0) .fetch
    let c := moving (card (lane .held)) .control .fetch
    (descr [4] 1).length = 64 ∧ (descr [4] 1).getD 63 0 = 1 ∧ (descr [4] 1).getD 0 0 ≠ 0x10 ∧
    s.inTransfer (.station .s0) .fetch = true ∧ c.inTransfer .control .fetch = true ∧
    s.quiet = true ∧ c.quiet = true ∧ (s.chan (.station .s0)).stopPending = false ∧
    (c.chan .control).stopPending = false) := by decide

theorem witness_LabelAcceptance :
    (let s := moving { formCard (lane .held) with composer := some ⟨.s1, 0, 0, 0⟩ } (.station .s0)
      .fetch
    let d := descr [0x10, 0, 1] 1
    d.length = 64 ∧ d.getD 63 0 = 1 ∧ d.getD 0 0 = 0x10 ∧
    s.inTransfer (.station .s0) .fetch = true ∧ s.quiet = true ∧
    (s.chan (.station .s0)).stopPending = false ∧ (s.station .s0).dotCount ≠ 0 ∧
    labelForm d ≤ 1023 ∧ (s.record (labelForm d)).state = .active ∧
    formTooLarge (s.station .s0) (s.currentContent (labelForm d)) = false ∧
    labelDataBad d (formFields (s.currentContent (labelForm d))) = false ∧
    s.reservationFor d ≤ s.free.length ∧ labelDataLength d = 0 ∧
    (s.station .s0).triggers = [] ∧ s.composer.isSome = true ∧
    (s.record 1).current.isSome = true ∧
    0 < labelDataLength (descr [0x10, 0, 1, 0, 0, 0, 1, 1] 1) ∧
    labelDataBad (descr [0x10, 0, 1, 0, 0, 0, 1, 1] 1)
      (formFields (s.currentContent 1)) = false) := by decide

/-- The first bytes of a label descriptor with a slot count and a data length. -/
def slotDescr (count length : Nat) : List Byte :=
  [0x10, 0, 1, 0, 0, 0, byte count, byte length, byte (length / 256)]

theorem witness_LabelAcceptance_data :
    (let bad := fun count length => labelDataBad (slotDescr count length) []
    bad 16 1536 = false ∧ bad 17 1536 = true ∧ bad 16 1537 = true ∧ bad 0 0 = false ∧
    bad 0 1 = true ∧ bad 16 16 = false ∧ bad 16 15 = true ∧
    labelDataLength (slotDescr 16 1536) = 1536 ∧
    (let f : Field := ⟨some .text, some false, 0, 0, some .slot, 1, 5, 0, 3, 1, 0, 0, 0, 0, 0, []⟩
    labelDataBad (slotDescr 3 9) [f] = true ∧ labelDataBad (slotDescr 4 9) [f] = false ∧
    labelDataBad (slotDescr 3 9) [{ f with kind := some .rule }] = false)) := by decide

theorem witness_LabelAcceptance_size :
    (let large := fun pitch margin => formTooLarge
      { lane .idle with profile := some { prof with pitch := pitch, leftMargin := margin } }
      (listReader [20, 0, 8, 0])
    large 20 56 = false ∧ large 19 56 = true ∧ large 20 57 = true) := by decide

theorem witness_LabelAcceptance_reservation :
    (let s := formCard (lane .held)
    (s.record (labelForm (slotDescr 1 256))).current = some ⟨[0], 160, 1, 1, []⟩ ∧
    s.reservationFor (slotDescr 0 0) = 1 ∧ s.reservationFor (slotDescr 1 256) = 2 ∧
    s.reservationFor (slotDescr 1 257) = 3 ∧ reservationBlocks 16 0 = 1 ∧
    reservationBlocks 17 0 = 2) := by decide

theorem witness_LabelAcceptance_pins :
    (let s := moving { formCard (lane .held) with composer := some ⟨.s1, 0, 0, 0⟩ } (.station .s0)
      .fetch
    s.canonical = true ∧ labelForm (descr [0x10, 0, 1] 1) = 1 ∧
    after (.descriptorFetchEnd (.station .s0) (descr [0x10, 0, 1] 1)) s
      (fun t => bodyPins (t.record 1).current == 2) = true ∧
    after (.descriptorFetchEnd (.station .s0) (descr [0x10, 0, 1, 0, 0, 0, 1, 1] 1)) s
      (fun t => bodyPins (t.record 1).current == 2 && (t.station .s0).fetching.isSome) = true) := by
  decide

/-- A load of two bursts, k of them stored. -/
def loading (k : Nat) (aborting : Bool) : State :=
  moving (holding { card (lane .held) with
      free := [4, 5],
      table := [(1, { Record.empty with
        state := .loading, kind := some .counter, version := 1,
        loading := some ⟨[2, 3], 300, 256 * k⟩ })] }
    (descr [1, 0, 1, 0, 4] 1) (.load k aborting)) .control .burst

theorem witness_BodyBurstStored :
    (loading 0 false).quiet = true ∧ (loading 0 false).canonical = true ∧
    (loading 0 false).inTransfer .control .burst = true ∧
    ((loading 0 false).record (ctlHandle (descr [1, 0, 1, 0, 4] 1))).loading
      = some ⟨[2, 3], 300, 0⟩ ∧
    ([2, 3] : List Nat)[0]? = some 2 ∧ (List.replicate 256 (7 : Byte)).length = min 256 300 ∧
    (loading 0 false).control.hand = some ⟨descr [1, 0, 1, 0, 4] 1, 2, .load 0 false⟩ ∧
    (loading 0 true).control.hand = some ⟨descr [1, 0, 1, 0, 4] 1, 2, .load 0 true⟩ ∧
    (loading 0 true).quiet = true ∧ (loading 0 true).canonical = true ∧
    (∀ x ∈ ([2, 3] : List Nat), x < (loading 0 false).total) := by decide

theorem witness_LoadEnds :
    (loading 1 false).quiet = true ∧ (loading 1 false).canonical = true ∧
    (loading 1 false).inTransfer .control .burst = true ∧
    (loading 1 false).control.hand = some ⟨descr [1, 0, 1, 0, 4] 1, 2, .load 1 false⟩ ∧
    ((loading 1 false).record 1).loading = some ⟨[2, 3], 300, 256⟩ ∧
    ((loading 1 false).record 1).kind = some .counter ∧
    (List.replicate 44 (7 : Byte)).length = min 256 (300 - 256 * 1) ∧
    300 ≤ 256 + (List.replicate 44 (7 : Byte)).length := by decide

/-- The bytes of a COUNTER body in blocks 2 and 3. -/
def counterMemory : List Host.Cell := [(512, 1), (528, 5), (534, 5), (540, 9), (546, 1)]

/-- The last burst of an AMEND of record 1, with its current body. -/
def amending (kind : Kind) (old : Body) (mem : List Host.Cell) : State :=
  { loading 1 false with
    memory := mem,
    table := [(1, { Record.empty with
      state := .active, kind := some kind, version := 65535, current := some old,
      loading := some ⟨[2, 3], 300, 256⟩ })] }

theorem witness_LoadEnds_amends :
    (let c := amending .counter ⟨[6], 64, 1, 1, []⟩ counterMemory
    c.quiet = true ∧ c.canonical = true ∧ c.inTransfer .control .burst = true ∧
    (c.record 1).state ≠ .loading ∧ (c.record 1).current = some ⟨[6], 64, 1, 1, []⟩ ∧
    ([2, 3] : List Nat)[1]? = some 3 ∧
    (let stored := c.storeBurst 1 ⟨[2, 3], 300, 256⟩ 1 (List.replicate 44 7)
    stored.validate .counter (stored.content [2, 3]) 300 = none)) := by decide

theorem witness_LoadEnds_amends_font :
    (let font : List Host.Cell := [(512, 4), (513, 65), (514, 1), (528, 65), (529, 8), (530, 9),
      (532, 24)]
    let pinned := amending .font ⟨[6], 64, 1, 1, []⟩ font
    let free := amending .font ⟨[6], 64, 1, 0, []⟩ font
    pinned.quiet = true ∧ pinned.canonical = true ∧ free.quiet = true ∧ free.canonical = true ∧
    (let stored := pinned.storeBurst 1 ⟨[2, 3], 300, 256⟩ 1 (List.replicate 44 7)
    stored.validate .font (stored.content [2, 3]) 300 = none ∧
    bodyReferences .font (stored.content [2, 3]) = [])) := by decide

/-- The bytes of a body from its listed bytes. -/
def bodyOf (cells : List (Nat × Nat)) : Reader := sparseGet 0 cells

/-- A FORM body of one RULE field. -/
def ruleForm : Reader := bodyOf [(0, 20), (2, 8), (5, 1), (32, 3), (50, 4), (52, 2)]

/-- A FORM body of one TEXT field that names font 5. -/
def textForm : Reader :=
  bodyOf [(0, 20), (2, 8), (5, 1), (32, 1), (38, 1), (39, 1), (40, 5), (45, 1)]

/-- A FORM body whose RULE field has height 0. -/
def flatForm : Reader := bodyOf [(0, 20), (2, 8), (5, 1), (32, 3), (50, 4)]

theorem witness_BodiesValidated_form_header :
    ¬formHeaderOk ruleForm 95 ∧ formHeaderOk ruleForm 96 ∧ formHeaderOk textForm 96 ∧
    formHeaderOk flatForm 96 ∧ formFieldCount flatForm = 1 := by decide

/-- The field pass at a field, decided. -/
def fieldDecided (rd : Reader) (i : Nat) : Bool := decide (formFieldOk rd i)

theorem witness_BodiesValidated_form_fields :
    fieldDecided ruleForm 0 = true ∧ fieldDecided textForm 0 = true ∧
    fieldDecided flatForm 0 = false := by decide

theorem witness_BodiesValidated_form_handles :
    (card (lane .idle)).formHandlesOk ruleForm 0 ∧ ¬(card (lane .idle)).formHandlesOk textForm 0 ∧
    (card (lane .idle)).validate .form ruleForm 96 = none := by decide

/-- A FONT body of one glyph, its substitute. -/
def fontBody : Reader :=
  bodyOf [(0, 4), (1, 65), (2, 1), (16, 65), (17, 8), (18, 9), (20, 24), (24, 128)]

theorem witness_BodiesValidated_font :
    ¬fontHeaderOk fontBody 23 ∧ fontHeaderOk fontBody 28 ∧ fontCount fontBody = 1 ∧
    fontGlyphOk fontBody 28 0 ∧ ¬fontGlyphOk fontBody 27 0 ∧
    (fontGlyph fontBody 0).code = fontSubstitute fontBody ∧ validateFont fontBody 28 = none ∧
    (let other := bodyOf [(0, 4), (1, 66), (2, 1), (16, 65), (17, 8), (18, 9), (20, 24)]
    fontHeaderOk other 28 ∧ fontGlyphOk other 28 0 ∧
    (fontGlyph other 0).code ≠ fontSubstitute other) := by decide

/-- A SYMBOLOGY body of one character, with a rule and a modulus. -/
def symBody (rule modulus : Nat) : Reader :=
  bodyOf [(0, 1), (1, 1), (2, 2), (3, 1), (4, rule), (5, modulus), (16, 2), (17, 1), (18, 1),
    (29, 3), (30, 1), (31, 1), (32, 1), (64, 48), (66, 2), (67, 1), (68, 2)]

/-- The header of a SYMBOLOGY body, decided. -/
def symHeaderDecided (rd : Reader) (len : Nat) : Bool := decide (symHeaderOk rd len)

theorem witness_BodiesValidated_symbology_header :
    symHeaderDecided (symBody 0 0) 79 = false ∧ symHeaderDecided (symBody 0 0) 80 = true ∧
    symHeaderDecided (symBody 1 2) 80 = true := by decide

theorem witness_BodiesValidated_symbology_patterns :
    patternGood (symBody 0 0) 16 2 12 0 ∧ patternGood (symBody 0 0) 29 3 11 1 ∧
    ¬patternGood (bodyOf [(16, 3)]) 16 2 12 0 ∧ ¬patternGood (bodyOf [(29, 2)]) 29 3 11 1 := by
  decide

theorem witness_BodiesValidated_symbology_map :
    symCount (symBody 0 0) = 1 ∧ symEntryOk (symBody 0 0) 0 ∧ ¬symEntryOk (bodyOf [(65, 128)]) 0 ∧
    (symEntry (symBody 1 2) 0).value ≠ 1 ∧ validateSymbology (symBody 0 0) 80 = none := by decide

theorem witness_BodiesValidated_items :
    symBody 1 2 7 ≤ 8 ∧ symBody 1 2 16 ≤ 12 ∧ patternAt (symBody 1 2) 16 = [1, 1] ∧
    (formField textForm 0).kind = some .text ∧ (formField textForm 0).drawHandle = 5 ∧
    fontGlyph fontBody 0 = ⟨65, 8, 9, 24⟩ ∧ listReader [2, 0, 0, 1, 4] 4 ≤ 4 := by decide

theorem witness_BodiesValidated_counter :
    (let rd := bodyOf [(0, 1), (16, 5), (22, 5), (28, 9), (34, 1)]
    counterOk rd 64 ∧ ¬counterOk rd 63 ∧ validateCounter rd 64 = none) := by decide

theorem witness_LoadEnds_fails :
    (let stored := (loading 1 false).storeBurst 1 ⟨[2, 3], 300, 256⟩ 1 [7]
    (stored.validate .counter (stored.content [2, 3]) 300).isSome) = true := by decide

theorem witness_LoadEnds_passes :
    (let s := { loading 1 false with
      memory := [(512, 1), (528, 5), (534, 5), (540, 9), (546, 1)] }
    s.canonical = true ∧ s.validate .counter (s.content [2, 3]) 300 = none) := by decide

/-- Station 0 fetches one byte of data for a label without slots in block 1. -/
def fetchingLabel (n k : Nat) : State :=
  moving ((card { lane .parked with
      power := false, fetching := some { lab .fetching with dataLength := n, slotCount := 1 } }).updChan
    (.station .s0) fun ch => { ch with hand := some ⟨[], 5, .data k⟩ }) (.station .s0) .data

theorem witness_LabelDataEnds :
    (fetchingLabel 1 0).quiet = true ∧ (fetchingLabel 1 0).canonical = true ∧
    (fetchingLabel 1 0).inTransfer (.station .s0) .data = true ∧
    ((fetchingLabel 1 0).chan (.station .s0)).hand = some ⟨[], 5, .data 0⟩ ∧
    (({ lab .fetching with dataLength := 1, slotCount := 1 } : Label).dataBlocks)[0]? = some 1 ∧
    ([0] : List Byte).length = min 256 (1 - 256 * 0) ∧
    (parseSlots (listReader [0]) 1 1).isSome = true ∧
    (parseSlots (listReader [1]) 1 1).isSome = false ∧
    256 * 0 + (List.replicate 256 (0 : Byte)).length < 300 := by decide

theorem witness_LabelDataEnds_joins :
    (let s := { fetchingLabel 1 0 with composer := some ⟨.s1, 0, 0, 0⟩ }
    s.quiet = true ∧ s.composer.isSome = true ∧ (s.station .s0).state ≠ .idle ∧
    (s.station .s0).triggers.length ≤ (s.station .s0).eligible.length ∧
    after (.labelDataTransferEnd .s0 [0]) s (fun t => (t.station .s0).queue ==
      [{ lab .accepted with
        dataLength := 1, slotCount := 1, slots := [(1, 0)], stamp := some 0 }]) = true) := by decide

theorem witness_LabelDataEnds_refuses :
    (let s := { fetchingLabel 1 0 with table := [(1, formRecord)] }
    s.quiet = true ∧ s.canonical = true ∧ (s.record 1).state ≠ .retiring ∧
    (s.record 1).current = some ⟨[0], 160, 1, 1, []⟩ ∧ (lab .fetching).pinned = [(1, 1)] ∧
    parseSlots (listReader [97]) 1 98 = none ∧
    (parseSlots (listReader [96]) 1 97).isSome = true ∧
    parseSlots (listReader [2, 1]) 2 5 = some [(2, 2), (4, 1)] ∧
    after (.labelDataTransferEnd .s0 [1]) s (fun t =>
      bodyPins (t.record 1).current == 0 && t.free == List.range 16 ++ [1]) = true ∧
    after (.transferBusError (.station .s0)) s (fun t =>
      bodyPins (t.record 1).current == 0 && t.free == List.range 16 ++ [1]) = true) := by decide

theorem witness_CompletionWritten :
    (let s := moving (holding (card (lane .held)) [] (.complete [7])) .control .handCompletion
    let p := (moving (card (lane .held)) (.station .s0) .pendingCompletion).updChan (.station .s0)
      fun ch => { ch with pendingCompletions := [⟨3, [7]⟩], held := [3], state := .full }
    s.quiet = true ∧ s.inTransfer .control .handCompletion = true ∧
    (s.chan .control).hand = some ⟨[], 2, .complete [7]⟩ ∧ (s.chan .control).failing = false ∧
    (s.chan .control).stopPending = false ∧ (s.chan .control).state = .running ∧
    (s.chan .control).pendingCompletions = [] ∧ p.quiet = true ∧
    p.inTransfer (.station .s0) .pendingCompletion = true ∧
    (p.chan (.station .s0)).pendingCompletions = [⟨3, [7]⟩] ∧
    (p.chan (.station .s0)).state = .full) := by decide

theorem witness_TransferBusError :
    (let s := moving (card (lane .held)) .control .fetch
    let b := loading 0 false
    s.bus = some .control ∧ (s.chan .control).xfer = some .fetch ∧
    b.bus = some .control ∧ (b.chan .control).xfer = some .burst ∧ b.canonical = true ∧
    (fetchingLabel 1 0).bus = some (.station .s0) ∧
    ((fetchingLabel 1 0).chan (.station .s0)).xfer = some .data) := by decide

theorem witness_TransferBusError_completions :
    (let c := moving (holding (card (lane .held)) (descr [4] 1) (.complete [7])) .control
      .handCompletion
    let again := c.updChan .control fun ch => { ch with failing := true }
    let p := (moving (card (lane .held)) (.station .s0) .pendingCompletion).updChan (.station .s0)
      fun ch => { ch with pendingCompletions := [⟨3, [7]⟩], held := [3] }
    let busy := p.updChan (.station .s0) fun ch => { ch with hand := some ⟨[], 5, .data 0⟩ }
    let prof := moving (holding (card (lane .held)) (descr [5] 1) .profile) .control .profile
    c.bus = some .control ∧ (c.chan .control).xfer = some .handCompletion ∧
    (c.chan .control).failing = false ∧ (again.chan .control).failing = true ∧
    again.quiet = true ∧ p.bus = some (.station .s0) ∧
    (p.chan (.station .s0)).xfer = some .pendingCompletion ∧
    (p.chan (.station .s0)).pendingCompletions = [⟨3, [7]⟩] ∧
    (p.chan (.station .s0)).hand = none ∧ (busy.chan (.station .s0)).hand ≠ none ∧
    (prof.chan .control).xfer = some .profile ∧
    prof.control.hand = some ⟨descr [5] 1, 2, .profile⟩) := by decide

/-- The Composer at a field of a label of station 0. -/
def composingAt (k : Nat) (mark : Option Status) : State :=
  { formCard { lane .held with queue := [{ lab .composing with mark := mark }] } with
    composer := some ⟨.s0, 0, k, 0⟩ }

theorem witness_ComposerSteps_place :
    (composingAt 0 none).quiet = true ∧ (composingAt 0 none).canonical = true ∧
    (composingAt 0 none).inHand? = some (⟨.s0, 0, 0, 0⟩, lab .composing) ∧
    0 < (composingAt 0 none).fieldCount (lab .composing) ∧
    (match (composingAt 0 none).layField .s0 (lab .composing) 0 with
      | .placed es _ _ => decide (es.length = 1)
      | .rejected => false) = true ∧
    (lab .composing).elementBlocks.Nodup ∧
    (∀ x ∈ (lab .composing).elementBlocks, x < (composingAt 0 none).total) := by decide

/-- The Composer at the barcode field of a label, its symbology in block 3. -/
def barcodeAt : State :=
  { card { lane .held with queue := [{ lab .composing with
      pinned := [(1, 1), (5, 1)], shifts := [7] }] } with
    composer := some ⟨.s0, 0, 1, 0⟩,
    table := [(1, formRecord), (5, { formRecord with
      kind := some .symbology, current := some ⟨[3], 80, 1, 1, []⟩ })],
    memory := [(0, 20), (2, 8), (5, 2), (32, 3), (50, 4), (52, 2), (96, 2), (102, 1), (103, 1),
      (104, 5), (109, 1), (110, 1), (112, 1), (128, 48), (768, 1), (769, 1), (770, 1), (784, 2),
      (785, 1), (786, 1), (797, 3), (798, 1), (799, 1), (800, 1), (832, 48), (834, 2), (835, 1),
      (836, 1)] }

theorem witness_ComposerSteps_shift :
    barcodeAt.quiet = true ∧ barcodeAt.canonical = true ∧
    ((barcodeAt.station .s0).queue.map fun l => match barcodeAt.layField .s0 l 1 with
      | .placed es _ shift => (es.length, shift)
      | .rejected => (0, none)) = [(4, some 0)] ∧
    after .composerFieldStep barcodeAt (fun t =>
      (t.station .s0).queue.map (fun l => l.shifts) == [[0]]) = true := by decide

theorem witness_ComposerSteps_reject :
    1 < (composingAt 1 none).fieldCount (lab .composing) ∧
    (match (composingAt 1 none).layField .s0 (lab .composing) 1 with
      | .placed _ _ _ => false
      | .rejected => true) = true := by decide

theorem witness_ComposerSteps_end :
    (composingAt 2 none).fieldCount (lab .composing) ≤ 2 ∧
    (composingAt 2 none).inHand? = some (⟨.s0, 0, 2, 0⟩, lab .composing) ∧
    ((composingAt 1 (some .flushed)).inHand?.map fun p => p.2.mark) = some (some .flushed) := by
  decide

/-- The Composer at a marked label with shifts, behind another label or at the head of its queue. -/
def markedAt (before : List Label) (k : Nat) : State :=
  { formCard { lane .held with
      queue := before ++ [{ lab .composing with mark := some .flushed, shifts := [7, 2] }] } with
    composer := some ⟨.s0, 0, k, 0⟩ }

/-- How the queue of station 0 stands, and how many of its labels have finished. -/
def queueOf (t : State) : List (LabelState × Option Status × List Int) × Nat :=
  ((t.station .s0).queue.map (fun l => (l.state, l.failure, l.shifts)),
    (t.chan (.station .s0)).pendingCompletions.length)

theorem witness_ComposerSteps_marked :
    (let other := { lab .accepted with ctx := 1, reservation := [2] }
    let w := { lab .composing with mark := some .flushed, shifts := [7, 2] }
    (markedAt [] 1).inHand? = some (⟨.s0, 0, 1, 0⟩, w) ∧
    ((markedAt [] 1).station .s0).queue = w :: [] ∧ 1 < (markedAt [] 1).fieldCount w ∧
    (markedAt [other] 2).inHand? = some (⟨.s0, 0, 2, 0⟩, w) ∧
    (markedAt [other] 2).fieldCount w ≤ 2 ∧ other.ctx ≠ 0 ∧
    after .composerFieldStep (markedAt [] 1) (fun t =>
      t.composer.isNone && queueOf t == ([], 1)) = true ∧
    queueOf ((markedAt [other] 2).endMarked ⟨.s0, 0, 2, 0⟩ .flushed)
      = ([(.accepted, none, []), (.failed, some .flushed, [0, 0])], 0)) := by decide

/-- Stations 0 and 1 each with an ACCEPTED label without counters, and their pending entries. -/
def choosing (a b : List Trigger) : State :=
  { card (lane .held) with
    stations := { Four.fill { Station.initial with dotCount := 64 } with
      s0 := { lane .held with queue := [{ lab .accepted with stamp := some 7 }], triggers := a },
      s1 := { lane .held with queue := [{ lab .accepted with stamp := some 5 }], triggers := b } } }

theorem witness_ComposerChooses :
    (let u := choosing [⟨1, 900, some 500⟩] [⟨1, 950, some 400⟩]
    (u.station .s0).candidate? = some { lab .accepted with stamp := some 7 } ∧
    (u.station .s0).urgentTime? = some 500 ∧ (u.station .s1).urgentTime? = some 400 ∧
    ((500 : Word) - 400).toNat < 2 ^ 31 ∧ (400 : Word) ≠ 500 ∧
    u.composerPick? = some .s1 ∧ u.composer = none) ∧
    (let o := choosing [] []
    (∀ m ∈ StationNo.all, (o.station m).urgentTime? = none) ∧
    (o.station .s1).candidate? = some { lab .accepted with stamp := some 5 } ∧
    (∀ m ∈ StationNo.all, ∀ x, x ∈ (o.station m).candidate? → 5 ≤ x.stamp.getD 0) ∧
    o.composerPick? = some .s1) := by decide

/-- A COUNTER of two digits in block 2, pinned once, in a state, with its exhausted flag. -/
def counterCard (st : RecState) (flag : Byte) (t : Station) : State :=
  { card t with
    table := [(5, { Record.empty with
      state := st, kind := some .counter, version := 1,
      current := some ⟨[2], 64, 1, 1, []⟩ })],
    memory := sparseSet 0 [(512, 2), (528, 0x45), (540, 0x99), (546, 1)] 514 flag }

theorem witness_ComposerChooses_draws :
    (let l := { lab .accepted with counterPins := [5] }
    let s := counterCard .active 0 { lane .held with queue := [l] }
    let x := counterCard .active 1 { lane .held with queue := [l] }
    s.composerPick? = some .s0 ∧ (s.station .s0).candidate? = some l ∧ s.composer = none ∧
    s.exhausted 5 = false ∧ x.exhausted 5 = true ∧ x.composerPick? = some .s0 ∧
    (s.chooseLabels.composer == some ⟨.s0, 0, 0, 0⟩) = true) := by decide

/-- A record in a state with a current body at version 2 and a prior body at version 1. -/
def pinnedRecord (st : RecState) (current prior : Nat) : State :=
  { card (lane .held) with
    table := [(1, { Record.empty with
      state := st, kind := some .font, version := 2, current := some ⟨[2], 64, 2, current, []⟩,
      prior := some ⟨[3], 64, 1, prior, []⟩ })] }

theorem witness_FieldsLaidOut :
    (let s := formCard (lane .held)
    let l := lab .composing
    let size : FormSize := ⟨8, 20⟩
    (formField (s.formContent l) 0).kind = some .rule ∧
    layRuleField size (formField ruleForm 0) false = .placed
      [{ kind := .rule, top := 0, left := 0, lines := 2, dots := 4, glyphBody := 0, bitmap := 0,
         width := 0, height := 0, rot90 := false, cellTop := 0, cellLeft := 0 }]
      Warnings.none none ∧
    pinnedPosition { l with pinned := [(1, 1), (5, 1)] } 5 = some (1, 1) ∧
    (formField textForm 0).kind = some .text ∧ (formField textForm 0).source = some .constant ∧
    ({ l with slots := [(1, 2)] } : Label).slots[0]? = some (1, 2) ∧
    ({ l with drawn := [(5, [0x30])] } : Label).drawn = [] ++ (5, [0x30]) :: []) := by decide

theorem witness_FieldsLaidOut_version :
    (let s := pinnedRecord .active 1 1
    (s.record 1).current = some ⟨[2], 64, 2, 1, []⟩ ∧
    (s.record 1).prior = some ⟨[3], 64, 1, 1, []⟩) := by decide

theorem witness_FieldsLaidOut_text :
    (let g : Glyph := ⟨65, 8, 9, 24⟩
    glyphFor fontBody 65 = some (g, false) ∧ glyphFor fontBody 66 = some (g, true) ∧
    fontHeight fontBody = 4 ∧ 0 + g.width ≤ 8 ∧ 0 + 4 ≤ 20 ∧ 8 ≤ 0 + 8 ∧
    (layText fontBody ⟨8, 20⟩ 1 0 0 false 0 [65, 65]).1.length = 1 ∧
    (layText fontBody ⟨8, 20⟩ 1 0 0 false 0 [65, 65]).2.clipped = true) := by decide

theorem witness_FieldsLaidOut_text_cut :
    (let e := (layText fontBody ⟨8, 20⟩ 1 3 18 false 0 [65]).1
    3 < 8 ∧ 18 < 20 ∧ 8 < 3 + 8 ∧
    e.map (fun x => (x.left, x.top, x.dots, x.lines, x.cellLeft, x.cellTop))
      = [(3, 18, 5, 2, 3, 18)] ∧
    (layText fontBody ⟨8, 20⟩ 1 3 18 false 0 [65]).2.clipped = true) := by decide

/-- A BARCODE field at dot 4 with modules of one dot. -/
def barField : Field :=
  { kind := some .barcode, rot90 := some false, x := 4, y := 0, source := some .constant,
    maxChars := 2, drawHandle := 5, counterHandle := 0, slot := 0, constLength := 1,
    moduleDots := 1, maxShift := 2, barHeight := 3, ruleWidth := 0, ruleHeight := 0,
    constText := [] }

theorem witness_BarcodesPlaced :
    (let rd := symBody 0 0
    ([48] : List Nat).length ≤ barField.maxChars ∧ symMin rd ≤ 1 ∧ 1 ≤ symMax rd ∧
    ((symEntries rd).map fun e => e.code) = [48] ∧ barField.maxChars < [48, 48, 48].length ∧
    (∀ e ∈ symEntries rd, e.code ≠ 49) ∧ symModulus rd = false ∧
    (symbolOf rd (symEntries rd)).bars = [(1, 1), (3, 1), (6, 1), (8, 1)] ∧
    symModulus (symBody 1 2) = true ∧
    ((symEntries (symBody 1 2)).find? fun e => e.value == checkValue (symBody 1 2) [0]).isSome
      = true) := by decide

theorem witness_BarcodesPlaced_shift :
    (let t := { lane .held with map := List.replicate 5 (.good, 100) ++ [(.open, 255)] }
    (4 : Int) + 0 + (1 * barField.moduleDots : Nat) = 5 ∧ 0 < 1 * barField.moduleDots ∧
    0 < barField.barHeight ∧ 5 + 1 * barField.moduleDots ≤ 20 ∧
    chooseShift t 0 20 barField [(1, 1)] = (1, false) ∧
    chooseShift t 0 3 barField [(1, 1)] = (0, false) ∧
    candidateShifts 2 = [0, 1, -1, 2, -2]) := by decide

theorem witness_BarcodesPlaced_edge :
    (lane .held).map = [] ∧ shiftSkipped 6 barField [(1, 2)] 0 = true ∧
    shiftSkipped 6 barField [(1, 2)] (-1) = false ∧
    chooseShift (lane .held) 0 6 barField [(1, 2)] = (-1, false) := by decide

theorem witness_BarcodesPlaced_check :
    (let position := bodyOf [(4, 1), (5, 10)]
    let cycle := bodyOf [(4, 1), (5, 10), (6, 1), (7, 2), (8, 3), (9, 1)]
    symCycle position = false ∧ symCycle cycle = true ∧ symWeights cycle = [3, 1] ∧
    checkValue position [4, 0, 7] = (4 * 1 + 0 * 2 + 7 * 3) % 10 ∧
    checkValue cycle [4, 0, 7] = (7 * 3 + 0 * 1 + 4 * 3) % 10) := by decide

theorem witness_BarcodesPlaced_failed :
    (let t := { lane .held with map := List.replicate 5 (.good, 100) ++
      [(.open, 255), (.short, 0), (.good, 90)] }
    let edge := { lane .held with dotCount := 6, map := t.map }
    let at0 := { barField with x := 0 }
    [(1, 2), (3, 1)].Pairwise (fun (a b : Nat × Nat) => a.1 + a.2 ≤ b.1) ∧
    failedInBars t 0 20 barField [(1, 2), (3, 1)] 0 = 2 ∧ failedInBars t 0 6 barField [(1, 2)] 0 = 1 ∧
    failedInBars t 1 20 barField [(1, 2)] 0 = 1 ∧ failedInBars edge 0 20 barField [(1, 2)] 0 = 1 ∧
    failedInBars t 5 20 at0 [(0, 2)] (-1) = 1 ∧
    shiftSkipped 20 at0 [(0, 2)] (-1) = true ∧ shiftSkipped 20 at0 [(0, 2)] 0 = false ∧
    shiftSkipped 7 barField [(1, 2)] 0 = false ∧ shiftSkipped 6 barField [(1, 2)] 0 = true) := by
  decide

theorem witness_BarcodesPlaced_cut :
    (let box := fun (r : Bool) (shift : Int) (b : Nat × Nat) =>
      (plainElement .bar ⟨8, 2⟩ (barBox barField r shift b)).map fun x =>
        (x.left, x.top, x.dots, x.lines)
    box false (-6) (1, 4) = some (0, 0, 3, 2) ∧ box false 0 (3, 4) = some (7, 0, 1, 2) ∧
    box false 0 (4, 4) = none ∧ box true 0 (1, 4) = some (4, 1, 3, 1) ∧ box true 0 (2, 4) = none ∧
    symbolFits ⟨8, 20⟩ barField false 0 4 = true ∧ symbolFits ⟨8, 20⟩ barField false 0 5 = false ∧
    symbolFits ⟨8, 20⟩ barField true 0 20 = true) := by decide

theorem witness_HeadFinishes :
    (let s := card { lane .held with queue := [{ lab .ready with mark := some .late }] }
    (s.station .s0).queue = { lab .ready with mark := some .late } :: [] ∧
    (lab .ready).state ≠ .composing) := by decide

theorem witness_HeadFinishes_completion :
    (let l := { lab .ready with
      formVersion := 0x102, warnings := ⟨true, false, true, true⟩, elementCount := some 0x304,
      shifts := [-1, 63], drawn := [(0x3FF, [0x31, 0x32, 0x33])] }
    (∀ p ∈ l.drawn, p.2.length ≤ 13) ∧
    l.completion .late = [0x22, 0x0D, 2, 1, 4, 3, 0xFF, 63, 0, 0, 0xFF, 0x33, 0x21, 3] ++
      List.replicate 32 0 ∧
    (∀ p ∈ [((5 : Nat), List.replicate 13 (0x39 : Byte))], p.2.length ≤ 13) ∧
    drawnEntry (5, List.replicate 13 0x39) = [5, 0xD0, 0x99, 0x99, 0x99, 0x99, 0x99, 0x99, 9] ∧
    refusalCompletion .badData = 0x19 :: List.replicate 45 0) := by decide

theorem witness_HeadFinishes_pins :
    (pinnedRecord .active 1 2).canonical = true ∧
    ((pinnedRecord .active 1 2).record 1).current = some ⟨[2], 64, 2, 1, []⟩ ∧
    ((pinnedRecord .active 1 2).record 1).prior = some ⟨[3], 64, 1, 2, []⟩ ∧
    ((pinnedRecord .active 1 1).record 1).state ≠ .retiring ∧
    ((pinnedRecord .retiring 0 1).record 1).state = .retiring ∧
    bodyPins ((pinnedRecord .retiring 1 0).record 1).prior = 0 ∧
    0 < 1 - 1 + bodyPins ((pinnedRecord .retiring 1 1).record 1).prior ∧
    ((pinnedRecord .retiring 0 1).unpinBody 1 1).raised .recordFreed = true ∧
    (((pinnedRecord .retiring 0 1).unpinBody 1 1).free.drop 16) = [3, 2] ∧
    (((pinnedRecord .retiring 1 0).unpinBody 1 2).free.drop 16) = [2, 3] := by decide

/-- The filter timer of station 0 runs. -/
def filtering (st : StationState) (k : Nat) : State :=
  card { lane st with
    filterTimer := some 3, triggers := List.replicate k ⟨1, 900, none⟩,
    power := st != .parked }

theorem witness_TriggerArrives :
    (filtering .printing 3).atRest = true ∧ (filtering .printing 4).atRest = true ∧
    (filtering .idle 0).atRest = true ∧ (filtering .parked 3).atRest = true ∧
    (filtering .held 0).atRest = true ∧ (filtering .fault 0).atRest = true ∧
    ((filtering .printing 3).station .s0).filterTimer = some 3 ∧
    ((filtering .printing 3).station .s0).profile = some prof ∧
    ((filtering .printing 3).station .s0).triggers.length < 4 ∧
    ((filtering .printing 3).station .s0).eligible.length
      ≤ ((filtering .printing 3).station .s0).triggers.length ∧ prof.skipOnFault = false := by decide

/-- The filter timer of station 0 runs with one READY label and no entry. -/
def pairing (st : StationState) (p : Profile) : State :=
  formCard { lane st with filterTimer := some 3, queue := [lab .ready], profile := some p }

theorem witness_TriggerArrives_pairs :
    (let early := pairing .waking { prof with applyWindow := 5 }
    (pairing .waking prof).atRest = true ∧ early.atRest = true ∧
    ((pairing .waking prof).station .s0).eligible[0]? = some (lab .ready) ∧
    (pairing .waking prof).leadTime .s0 (lab .ready) = 9 ∧
    (pairing .waking prof).leadTime .s0 (lab .ready) < prof.applyWindow ∧
    prof.applyWindow ≤ 10000 ∧ 5 ≤ early.leadTime .s0 (lab .ready) ∧
    early.leadTime .s0 (lab .ready) < 2 ^ 31 ∧
    after (.triggerArrival .s0) (pairing .waking prof) (fun t =>
      (t.station .s0).triggers == [⟨5, 1005, some 996⟩]) = true) := by decide

theorem witness_TriggerArrives_skips :
    (let s := pairing .held skipping
    let c := formCard { lane .fault with
      filterTimer := some 3, queue := [lab .composing], profile := some skipping }
    s.atRest = true ∧ c.atRest = true ∧ (s.station .s0).eligible = lab .ready :: [] ∧
    (s.station .s0).label? (lab .ready).ctx = some (lab .ready) ∧
    (s.station .s0).queue.head? = some (lab .ready) ∧
    (c.station .s0).eligible = lab .composing :: [] ∧
    (c.station .s0).label? 0 = some (lab .composing)) := by decide

/-- Four entries wait at station 0, the filter timer runs, and its queue holds labels of some states. -/
def overrunning (st : StationState) (p : Profile) (ls : List LabelState) : State :=
  formCard { lane st with
    filterTimer := some 3, profile := some p, aligned := true, registered := true,
    queue := ls.mapIdx fun k x => { lab x with ctx := k, index := k },
    triggers := List.replicate 4 ⟨1, 900, some 500⟩, motor := st.feeds }

theorem witness_TriggerArrives_overrun :
    (let s := overrunning .printing skipping [.printing, .ready, .ready]
    let w := overrunning .presenting skipping [.presenting, .accepted]
    let c := { overrunning .printing skipping [.printing, .composing] with
      composer := some ⟨.s0, 1, 0, 0⟩ }
    s.atRest = true ∧ c.atRest = true ∧ 4 ≤ (s.station .s0).triggers.length ∧
    skipping.skipOnFault = true ∧ { w with composer := c.composer }.atRest = true ∧
    (∀ l ∈ (s.station .s0).queue.drop 1, l.eligible = true ∧ l.state ≠ .composing) ∧
    after (.triggerArrival .s0) s (fun t => (t.chan (.station .s0)).pendingCompletions.map
      (fun x => (x.index, x.bytes.head?)) == [(0, some 0x23), (1, some 0x23), (2, some 0x23)] &&
      !(t.station .s0).aligned && (t.station .s0).registered) = true ∧
    after (.triggerArrival .s0) c (fun t => (t.station .s0).queue.map (fun l => l.mark) ==
      [some .skipped]) = true) := by decide

theorem witness_TriggerArrives_overrun_ends :
    (let c := holding (overrunning .calibrating prof []) (descr [7, 0] 1) .busy
    let k := { overrunning .checking prof [] with
      check := some ⟨.s0, .auto, .measuring, 3, 0, [], [], none⟩ }
    let d := holding { k with check := some ⟨.s0, .command, .measuring, 3, 0, [], [], none⟩ }
      (descr [8, 0] 1) .busy
    c.atRest = true ∧ k.atRest = true ∧ d.atRest = true ∧
    (overrunning .parked prof []).atRest = true ∧
    after (.triggerArrival .s0) c (fun t => t.controlStatus? == some 0x1B) = true ∧
    after (.triggerArrival .s0) k (fun t => t.check.isNone && t.checkPending.get .s0) = true ∧
    after (.triggerArrival .s0) d (fun t => t.controlStatus? == some 0x1B) = true ∧
    after (.triggerArrival .s0) (overrunning .parked prof []) (fun t =>
      !(t.station .s0).power) = true) := by decide

theorem witness_PrintStarts :
    (let s := formCard { lane .idle with
      queue := [lab .ready], triggers := [⟨1, 900, some 500⟩], parkTimer := none }
    let hot : Thermal := { Thermal.initial with
      limA := ⟨true, 60, 0, 3, false, true, true, false⟩ }
    (s.station .s0).state = .idle ∧ (s.station .s0).profile = some prof ∧
    (s.station .s0).queue = lab .ready :: [] ∧ (lab .ready).mark = none ∧
    (s.station .s0).triggers ≠ [] ∧ s.labelLines (lab .ready) ≤ prof.pitch ∧
    16 < s.labelLines (lab .ready) ∧ hot.hotHold = true ∧
    (s.station .s0).thermal.hotHold = false ∧ (s.station .s0).mediaPresent = true ∧
    (s.station .s0).aligned = false ∧
    ((s.updStation .s0 fun t => { t with aligned := true }).station .s0).aligned = true ∧
    0 < prof.pitch + prof.tolerance ∧
    (((s.startStation .s0).station .s0).state == .printing) = true) := by decide

theorem witness_TriggerExpiries :
    (let s := card { lane .held with
      queue := [lab .ready, { lab .accepted with ctx := 1 }],
      triggers := [⟨1, 900, some 500⟩, ⟨1, 950, some 550⟩] }
    let c := { s with composer := some ⟨.s1, 0, 0, 0⟩ }
    (s.station .s0).triggers[0]? = some ⟨1, 900, some 500⟩ ∧
    (s.station .s0).eligible[0]? = some (lab .ready) ∧
    (s.station .s0).label? 0 = some (lab .ready) ∧
    c.quiet = true ∧ (c.station .s0).eligible[1]? = some { lab .accepted with ctx := 1 } ∧
    (c.station .s0).label? 1 = some { lab .accepted with ctx := 1 } ∧
    (c.station .s0).queue.head? ≠ some { lab .accepted with ctx := 1 } ∧
    (filtering .held 4).atRest = true ∧
    ((filtering .held 4).station .s0).triggers[3]? = some ⟨1, 900, none⟩ ∧
    ((filtering .held 4).station .s0).eligible.length ≤ 3) := by decide

theorem witness_TriggerExpiries_removes :
    (let two := [⟨1, 900, some 500⟩, (⟨1, 950, some 550⟩ : Trigger)]
    let s := formCard { lane .held with
      queue := [lab .ready, { lab .ready with ctx := 1 }], triggers := two }
    let i := formCard { lane .idle with
      parkTimer := none, queue := [lab .accepted, { lab .ready with ctx := 1 }], triggers := two }
    let i := { i with composer := some ⟨.s1, 0, 0, 0⟩ }
    s.quiet = true ∧ i.quiet = true ∧ (s.station .s0).eligible[0]? = some (lab .ready) ∧
    (s.station .s0).label? 0 = some (lab .ready) ∧ (s.station .s0).state ≠ .idle ∧
    after (.lastStartExpiry .s0 0) s (fun t =>
      (t.station .s0).triggers == [⟨1, 950, some 550⟩]) = true ∧
    after (.lastStartExpiry .s0 0) i (fun t => (t.station .s0).triggers == [] &&
      (t.station .s0).state == .printing) = true) := by decide

/-- A line of a kind in progress at station 0. -/
def feeding (st : StationState) (k : LineKind) (since : Nat) : State :=
  { formCard { lane st with
      feed := some ⟨k, false, 400⟩, sinceEdge := since, motor := true,
      queue := if st = .printing then [lab .printing] else [],
      drive := if st = .printing then some Drive.initial else none } with
    check := none }

theorem witness_LineEnds_feed :
    (feeding .printing .leading 109).atRest = true ∧ (feeding .printing (.peel 0) 0).atRest = true ∧
    (feeding .ejecting .eject 109).atRest = true ∧
    (feeding .calibrating (.calibrate 8399 1) 8399).atRest = true ∧
    ((feeding .printing .leading 109).station .s0).feed = some ⟨.leading, false, 400⟩ ∧
    ((feeding .printing .leading 109).station .s0).sinceEdge < prof.pitch + prof.tolerance ∧
    ((feeding .printing .leading 109).station .s0).aligned = false ∧
    ((feeding .printing .leading 109).station .s0).thermal.hotHold = false ∧
    0 < prof.feedToPeel := by decide

theorem witness_LineEnds_printed :
    (feeding .printing .printed 109).atRest = true ∧
    ((feeding .printing .printed 109).station .s0).drive = some Drive.initial ∧
    Drive.initial.firing = [] ∧
    Drive.initial.nextLine < (feeding .printing .printed 109).labelLines (lab .printing) ∧
    (card { lane .printing with mediaPresent := false }).atRest = true ∧
    (card { lane .printing with
      thermal := { Thermal.initial with
        limA := ⟨true, 60, 0, 3, false, true, true, false⟩ } }).atRest = true ∧
    ({ Thermal.initial with
        limA := ⟨true, 60, 0, 3, false, true, true, false⟩ } : Thermal).hotHold = true ∧
    ((feeding .printing (.peel 1) 0).station .s0).feed
      = some ⟨.peel prof.feedToPeel, false, 400⟩ ∧ prof.mode = .apply := by decide

theorem witness_LineEnds_first_peel :
    (let s := (feeding .printing .printed 109).updStation .s0 fun t =>
      { t with drive := some { Drive.initial with nextLine := 20 } }
    let hot := s.updStation .s0 fun t => { t with thermal := { Thermal.initial with
      limA := ⟨true, 60, 0, 3, false, true, true, false⟩ } }
    let past := s.updStation .s0 fun t => { t with sinceEdge := 110 }
    s.atRest = true ∧ hot.atRest = true ∧ past.atRest = true ∧ 0 < prof.feedToPeel ∧
    s.labelLines (lab .printing) ≤ 20 ∧ (hot.station .s0).thermal.hotHold = true ∧
    after (.linePeriodExpiry .s0) s (fun t =>
      (t.station .s0).feed == some ⟨.peel 1, false, 400⟩) = true ∧
    after (.linePeriodExpiry .s0) past (fun t => (t.station .s0).state == .fault) = true) := by decide

theorem witness_LineEnds_limit_and_end :
    (let stream := { prof with mode := .stream }
    let past := card { lane .printing with
      feed := some ⟨.peel 1, false, 400⟩, queue := [lab .printing], drive := some Drive.initial,
      printDeadline := some 0xFFFFFFF0, motor := true }
    let s := past.updStation .s0 fun t => { t with profile := some stream }
    (feeding .printing .leading 110).atRest = true ∧ (feeding .ejecting .eject 110).atRest = true ∧
    prof.pitch + prof.tolerance ≤ ((feeding .printing .leading 110).station .s0).sinceEdge ∧
    past.atRest = true ∧ s.atRest = true ∧ stream.mode = .stream ∧
    (let a := (feeding .printing .leading 5).updStation .s0 fun t => { t with aligned := true }
    a.atRest = true ∧ (a.station .s0).aligned = true ∧ 0 < a.labelLines (lab .printing)) ∧
    (past.station .s0).feed = some ⟨.peel prof.feedToPeel, false, 400⟩ ∧
    (past.clock - 0xFFFFFFF0).toNat < 2 ^ 31 ∧ (s.station .s0).holdPending = false ∧
    s.unasked .s0 ∧
    after (.linePeriodExpiry .s0) past (fun t => (t.station .s0).queue.any fun l =>
      l.warnings.deadlineOverrun) = true) := by decide

theorem witness_LineEnds_hot_and_stock :
    (let hot : Thermal := { Thermal.initial with
      limA := ⟨true, 60, 0, 3, false, true, true, false⟩ }
    let h := (feeding .printing .leading 5).updStation .s0 fun t => { t with thermal := hot }
    let p := (feeding .printing (.peel 0) 5).updStation .s0 fun t => { t with thermal := hot }
    let e := (feeding .ejecting .eject 5).updStation .s0 fun t => { t with mediaPresent := false }
    let m := (feeding .printing .leading 5).updStation .s0 fun t => { t with mediaPresent := false }
    h.atRest = true ∧ (h.station .s0).thermal.hotHold = true ∧ (h.station .s0).aligned = false ∧
    p.atRest = true ∧ 0 < prof.feedToPeel ∧ e.atRest = true ∧ m.atRest = true ∧
    (e.station .s0).mediaPresent = false ∧
    after (.linePeriodExpiry .s0) e (fun t => (t.station .s0).state == .fault) = true) := by decide

theorem witness_LineEnds_calibration :
    (let c := holding (feeding .calibrating (.calibrate 8400 1) 8400) (descr [7, 0] 1) .busy
    let i := c.updStation .s0 fun t => { t with returnState := some .idle, mediaPresent := false }
    let h := c.updStation .s0 fun t => { t with returnState := some .held }
    i.atRest = true ∧ h.atRest = true ∧ (i.station .s0).queue = [] ∧ i.unasked .s0 ∧
    (i.station .s0).holdPending = false ∧ i.control.hand = some ⟨descr [7, 0] 1, 2, .busy⟩ ∧
    after (.linePeriodExpiry .s0) i (fun t => (t.station .s0).state == .idle) = true ∧
    after (.linePeriodExpiry .s0) h (fun t => (t.station .s0).state == .held) = true) := by decide

/-- A rule of 4 dots and 2 lines at the corner, as entry 0 of block 1. -/
def ruleElement : Element :=
  { kind := .rule, top := 0, left := 0, lines := 2, dots := 4, glyphBody := 0, bitmap := 0,
    width := 0, height := 0, rot90 := false, cellTop := 0, cellLeft := 0 }

theorem witness_LinesRastered :
    (let l := { lab .printing with elementCount := some 1 }
    let s := (formCard (lane .printing)).writeEntry [1] 0 ruleElement
    s.entries l.elementBlocks 1 = [ruleElement] ∧ 0 < prof.maxDots ∧
    (s.rasterise .s0 prof l Drive.initial).lineDots = [0, 1, 2, 3] ∧
    (s.rasterise .s0 prof l { Drive.initial with nextLine := 2 }).lineDots = []) := by decide

theorem witness_LinesRastered_glyph :
    (let x := { ruleElement with kind := .glyph, bitmap := 24, width := 8, height := 4, dots := 8 }
    x.setsDot (fun _ => fontBody) 0 0 = true ∧ x.setsDot (fun _ => fontBody) 0 1 = false ∧
    { x with rot90 := true }.setsDot (fun _ => fontBody) 0 3 = true) := by decide

theorem witness_StrobeHistory :
    ({ Drive.initial with firing := [⟨[1], 10⟩, ⟨[2], 10⟩] }).firing
      = ⟨[1], 10⟩ :: ⟨[2], 10⟩ :: [] ∧ 0 < prof.maxDots := by decide

theorem witness_GapEdges :
    (feeding .calibrating (.calibrate 50 0) 50).atRest = true ∧
    (holding (feeding .calibrating (.calibrate 50 1) 16) (descr [7, 0] 1) .busy).atRest = true ∧
    controlCode (descr [7, 0] 1) = .calibrate ∧
    (feeding .printing .printed 90).atRest = true ∧ prof.pitch - prof.tolerance ≤ 90 ∧
    110 ≤ prof.pitch + prof.tolerance ∧ 89 < prof.pitch - prof.tolerance ∧
    (card { lane .ejecting with
      feed := some ⟨.eject, false, 400⟩, returnState := some .held }).atRest = true ∧
    (card { lane .ejecting with
      feed := some ⟨.eject, false, 400⟩, registered := true, sinceEdge := 89 }).atRest = true := by
  decide

theorem witness_GapEdges_eject :
    (let s := card { lane .ejecting with
      feed := some ⟨.eject, false, 400⟩, registered := true, sinceEdge := 90,
      returnState := some .idle }
    let h := s.updStation .s0 fun t => { t with holdPending := true, sinceEdge := 110 }
    s.atRest = true ∧ (s.station .s0).returnState ≠ some .held ∧
    (s.station .s0).holdPending = false ∧ (s.station .s0).queue = [] ∧ s.unasked .s0 ∧
    h.atRest = true ∧ (h.station .s0).holdPending = true ∧
    after (.gapEdge .s0) s (fun t => (t.station .s0).state == .idle) = true ∧
    after (.gapEdge .s0) h (fun t => (t.station .s0).state == .held) = true) := by decide

theorem witness_StockAndApplicator :
    ((feeding .printing .printed 0).station .s0).mediaPresent = true ∧
    ((feeding .printing .printed 0).station .s0).feedsLabel = true ∧
    (let s := card { lane .presenting with queue := [lab .presenting], applyTimer := some 7 }
    (s.station .s0).state = .presenting ∧ (s.station .s0).queue = lab .presenting :: [] ∧
    (s.station .s0).applyTimer = some 7 ∧ (s.station .s0).profile = some prof ∧
    (s.station .s0).holdPending = false ∧ s.unasked .s0) := by decide

theorem witness_HeadOpenAndClosed :
    ((card (lane .idle)).station .s0).headOpen = false ∧
    ((card { lane .fault with headOpen := true }).station .s0).asksCheck = false ∧
    ((card { lane .fault with
      headOpen := true, profile := some { prof with autoCheck := true } }).station .s0).asksCheck
      = true ∧
    (let s := holding { card (lane .checking) with
      check := some ⟨.s0, .command, .measuring, 0, 0, [], [], none⟩ } (descr [8, 0] 1) .busy
    s.control.hand = some ⟨descr [8, 0] 1, 2, .busy⟩ ∧ (s.station .s0).state ≠ .offline ∧
    controlCode (descr [8, 0] 1) = .dotcheck) := by decide

theorem witness_HeadOpenAndClosed_finishes :
    (let s := card { lane .presenting with queue := [lab .presenting] }
    let c := { card { lane .waking with checkDue := true } with
      check := some ⟨.s0, .auto, .waiting, 0, 0, [], [], none⟩ }
    (s.station .s0).headOpen = false ∧ (s.station .s0).queue = lab .presenting :: [] ∧
    (c.station .s0).headOpen = false ∧
    after (.headOpenActive .s0) s (fun t => (t.chan (.station .s0)).pendingCompletions.map
      (fun x => (x.index, x.bytes.head?)) == [(3, some 0x1F)] && (t.station .s0).power) = true ∧
    after (.headOpenActive .s0) c (fun t => t.check.isNone && !t.checkPending.get .s0 &&
      !(t.station .s0).power) = true) := by decide

theorem witness_TimerExpiries :
    ((card (lane .idle)).station .s0).parkTimer = some 0 ∧
    (let s := { card { lane .waking with wakeTimer := some 9, checkDue := true } with
      check := some ⟨.s0, .command, .waiting, 0, 0, [], [], none⟩ }
    (s.station .s0).wakeTimer = some 9 ∧ (s.station .s0).state = .waking ∧
    (s.station .s0).checkDue = true ∧ ((card (lane .waking)).station .s0).checkDue = false) ∧
    (let c : Check := ⟨.s0, .command, .settling, 0, 0, [], [], some 4⟩
    c.settleTimer = some 4 ∧ c.phase = .settling) := by decide

theorem witness_ElementMeasured :
    (let s := card (lane .checking)
    let c : Check := ⟨.s0, .command, .measuring, 62, 0, [], [], none⟩
    c.phase = .measuring ∧ c.next + 1 < (s.station c.station).dotCount ∧
    (s.station c.station).dotCount ≤ { c with next := 63 }.next + 1 ∧
    ((card { lane .checking with returnState := some .held }).station .s0).returnState
      = some .held) := by decide

theorem witness_ElementMeasured_command :
    (let c : Check := ⟨.s0, .command, .measuring, 63, 0, [], [], none⟩
    let s := holding { card { lane .checking with returnState := some .held } with check := some c }
      (descr [8, 0] 1) .busy
    s.check = some c ∧ c.origin = .command ∧ s.control.hand = some ⟨descr [8, 0] 1, 2, .busy⟩ ∧
    controlCode (descr [8, 0] 1) = .dotcheck ∧
    after (.elementMeasurementEnd 250) s (fun t => t.controlAnswer?.map (fun a => a.take 9) ==
      some [0, 0, 0, 0, 1, 0, 250, 63, 0x10]) = true) := by decide

theorem witness_ElementMeasured_ends :
    (let s := { card { lane .checking with returnState := some .idle } with
      check := some ⟨.s0, .auto, .measuring, 63, 0, [], [], none⟩ }
    let q := { s with checkPending := (Four.fill false).set .s0 true }
    (s.station .s0).returnState ≠ some .held ∧ (s.station .s0).holdPending = false ∧
    (s.station .s0).queue = [] ∧ (∀ m ∈ StationNo.all, s.unasked m) ∧
    after (.elementMeasurementEnd 9) s (fun t => t.check.isNone &&
      (t.station .s0).state == .idle) = true ∧
    after (.elementMeasurementEnd 9) q (fun t =>
      t.check == some ⟨.s0, .auto, .measuring, 0, 0, [], [], none⟩) = true) := by decide

theorem witness_ThermalSampled :
    (let th : Thermal := ⟨some 8, .limB, ⟨true, 127, 0, 1, true, false, false, false⟩,
      Limit.initial, some 2⟩
    th.timer = some 2 ∧ th.interval = some 8 ∧ th.pick = some .limA ∧
    { Thermal.initial with timer := some 2, interval := some 8 }.pick = none ∧
    ((th.limit .limA).sample 127).frozen = false ∧
    ((⟨true, 126, 0, 1, true, false, false, false⟩ : Limit).sample 127).frozen = true) := by decide

theorem witness_ThermalSampled_release :
    (let th : Thermal := ⟨some 8, .limA, ⟨true, 60, 0, 3, false, true, true, false⟩,
      Limit.initial, some 2⟩
    let s := card { lane .printing with thermal := th, feed := some ⟨.leading, true, 400⟩ }
    th.pick = some .limA ∧ th.hotHold = true ∧ (s.station .s0).state = .printing ∧
    (s.station .s0).feed = some ⟨.leading, true, 400⟩ ∧ (s.station .s0).mediaPresent = true ∧
    (s.station .s0).sinceEdge < prof.pitch + prof.tolerance ∧
    after (.thermalSample .s0 20) s (fun t => (t.station .s0).motor) = true ∧
    after (.thermalSample .s0 90) s (fun t => (t.station .s0).thermal.hotHold) = true) := by decide

theorem witness_PoolAllocatesWhole :
    16 ≤ (card (lane .idle)).free.length ∧ (card (lane .idle)).free.length < 17 := by decide

theorem witness_CounterDraw :
    (let rd := listReader ([3, 1, 0, 1, 2, 3, 1] ++ List.replicate 9 0 ++ [0x41, 0])
    1 ≤ ctrDigits rd ∧ ctrDigits rd ≤ 12 ∧ ctrValue rd < 10 ^ ctrDigits rd ∧
    ctrWeighted rd = true) := by decide

theorem witness_CounterDraw_body :
    (let s := counterCard .active 0 (lane .held)
    let r := counterCard .retiring 0 (lane .held)
    s.canonical = true ∧ (s.record 5).current = some ⟨[2], 64, 1, 1, []⟩ ∧
    ([2] : List Nat)[0]? = some 2 ∧ (s.record 5).state ≠ .retiring ∧ r.canonical = true ∧
    (r.record 5).state = .retiring ∧ 1 - 1 + bodyPins (r.record 5).prior = 0 ∧
    (s.drawOne 5).2 = [0x34, 0x35] ∧ (s.drawOne 5).1.readByte 528 = 0x46) := by decide

/-! ### References, completion fields, returns and arrivals in IDLE -/

/-- A FORM body of a TEXT field of font 5 and counter 9, a BARCODE field of symbology 6 and counter 9, a RULE field
and a TEXT field of font 5 with a slot. -/
def namingForm : Reader :=
  bodyOf [(0, 20), (2, 8), (5, 4), (32, 1), (38, 3), (40, 5), (42, 9), (96, 2), (102, 3), (104, 6),
    (106, 9), (160, 3), (224, 1), (230, 2), (232, 5)]

theorem witness_BodiesValidated_references :
    (let fields := formFields namingForm
    fields.map (fun f => f.kind) = [some .text, some .barcode, some .rule, some .text] ∧
    fields.map (fun f => f.source == some .counter) = [true, true, false, false] ∧
    fields.map (fun f => f.handles) = [[(5, .font), (9, .counter)],
      [(6, .symbology), (9, .counter)], [], [(5, .font)]] ∧
    bodyReferences .form namingForm = [5, 9, 6] ∧ bodyReferences .font namingForm = [] ∧
    bodyReferences .symbology namingForm = [] ∧ bodyReferences .counter namingForm = []) := by decide

theorem witness_EngineResetRecords_references :
    (let form : Record := { formRecord with current := some ⟨[0], 160, 1, 1, [5, 9]⟩ }
    formReferences [(1, form), (2, { form with state := .retiring }), (3, form),
      (4, { form with kind := some .font })] = [5, 9, 5, 9] ∧
    bodyRefs form.current = [5, 9]) := by decide

theorem witness_reachTime :
    (let s := card (lane .idle)
    (s.clock - s.clock).toNat < 2 ^ 31 ∧ (s.clock - 0x80000001).toNat < 2 ^ 31 ∧
    2 ^ 31 ≤ (s.clock - 1).toNat ∧ 2 ^ 31 ≤ (s.clock - 0x80000000).toNat ∧
    (s.reachTime 7).clock = 7 ∧ (s.reachTime 0xFFFFFFF0).clock = 0) := by decide

theorem witness_ComposerChooses_again :
    (let l := { lab .accepted with counterPins := [5] }
    let s := counterCard .active 1 { lane .held with queue := [l, { lab .accepted with ctx := 1 }] }
    s.composer = none ∧ s.composerPick? = some .s0 ∧ (s.station .s0).candidate? = some l ∧
    s.exhausted 5 = true ∧ (s.station .s0).label? 1 = some { lab .accepted with ctx := 1 } ∧
    (s.chooseLabels.composer == some ⟨.s0, 1, 0, 0⟩) = true) := by decide

theorem witness_ComposerSteps_sort :
    (let e := fun top left lines => { ruleElement with top := top, left := left, lines := lines }
    sortElements [e 3 0 1, e 2 5 2, e 2 4 3, e 2 5 4] = [e 2 4 3, e 2 5 2, e 2 5 4, e 3 0 1] ∧
    elementBefore (e 2 5 2) (e 2 5 4) = false ∧ elementBefore (e 2 9 2) (e 3 0 1) = true) := by decide

theorem witness_ComposerSteps_entries :
    (let s := formCard (lane .held)
    let xs := [ruleElement, { ruleElement with top := 3 }]
    let t := s.writeEntries [4, 2] 15 xs
    s.canonical = true ∧ 15 + xs.length ≤ 16 * [4, 2].length ∧ [4, 2].Nodup ∧
    entryAddress? [4, 2] 15 = some 1264 ∧ entryAddress? [4, 2] 16 = some 512 ∧
    entryAddress? [4, 2] 32 = none ∧ t.entryAt? [4, 2] 16 = some { ruleElement with top := 3 } ∧
    (s.writeEntries [4, 2] 0 xs).entries [4, 2] 2 = xs) := by decide

theorem witness_FieldsLaidOut_position :
    (let l := { lab .composing with pinned := [(1, 4), (5, 1), (6, 2), (5, 3)] }
    pinnedPosition l 5 = some (1, 1) ∧ pinnedPosition l 6 = some (2, 2) ∧
    pinnedPosition l 1 = none ∧ pinnedPosition l 7 = none) := by decide

theorem witness_LinesRastered_contents :
    (let l := { lab .printing with pinned := [(1, 1), (1, 2)] }
    let s := { pinnedRecord .active 1 1 with memory := [(512, 7), (768, 9)] }
    l.pinned[0]? = some (1, 1) ∧ l.pinned[1]? = some (1, 2) ∧
    s.glyphContents l 0 0 = 9 ∧ s.glyphContents l 1 0 = 7) := by decide

theorem witness_GapEdges_calibration_returns :
    (let i := holding ((feeding .calibrating (.calibrate 50 1) 16).updStation .s0 fun t =>
      { t with returnState := some .idle }) (descr [7, 0] 1) .busy
    let short := i.updStation .s0 fun t => { t with sinceEdge := 15 }
    let hold := i.updStation .s0 fun t => { t with holdPending := true, sinceEdge := 4201 }
    let long := i.updStation .s0 fun t => { t with sinceEdge := 4200 }
    i.atRest = true ∧ short.atRest = true ∧ hold.atRest = true ∧ long.atRest = true ∧
    (i.station .s0).queue = [] ∧ i.unasked .s0 ∧ (i.station .s0).holdPending = false ∧
    after (.gapEdge .s0) i (fun t => (t.station .s0).state == .idle && (t.station .s0).aligned &&
      (t.station .s0).registered) = true ∧
    after (.gapEdge .s0) short (fun t => (t.station .s0).state == .idle &&
      !(t.station .s0).aligned && t.controlStatus? == some 0x1E) = true ∧
    after (.gapEdge .s0) hold (fun t => (t.station .s0).state == .held &&
      !(t.station .s0).aligned) = true ∧
    after (.gapEdge .s0) long (fun t => (t.station .s0).aligned &&
      (t.controlAnswer?.map fun a => (a.drop 8).take 2) == some [0x68, 0x10]) = true) := by decide

theorem witness_GapEdges_motor_stopped :
    (card (lane .idle)).lanesLegal = true ∧ ((card (lane .idle)).station .s0).motor = false ∧
    ((card (lane .idle)).station .s0).feed = none ∧
    (feeding .printing .leading 5).lanesLegal = true ∧
    (let p := card { lane .printing with feed := some ⟨.leading, true, 400⟩ }
    p.lanesLegal = true ∧ (p.station .s0).motor = false) := by decide

/-- RCH-C holds a record command for record 1, a FORM at version 1 with a pinned body. -/
def recordCommand (d : List Byte) : State := holding (formCard (lane .idle)) (descr d 1) .owner

/-- The answer bytes 0, 2, 4, 6, 7, 18 and 19 that a command leaves with RCH-C. -/
def answerBytes (c : Instr) (s : State) : Option (List Byte) :=
  match exec c s with
  | .next t => t.controlAnswer?.map fun a => [0, 2, 4, 6, 7, 18, 19].map fun k => a.getD k 0
  | .fault _ => none
  | .refused _ => none

theorem witness_record_answers :
    answerBytes .define (recordCommand [1, 0, 1, 0, 2]) = some [4, 1, 1, 0, 0, 0, 0] ∧
    answerBytes .define (recordCommand [1, 0, 5, 0, 2]) = some [5, 5, 0, 0xFF, 0xFF, 0, 0] ∧
    answerBytes .amend (recordCommand [2, 0, 1, 0, 2]) = some [8, 1, 1, 0, 0, 0, 0] ∧
    answerBytes .amend (recordCommand [2, 0, 1, 0, 1]) = some [5, 1, 1, 0xFF, 0xFF, 0, 0] ∧
    answerBytes .retire (recordCommand [3, 0, 1]) = some [1, 1, 1, 0, 0, 1, 0] ∧
    answerBytes .retire (recordCommand [3, 0, 7]) = some [7, 7, 0, 0, 0, 0, 0] := by decide

theorem witness_LoadEnds_answers :
    (let font : List Host.Cell := [(512, 4), (513, 65), (514, 1), (528, 65), (529, 8), (530, 9),
      (532, 24)]
    let last := .bodyBurstEnd (List.replicate 44 7)
    answerBytes last (amending .font ⟨[6], 64, 1, 1, []⟩ font) = some [0, 1, 1, 0, 0, 0, 0] ∧
    after last (amending .font ⟨[6], 64, 1, 1, []⟩ font)
      (fun t => (t.controlAnswer?.map fun a => a.getD 17 0) == some 8) = true ∧
    answerBytes last (loading 1 false) = some [5, 1, 0, 0xFE, 0xFF, 0, 0]) := by decide

theorem witness_TransferBusError_loads :
    (let d := loading 0 false
    let a := amending .font ⟨[6], 64, 7, 1, []⟩ []
    d.quiet = true ∧ a.quiet = true ∧ a.canonical = true ∧ a.bus = some .control ∧
    (a.chan .control).xfer = some .burst ∧ (d.record 1).state = .loading ∧
    controlCode (descr [1, 0, 1, 0, 4] 1) ∈ [ControlCode.define, .amend, .retire, .query] ∧
    controlCode (descr [5] 1) ∉ [ControlCode.define, .amend, .retire, .query] ∧
    after (.transferBusError .control) d (fun t => t.free == [4, 5, 2, 3] && t.table == []) = true ∧
    after (.transferBusError .control) a (fun t => t.free == [4, 5, 2, 3] &&
      (t.record 1).current == some ⟨[6], 64, 7, 1, []⟩ && (t.record 1).version == 65535) = true) := by
  decide

theorem witness_LabelAcceptance_context :
    (let s := moving { formCard { lane .held with queue := [lab .ready, { lab .ready with ctx := 2 }] }
      with composer := some ⟨.s1, 0, 0, 0⟩ } (.station .s0) .fetch
    (s.station .s0).queue.length < 8 ∧ (s.station .s0).fetching = none ∧
    bodyRefs (s.record 1).current = [] ∧
    after (.descriptorFetchEnd (.station .s0) (descr [0x10, 1, 1] 1)) s (fun t =>
      (t.station .s0).queue.map (fun l => (l.ctx, l.dotAvoid)) ==
        [(0, false), (2, false), (1, true)]) = true) := by decide

theorem witness_HeadFinishes_retiring_prior :
    (let s := pinnedRecord .retiring 2 1
    s.canonical = true ∧ (s.record 1).state = .retiring ∧
    (s.record 1).prior = some ⟨[3], 64, 1, 1, []⟩ ∧ 0 < 2 ∧
    ((s.unpinBody 1 1).record 1).prior = none ∧ ((s.unpinBody 1 1).record 1).state = .retiring ∧
    ((s.unpinBody 1 1).free.drop 16) = [3]) := by decide

/-- Station 0 in IDLE with one label of some state and its filter timer running. -/
def idleArrival (st : LabelState) (p : Profile) : State :=
  { formCard { lane .idle with
      filterTimer := some 3, parkTimer := none, profile := some p,
      queue := [{ lab st with failure := if st = .failed then some .dataRejected else none }] } with
    composer := some ⟨if st = .composing then .s0 else .s1, 0, 0, 0⟩ }

theorem witness_TriggerArrives_idle :
    (let joins := idleArrival .composing prof
    let starts := idleArrival .ready prof
    let long := { prof with pitch := 19 }
    let late := { prof with applyWindow := 9 }
    joins.atRest = true ∧ starts.atRest = true ∧ (idleArrival .ready long).atRest = true ∧
    (idleArrival .ready late).atRest = true ∧ (idleArrival .failed prof).atRest = true ∧
    (joins.station .s0).eligible[0]? = some (lab .composing) ∧ starts.labelLines (lab .ready) = 20 ∧
    (idleArrival .ready late).leadTime .s0 (lab .ready) = 9 ∧
    (starts.station .s0).mediaPresent = true ∧ (starts.station .s0).registered = false ∧
    after (.triggerArrival .s0) joins (fun t =>
      (t.station .s0).triggers == [⟨5, 1005, some 996⟩]) = true ∧
    after (.triggerArrival .s0) starts (fun t => (t.station .s0).state == .printing &&
      (t.station .s0).printDeadline == some 1005) = true) := by decide

/-- The status bytes of station 0's pending completions after an arrival. -/
def arrivalStatuses (s : State) : Option (List (Option Byte)) :=
  match exec (.triggerArrival .s0) s with
  | .next t => some ((t.chan (.station .s0)).pendingCompletions.map fun x => x.bytes.head?)
  | .fault _ => none
  | .refused _ => none

theorem witness_TriggerArrives_idle_finishes :
    arrivalStatuses (idleArrival .ready { prof with pitch := 19 }) = some [some 0x26] ∧
    arrivalStatuses (idleArrival .ready { prof with applyWindow := 9 }) = some [some 0x22] ∧
    arrivalStatuses (idleArrival .failed prof) = some [some 0x28] := by decide

theorem witness_SetProfile_park_timer :
    (let s := { moving (holding (card (lane .idle)) (descr [5, 0] 1) .profile) .control .profile
      with clock := 77 }
    let p := s.updStation .s0 fun t => { t with state := .parked, power := false, parkTimer := none }
    s.unasked .s0 ∧ (s.station .s0).parkTimer = some 0 ∧
    (profileOf (listReader (profBytes.set 8 0))).parkDelay = 0 ∧
    profileFault? (listReader (profBytes.set 8 0)) 64 = none ∧
    after (.setProfile profBytes) s (fun t => (t.station .s0).parkTimer == some 77) = true ∧
    after (.setProfile (profBytes.set 8 0)) s (fun t => (t.station .s0).parkTimer.isNone) = true ∧
    after (.setProfile profBytes) p (fun t => (t.station .s0).parkTimer.isNone) = true) := by decide

theorem witness_Calibrate_without_media :
    (let s := holding (card { lane .idle with mediaPresent := false, aligned := true })
      (descr [7, 0] 1) .owner
    let h := s.updStation .s0 fun t => { t with holdPending := true }
    (s.station .s0).queue = [] ∧ s.unasked .s0 ∧ (s.station .s0).holdPending = false ∧
    after .calibrate s (fun t => (t.station .s0).state == .idle && !(t.station .s0).aligned &&
      t.controlStatus? == some 0x1E) = true ∧
    after .calibrate h (fun t => (t.station .s0).state == .held) = true) := by decide

theorem witness_stored_runs :
    (let s := formCard (lane .held)
    s.canonical = true ∧ ([3, 9] : List Nat)[1]? = some 9 ∧
    (s.writeContents [3, 9] 256 [5, 6]).readByte 2305 = 6 ∧
    (s.storeBurst 4 ⟨[3, 9], 258, 256⟩ 1 [5, 6]).readByte 2304 = 5 ∧
    ((s.storeBurst 4 ⟨[3, 9], 258, 256⟩ 1 [5, 6]).record 4).loading
      = some ⟨[3, 9], 258, 258⟩) := by decide

theorem witness_TriggerArrives_behind :
    (let s := (idleArrival .ready prof).updStation .s0 fun t =>
      { t with queue := [lab .ready, { lab .ready with ctx := 1 }] }
    let none := s.updStation .s0 fun t => { t with filterTimer := none }
    s.atRest = true ∧ (none.station .s0).filterTimer = .none ∧
    (∀ x ∈ [{ lab .ready with ctx := 1 }], x.ctx ≠ (lab .ready).ctx) ∧
    after (.triggerArrival .s0) s (fun t => (t.station .s0).queue ==
      [lab .printing, { lab .ready with ctx := 1 }]) = true) := by decide

theorem witness_StrobeHistory_split :
    (let p := { prof with maxDots := 2 }
    (subPhases p .normal (-8) [1, 2, 3, 4, 5] [] [1, 2, 3, 4, 5, 7]).map (fun x => x.dots)
      = [[1, 2], [3, 4], [5], [7]] ∧
    (subPhases p .normal (-8) [1, 2, 3, 4] [] [1, 2, 3, 4]).map (fun x => x.dots)
      = [[1, 2], [3, 4]] ∧ subPhases p .normal (-8) [] [] [] = [] ∧
    0 + 1 < (5 + p.maxDots - 1) / p.maxDots ∧ ¬0 + 1 < (2 + p.maxDots - 1) / p.maxDots) := by decide

theorem witness_LabelDataEnds_stored :
    (let s := fetchingLabel 1 0
    s.composer = none ∧ (lab .fetching).counterPins = [] ∧
    after (.labelDataTransferEnd .s0 [0]) { s with composer := some ⟨.s1, 0, 0, 0⟩ }
      (fun t => t.readByte 256 == 0) = true ∧
    after (.labelDataTransferEnd .s0 [9]) s (fun t => t.readByte 256 == 9) = true) := by decide

theorem witness_FetchEnds_label_on_control :
    (let d := descr [0x10, 0, 1] 1
    controlCode d = .unknown ∧
    after (.descriptorFetchEnd .control d) (moving (card (lane .held)) .control .fetch) (fun t =>
      t.controlAnswer? == some (0x0F :: List.replicate 30 0)) = true) := by decide

end Sys2Proof.Tests
end

section
/-! SUPPORT. What the commands of RCH-C do to records, the pool and record memory: the rules of each operation, and
what an event of RCH-C leaves of them at its end. -/

namespace Sys2Proof.Machine

/-! ### What two states have in common -/

theorem State.SameLanes.refl (s : State) : s.SameLanes s := ⟨rfl, rfl, rfl, rfl, rfl, rfl⟩

theorem State.SameLanes.trans {s t u : State} (h : s.SameLanes t) (k : t.SameLanes u) :
    s.SameLanes u := by
  obtain ⟨h1, h2, h3, h4, h5, h6⟩ := h
  obtain ⟨k1, k2, k3, k4, k5, k6⟩ := k
  exact ⟨k1.trans h1, k2.trans h2, k3.trans h3, k4.trans h4, k5.trans h5, k6.trans h6⟩

theorem State.SameEvents.trans {s t u : State} (h : s.SameEvents t) (k : t.SameEvents u) :
    s.SameEvents u := by
  obtain ⟨h1, h2, h3⟩ := h
  obtain ⟨k1, k2, k3⟩ := k
  exact ⟨k1.trans h1, k2.trans h2, k3.trans h3⟩

theorem State.SameRecords.refl (s : State) : s.SameRecords s := ⟨rfl, rfl, rfl, rfl⟩

theorem State.SameRecords.record {s t : State} (h : s.SameRecords t) (g : Nat) :
    t.record g = s.record g := by
  obtain ⟨table, -, -, -⟩ := h
  simp only [State.record, table]

theorem State.SameRecords.free {s t : State} (h : s.SameRecords t) : t.free = s.free := by
  obtain ⟨-, free, -, -⟩ := h
  exact free

theorem State.SameRecords.sameRecordsBut {s t : State} (h : s.SameRecords t) (g : Nat) :
    s.SameRecordsBut t g := fun k _ => h.record k

/-! ### The work on the Resource Table and the pool -/

/-- The second state differs from the first in the Resource Table and the free list alone. -/
def State.TableWork (s t : State) : Prop :=
  ∃ table free, t = { s with table := table, free := free }

namespace State.TableWork

theorem refl (s : State) : s.TableWork s := ⟨s.table, s.free, rfl⟩

theorem trans {s t u : State} (h : s.TableWork t) (k : t.TableWork u) : s.TableWork u := by
  obtain ⟨_, _, rfl⟩ := h
  obtain ⟨table, free, rfl⟩ := k
  exact ⟨table, free, rfl⟩

theorem sameLanes {s t : State} (h : s.TableWork t) : s.SameLanes t := by
  obtain ⟨_, _, rfl⟩ := h
  exact .refl s

theorem sameEvents {s t : State} (h : s.TableWork t) : s.SameEvents t := by
  obtain ⟨_, _, rfl⟩ := h
  exact ⟨rfl, rfl, rfl⟩

end State.TableWork

theorem State.tableWork_setRecord (s : State) (h : Nat) (r : Record) :
    s.TableWork (s.setRecord h r) := ⟨_, s.free, rfl⟩

theorem State.tableWork_freeBlocks (s : State) (bl : List Nat) : s.TableWork (s.freeBlocks bl) :=
  ⟨s.table, _, rfl⟩

theorem State.tableWork_raiseReferrers (hs : List Nat) :
    ∀ s : State, s.TableWork (s.raiseReferrers hs) := by
  induction hs with
  | nil => exact .refl
  | cons h hs ih => exact fun s => (tableWork_setRecord s h _).trans (ih _)

theorem State.tableWork_lowerReferrers (hs : List Nat) :
    ∀ s : State, s.TableWork (s.lowerReferrers hs) := by
  induction hs with
  | nil => exact .refl
  | cons h hs ih => exact fun s => (tableWork_setRecord s h _).trans (ih _)

theorem State.tableWork_freeBody? (s : State) (b : Option Body) : s.TableWork (s.freeBody? b) := by
  cases b with
  | none => exact .refl s
  | some b => exact (tableWork_freeBlocks s b.blocks).trans (tableWork_lowerReferrers b.refs _)

theorem State.tableWork_freeRecord (s : State) (h : Nat) : s.TableWork (s.freeRecord h) :=
  ((tableWork_setRecord s h _).trans (tableWork_freeBody? _ _)).trans (tableWork_freeBody? _ _)

/-! ### Reading records back -/

theorem State.record_setRecord_canonical {s : State} (h : Nat) (r : Record)
    (hc : s.canonical = true) : (s.setRecord h r).record h = r := by
  obtain ⟨-, -, table⟩ := canonical_iff.mp hc
  exact sparseGet_set_same h r table

@[simp] theorem State.record_freeBlocks (s : State) (bl : List Nat) (g : Nat) :
    (s.freeBlocks bl).record g = s.record g := rfl

@[simp] theorem State.setRecord_free (s : State) (h : Nat) (r : Record) :
    (s.setRecord h r).free = s.free := rfl

theorem State.canonical_freeBlocks {s : State} (bl : List Nat) (h : s.canonical = true) :
    (s.freeBlocks bl).canonical = true := canonical_of_same h rfl rfl rfl

/-- A record is read back after a write to the same handle or another. -/
theorem State.record_setRecord {s : State} (h : Nat) (r : Record) (hc : s.canonical = true)
    (g : Nat) : (s.setRecord h r).record g = if g = h then r else s.record g := by
  split
  · next e => rw [e, record_setRecord_canonical h r hc]
  · next e => exact record_setRecord_ne s r e

/-- R8: each place of a reference list raises the referrers of the handle that stands there by one. -/
theorem State.record_raiseReferrers (hs : List Nat) :
    ∀ {s : State}, s.canonical = true → ∀ g, (s.raiseReferrers hs).record g =
      { s.record g with referrers := (s.record g).referrers + hs.count g } := by
  induction hs with
  | nil => intros; rfl
  | cons h hs ih =>
    intro s hc g
    simp only [raiseReferrers, ih (canonical_setRecord h _ hc), record_setRecord h _ hc]
    by_cases e : g = h
    · subst e; simp; omega
    · rw [if_neg e, List.count_cons_of_ne (Ne.symm e)]

/-- R8: each place of a reference list lowers the referrers of the handle that stands there by one. -/
theorem State.record_lowerReferrers (hs : List Nat) :
    ∀ {s : State}, s.canonical = true → ∀ g, (s.lowerReferrers hs).record g =
      { s.record g with referrers := (s.record g).referrers - hs.count g } := by
  induction hs with
  | nil => intros; rfl
  | cons h hs ih =>
    intro s hc g
    simp only [lowerReferrers, ih (canonical_setRecord h _ hc), record_setRecord h _ hc]
    by_cases e : g = h
    · subst e; simp; omega
    · rw [if_neg e, List.count_cons_of_ne (Ne.symm e)]

@[simp] theorem State.raiseReferrers_free (hs : List Nat) :
    ∀ s : State, (s.raiseReferrers hs).free = s.free := by
  induction hs with
  | nil => intro s; rfl
  | cons h hs ih => intro s; exact ih _

@[simp] theorem State.lowerReferrers_free (hs : List Nat) :
    ∀ s : State, (s.lowerReferrers hs).free = s.free := by
  induction hs with
  | nil => intro s; rfl
  | cons h hs ih => intro s; exact ih _

/-- R5: a freed body's referrers fall, for every record alike. -/
theorem State.record_freeBody {s : State} (hc : s.canonical = true) (b : Body) (g : Nat) :
    (s.freeBody b).record g =
      { s.record g with referrers := (s.record g).referrers - b.refs.count g } :=
  record_lowerReferrers b.refs (canonical_freeBlocks b.blocks hc) g

@[simp] theorem State.freeBody_free (s : State) (b : Body) :
    (s.freeBody b).free = s.free ++ b.blocks := by simp [freeBody]

@[simp] theorem State.freeBody?_free (s : State) (b : Option Body) :
    (s.freeBody? b).free = s.free ++ (b.elim [] fun b => b.blocks) := by
  cases b with
  | none => simp [freeBody?]
  | some b => exact freeBody_free s b

theorem State.canonical_freeBody? {s : State} (b : Option Body) (hc : s.canonical = true) :
    (s.freeBody? b).canonical = true := (kept_freeBody? s b).canonical hc

/-- A FREE record stays as it is when a body that names it is freed: it has no referrers to lose. -/
theorem State.record_freeBody?_of_empty {s : State} (hc : s.canonical = true) {h : Nat}
    (e : s.record h = Record.empty) (b : Option Body) :
    (s.freeBody? b).record h = Record.empty := by
  cases b with
  | none => exact e
  | some b => rw [freeBody?, record_freeBody hc, e]; simp [Record.empty]

theorem State.freeRecord_free (s : State) (h : Nat) :
    (s.freeRecord h).free = s.free ++ ((s.record h).current.elim [] fun b => b.blocks) ++
      ((s.record h).prior.elim [] fun b => b.blocks) := by simp [freeRecord]

theorem State.record_freeRecord_same {s : State} (hc : s.canonical = true) (h : Nat) :
    (s.freeRecord h).record h = Record.empty := by
  have hc1 := canonical_setRecord h Record.empty hc
  have e1 := record_setRecord_canonical h Record.empty hc
  exact record_freeBody?_of_empty (canonical_freeBody? _ hc1) (record_freeBody?_of_empty hc1 e1 _) _

/-- R24: where the record freed has a current body alone, the handles it names lose its references. -/
theorem State.record_freeRecord_ne {s : State} (hc : s.canonical = true) {h g : Nat} (hg : g ≠ h)
    {b : Body} (hb : (s.record h).current = some b) (hp : (s.record h).prior = none) :
    (s.freeRecord h).record g =
      { s.record g with referrers := (s.record g).referrers - b.refs.count g } := by
  simp only [freeRecord, hb, hp, freeBody?, record_freeBody (canonical_setRecord h _ hc),
    record_setRecord_ne s _ hg]

/-! ### Giving a loading body up (R17, R18, R23) -/

/-- The record that a loading body given up leaves: FREE under a DEFINE, as it was under an AMEND. -/
def Record.withoutLoading (r : Record) : Record :=
  if r.state = .loading then Record.empty else { r with loading := none }

theorem State.dropLoading_eq {s : State} {h : Nat} {b : LoadingBody}
    (hb : (s.record h).loading = some b) :
    s.dropLoading h = (s.setRecord h (s.record h).withoutLoading).freeBlocks b.blocks := by
  unfold dropLoading Record.withoutLoading
  simp only [hb]
  split <;> rfl

theorem State.tableWork_dropLoading {s : State} {h : Nat} {b : LoadingBody}
    (hb : (s.record h).loading = some b) : s.TableWork (s.dropLoading h) := by
  rw [dropLoading_eq hb]
  exact (tableWork_setRecord s h _).trans (tableWork_freeBlocks _ _)

theorem State.dropLoading_free {s : State} {h : Nat} {b : LoadingBody}
    (hb : (s.record h).loading = some b) : (s.dropLoading h).free = s.free ++ b.blocks := by
  rw [dropLoading_eq hb, freeBlocks_free, setRecord_free]

theorem State.record_dropLoading {s : State} (hc : s.canonical = true) {h : Nat} {b : LoadingBody}
    (hb : (s.record h).loading = some b) (g : Nat) :
    (s.dropLoading h).record g = if g = h then (s.record h).withoutLoading else s.record g := by
  rw [dropLoading_eq hb, record_freeBlocks, record_setRecord h _ hc]

/-! ### The completions of record commands (R14, R208, R209) -/

theorem fieldByte_skip {fields : List CompletionField} {i : Nat} (h : ∀ p ∈ fields, i < p.1) :
    fieldByte fields i = 0 := by
  induction fields with
  | nil => rfl
  | cons p fields ih =>
    obtain ⟨hp, hfields⟩ := List.forall_mem_cons.mp h
    rw [fieldByte, if_neg (by omega), ih hfields]

theorem areaBytes_add (first m n : Nat) (fields : List CompletionField) :
    areaBytes first (m + n) fields = areaBytes first m fields ++ areaBytes (first + m) n fields := by
  simp [areaBytes, List.range_add, Function.comp_def, Nat.add_assoc]

/-- A record command's completion: status, handle and version stand in its first six bytes, and the fields its rule
names from descriptor byte 38 on. -/
theorem State.recordCompletion_eq (s : State) (h : Nat) (st : Status)
    {fields : List CompletionField} (hf : ∀ p ∈ fields, 38 ≤ p.1) :
    s.recordCompletion h st fields =
      [byte st.code, 0, byte h, byte (h / 256), byte (s.record h).version,
        byte ((s.record h).version / 256)] ++ areaBytes 38 25 fields := by
  have second : fieldByte fields 33 = 0 := fieldByte_skip fun p hp => by have := hf p hp; omega
  unfold recordCompletion controlCompletion
  refine (areaBytes_add 32 6 25 _).trans (congrArg₂ (· ++ ·) ?_ rfl)
  simp [areaBytes, List.range_succ, fieldByte, bytesLE, second]

/-! ### The end of an event that leaves the lanes at rest -/

/-- The second state differs from the first in the channels and the BMA alone, and RCH-C has the same descriptor in
hand. -/
def State.BusWork (s t : State) : Prop :=
  ∃ control rings bus transfer pointer, control.hand = s.control.hand ∧
    t = { s with control := control, rings := rings, bus := bus, transfer := transfer,
                 pointer := pointer }

theorem State.BusWork.refl (s : State) : s.BusWork s :=
  ⟨s.control, s.rings, s.bus, s.transfer, s.pointer, rfl, rfl⟩

theorem State.BusWork.trans {s t u : State} (h : s.BusWork t) (k : t.BusWork u) : s.BusWork u := by
  obtain ⟨_, _, _, _, _, h1, rfl⟩ := h
  obtain ⟨_, _, _, _, _, k1, rfl⟩ := k
  exact ⟨_, _, _, _, _, k1.trans h1, rfl⟩

/-- A request leaves the descriptor in hand. -/
theorem Channel.request_hand (ch : Channel) (full : Bool) : (ch.request full).hand = ch.hand := by
  unfold Channel.request
  split
  · rfl
  · split
    · rfl
    · split
      · rfl
      · split
        · split <;> rfl
        · split <;> rfl
        · rfl
        · rfl

theorem State.busWork_request (s : State) (c : Chan) : s.BusWork (s.request c) := by
  cases c with
  | control =>
    exact ⟨_, s.rings, s.bus, s.transfer, s.pointer, Channel.request_hand s.control _, rfl⟩
  | station n => exact ⟨s.control, _, s.bus, s.transfer, s.pointer, rfl, rfl⟩

theorem State.busWork_grant (s : State) : s.BusWork s.grant := by
  obtain ⟨b, p, x, e⟩ := s.grant_eq
  exact ⟨s.control, s.rings, b, x, p, rfl, e⟩

theorem State.busWork_foldl_request (l : List Chan) :
    ∀ s : State, s.BusWork (l.foldl State.request s) := by
  induction l with
  | nil => exact .refl
  | cons c l ih => exact fun s => (busWork_request s c).trans (ih _)

theorem State.busWork_settleBus (s : State) : s.BusWork s.settleBus :=
  (busWork_foldl_request Chan.all s).trans (busWork_grant _)

/-- What an event of RCH-C leaves of state s, whose work on the records leads to state x: the records as they stand
in x, and a descriptor in hand. -/
structure State.EventLeaves (s x t : State) (hand : Hand) : Prop where
  lanes : s.SameLanes t
  events : s.SameEvents t
  memory : s.SameMemory t
  records : x.SameRecords t
  hand : t.control.hand = some hand

/-- RCH-C's descriptor takes a new work after work on the records, and the event ends at the channels. -/
theorem State.eventLeaves_settleBus {s x : State} {d : List Byte} {i : Nat} {w : Work}
    (h : s.control.hand = some ⟨d, i, w⟩) (k : s.TableWork x) (w' : Work) :
    s.EventLeaves x (x.setWork .control w').settleBus ⟨d, i, w'⟩ := by
  obtain ⟨_, _, _, _, _, hand, e⟩ := busWork_settleBus (x.setWork .control w')
  obtain ⟨table, free, rfl⟩ := k
  rw [e]
  refine ⟨.refl s, ⟨rfl, rfl, rfl⟩, fun _ => rfl, .refl _, hand.trans ?_⟩
  simp [setWork, updChan, h]

/-- The record command in hand completes on the records as they stand (R14). -/
def State.completeRecord (s : State) (h : Nat) (st : Status) (fields : List CompletionField) :
    State := s.outcome (s.recordCompletion h st fields)

theorem State.eventLeaves_completeRecord {s x : State} {d : List Byte} {i : Nat} {w : Work}
    (hand : s.control.hand = some ⟨d, i, w⟩) (k : s.TableWork x) (h : Nat) (st : Status)
    (fields : List CompletionField) :
    s.EventLeaves x (x.completeRecord h st fields).settleBus
      ⟨d, i, .complete (x.recordCompletion h st fields)⟩ := eventLeaves_settleBus hand k _

/-- The record command in hand completes with a status and fields from descriptor byte 38 on. -/
theorem State.EventLeaves.answersRecord {s x t : State} {d : List Byte} {i h : Nat} {st : Status}
    {fields : List CompletionField} {rest : List Byte}
    (e : s.EventLeaves x t ⟨d, i, .complete (x.recordCompletion h st fields)⟩)
    (hf : ∀ p ∈ fields, 38 ≤ p.1) (hr : areaBytes 38 25 fields = rest) :
    t.answersRecord st h rest := by
  have answer : t.controlAnswer? = some
      ([byte st.code, 0, byte h, byte (h / 256), byte (t.record h).version,
        byte ((t.record h).version / 256)] ++ rest) := by
    simp only [controlAnswer?, Channel.handCompletion?, e.hand, x.recordCompletion_eq h st hf, hr,
      e.records.record, Option.map_some]
  exact ⟨by simp only [State.answers, controlStatus?, answer]; rfl, answer⟩

/-! ### Refusals (R14) -/

theorem State.commandInHand?_of_given {s : State} {d : List Byte} {code : ControlCode} {i : Nat}
    (h : s.given d code i) : s.commandInHand? code = some d := by
  obtain ⟨hand, hcode⟩ := h
  simp [commandInHand?, handAt?, chan, hand, hcode]

/-- What a refusal leaves: every item but the channels and the BMA, and the completion that carries it. -/
structure State.Refuses (s t : State) (st : Status) (h : Nat) (rest : List Byte) : Prop where
  lanes : s.SameLanes t
  events : s.SameEvents t
  memory : s.SameMemory t
  others : s.SameRecordsBut t h
  answers : t.answersRecord st h rest
  records : s.SameRecords t

/-- The same in the order of the statements on DEFINE and AMEND. -/
theorem State.Refuses.result {s t : State} {st : Status} {h : Nat} {rest : List Byte}
    (e : s.Refuses t st h rest) :
    s.SameLanes t ∧ s.SameEvents t ∧ s.SameMemory t ∧ s.SameRecordsBut t h ∧
      t.answersRecord st h rest ∧ s.SameRecords t :=
  ⟨e.lanes, e.events, e.memory, e.others, e.answers, e.records⟩

/-- The command in hand is refused with fields from descriptor byte 38 on. -/
theorem State.refuses_refuseRecord {s : State} {d : List Byte} {code : ControlCode} {i : Nat}
    (hg : s.given d code i) (h : Nat) (st : Status) {fields : List CompletionField}
    {rest : List Byte} (hf : ∀ p ∈ fields, 38 ≤ p.1) (hr : areaBytes 38 25 fields = rest) :
    s.Refuses (s.refuseRecord h (st, fields)).settleBus st h rest := by
  have e := eventLeaves_completeRecord hg.1 (.refl s) h st fields
  exact ⟨e.lanes, e.events, e.memory, e.records.sameRecordsBut h, e.answersRecord hf hr, e.records⟩

theorem State.refuses_bare {s : State} {d : List Byte} {code : ControlCode} {i : Nat}
    (hg : s.given d code i) (h : Nat) (st : Status) :
    s.Refuses (s.refuseRecord h (st, [])).settleBus st h noFields :=
  refuses_refuseRecord hg h st (by simp) rfl

theorem State.refuses_index {s : State} {d : List Byte} {code : ControlCode} {i : Nat}
    (hg : s.given d code i) (h : Nat) (st : Status) (index : Nat) :
    s.Refuses (s.refuseRecord h (st, [indexField index])).settleBus st h (indexFields index) :=
  refuses_refuseRecord hg h st (by simp [indexField]) rfl

/-! ### The begin of a load (R15, R19) -/

theorem lengthBad_iff (n : Nat) : lengthBad n = true ↔ n < 1 ∨ 65536 < n := by
  simp [lengthBad, within]

theorem bodyBlocks_eq (n : Nat) : bodyBlocks n = (n + 255) / 256 := by
  simp [bodyBlocks, ceilDiv, Config.blockBytes]

/-- A record takes the front of the free list for a loading body, and the command in hand goes on to its bursts. -/
def State.startLoad (s : State) (h : Nat) (r : Record) (count : Nat) : State :=
  (State.setRecord { s with free := s.free.drop count } h r).beginLoad

theorem State.startLoad_result {s : State} {d : List Byte} {code : ControlCode} {i : Nat}
    (hg : s.given d code i) (h : Nat) {r : Record} (hr : r ≠ Record.empty) (count : Nat) :
    let t := (s.startLoad h r count).settleBus
    s.SameLanes t ∧ s.SameEvents t ∧ s.SameMemory t ∧ s.SameRecordsBut t h ∧ t.record h = r ∧
      t.free = s.free.drop count ∧ t.control.hand = some ⟨d, i, .load 0 false⟩ := by
  intro t
  have work : s.TableWork (State.setRecord { s with free := s.free.drop count } h r) := ⟨_, _, rfl⟩
  have e := eventLeaves_settleBus hg.1 work (.load 0 false)
  exact ⟨e.lanes, e.events, e.memory,
    fun g hgh => (e.records.record g).trans (record_setRecord_ne _ r hgh),
    (e.records.record h).trans (record_setRecord_same _ h hr), e.records.free, e.hand⟩

end Sys2Proof.Machine
end

section
/-! DEFINE, AMEND and RETIRE as the Resource Table takes them (R14 to R24). -/

namespace Sys2Proof.Machine

/-! ### DEFINE (R15) -/

/-- The conditions of R15 in their order, each with what DEFINE then does. -/
theorem State.takeDefine_eq (s : State) (d : List Byte) :
    s.takeDefine d =
      if 1023 < ctlHandle d then s.refuseRecord (ctlHandle d) (.badHandle, [])
      else if ctlKind? d = none then s.refuseRecord (ctlHandle d) (.badKind, [])
      else if (s.record (ctlHandle d)).state ≠ .free then
        s.refuseRecord (ctlHandle d) (.handleInUse, [])
      else if ctlLength d < 1 ∨ 65536 < ctlLength d then
        s.refuseRecord (ctlHandle d) (.badBody, [indexField 0xFFFF])
      else if s.free.length < (ctlLength d + 255) / 256 then
        s.refuseRecord (ctlHandle d) (.noSpace, [])
      else
        s.startLoad (ctlHandle d) (definedRecord d (s.free.take ((ctlLength d + 255) / 256)))
          ((ctlLength d + 255) / 256) := by
  simp only [takeDefine, defineRefusal?, firstRefusal, decide_eq_true_eq, Option.isNone_iff_eq_none,
    bne_iff_ne, lengthBad_iff, allocate, bodyBlocks_eq, idxLength]
  split_ifs <;> first | rfl | omega

theorem execDefine_of_given {s : State} {d : List Byte} {i : Nat} (hg : s.given d .define i) :
    exec .define s = .next (s.takeDefine d).settleBus := by
  simp only [exec, execDefine, State.commandInHand?_of_given hg]

/-- Settles O26: the refusals of R15 in their order, and then the record that the front of the free list makes. -/
theorem define : Obligations.Define := by
  intro s d i hg
  refine ⟨_, execDefine_of_given hg, ?_⟩
  rw [State.takeDefine_eq]
  dsimp only
  split_ifs
  · obtain ⟨lanes, events, memory, others, answers, records⟩ :=
      (State.refuses_bare hg (ctlHandle d) .badHandle).result
    exact ⟨lanes, events, memory, others, answers.1, records⟩
  · exact (State.refuses_bare hg (ctlHandle d) .badKind).result
  · exact (State.refuses_bare hg (ctlHandle d) .handleInUse).result
  · exact (State.refuses_index hg (ctlHandle d) .badBody 0xFFFF).result
  · exact (State.refuses_bare hg (ctlHandle d) .noSpace).result
  · exact State.startLoad_result hg (ctlHandle d) (by simp [definedRecord, Record.empty]) _

/-! ### AMEND (R19) -/

/-- The conditions of R19 in their order, each with what AMEND then does. -/
theorem State.takeAmend_eq (s : State) (d : List Byte) :
    s.takeAmend d =
      if 1023 < ctlHandle d then s.refuseRecord (ctlHandle d) (.badHandle, [])
      else if (s.record (ctlHandle d)).state ≠ .active then
        s.refuseRecord (ctlHandle d) (.noRecord, [])
      else if ctlKind? d = none ∨ ctlKind? d ≠ (s.record (ctlHandle d)).kind then
        s.refuseRecord (ctlHandle d) (.kindMismatch, [])
      else if ctlVersion d ≠ 0 ∧ ctlVersion d ≠ (s.record (ctlHandle d)).version then
        s.refuseRecord (ctlHandle d) (.versionMismatch, [])
      else if (s.record (ctlHandle d)).kind ≠ some .counter ∧
          (s.record (ctlHandle d)).prior ≠ none then
        s.refuseRecord (ctlHandle d) (.priorInUse, [])
      else if ctlLength d < 1 ∨ 65536 < ctlLength d then
        s.refuseRecord (ctlHandle d) (.badBody, [indexField 0xFFFF])
      else if s.free.length < (ctlLength d + 255) / 256 then
        s.refuseRecord (ctlHandle d) (.noSpace, [])
      else
        s.startLoad (ctlHandle d)
          { s.record (ctlHandle d) with
            loading := some ⟨s.free.take ((ctlLength d + 255) / 256), ctlLength d, 0⟩ }
          ((ctlLength d + 255) / 256) := by
  simp only [takeAmend, amendRefusal?, firstRefusal, decide_eq_true_eq, Option.isNone_iff_eq_none,
    bne_iff_ne, lengthBad_iff, allocate, bodyBlocks_eq, idxLength, Bool.or_eq_true,
    Bool.and_eq_true, Option.isSome_iff_ne_none]
  split_ifs <;> first | rfl | omega

theorem execAmend_of_given {s : State} {d : List Byte} {i : Nat} (hg : s.given d .amend i) :
    exec .amend s = .next (s.takeAmend d).settleBus := by
  simp only [exec, execAmend, State.commandInHand?_of_given hg]

/-- Settles O27: the refusals of R19 in their order, and then the loading body of the record. -/
theorem amend : Obligations.Amend := by
  intro s d i hg
  refine ⟨_, execAmend_of_given hg, ?_⟩
  rw [State.takeAmend_eq]
  dsimp only
  split_ifs
  · exact (State.refuses_bare hg (ctlHandle d) .badHandle).result
  · exact (State.refuses_bare hg (ctlHandle d) .noRecord).result
  · exact (State.refuses_bare hg (ctlHandle d) .kindMismatch).result
  · exact (State.refuses_bare hg (ctlHandle d) .versionMismatch).result
  · exact (State.refuses_bare hg (ctlHandle d) .priorInUse).result
  · exact (State.refuses_index hg (ctlHandle d) .badBody 0xFFFF).result
  · exact (State.refuses_bare hg (ctlHandle d) .noSpace).result
  · exact State.startLoad_result hg (ctlHandle d) (by simp [Record.empty]) _

/-! ### RETIRE (R24) -/

/-- The conditions of R24 in their order, each with what RETIRE then does. -/
theorem State.takeRetire_eq (s : State) (d : List Byte) :
    s.takeRetire d =
      if 1023 < ctlHandle d then s.refuseRecord (ctlHandle d) (.badHandle, [])
      else if (s.record (ctlHandle d)).state ≠ .active then
        s.refuseRecord (ctlHandle d) (.noRecord, [])
      else if (s.record (ctlHandle d)).loading ≠ none then
        s.refuseRecord (ctlHandle d) (.busyLoading, [])
      else if ctlVersion d ≠ 0 ∧ ctlVersion d ≠ (s.record (ctlHandle d)).version then
        s.refuseRecord (ctlHandle d) (.versionMismatch, [])
      else if 0 < (s.record (ctlHandle d)).referrers then
        s.refuseRecord (ctlHandle d) (.referenced, [])
      else if (s.record (ctlHandle d)).pins = 0 then
        (s.freeRecord (ctlHandle d)).completeRecord (ctlHandle d) .ok
          (s.record (ctlHandle d)).pinFields
      else
        (s.setRecord (ctlHandle d) { s.record (ctlHandle d) with state := .retiring }).completeRecord
          (ctlHandle d) .retirePending (s.record (ctlHandle d)).pinFields := by
  simp only [takeRetire, retireRefusal?, firstRefusal, decide_eq_true_eq, bne_iff_ne,
    Bool.and_eq_true, Option.isSome_iff_ne_none]
  split_ifs <;> rfl

theorem execRetire_of_given {s : State} {d : List Byte} {i : Nat} (hg : s.given d .retire i) :
    exec .retire s = .next (s.takeRetire d).settleBus := by
  simp only [exec, execRetire, State.commandInHand?_of_given hg]

theorem Record.pins_eq (r : Record) : r.pins = bodyPins r.current + bodyPins r.prior := by
  unfold Record.pins
  cases r.current <;> cases r.prior <;> rfl

theorem Record.areaBytes_pinFields (r : Record) :
    areaBytes 38 25 r.pinFields = List.replicate 12 0 ++
      [byte (bodyPins r.current), byte (bodyPins r.prior)] ++ List.replicate 11 0 := rfl

/-- Without pins the two pin counts of a RETIRE completion are 0, as every byte without a field is. -/
theorem Record.areaBytes_pinFields_of_unpinned {r : Record} (h : r.pins = 0) :
    areaBytes 38 25 r.pinFields = noFields := by
  rw [Record.pins_eq] at h
  have current : bodyPins r.current = 0 := by omega
  have prior : bodyPins r.prior = 0 := by omega
  rw [Record.areaBytes_pinFields, current, prior]
  rfl

/-- Settles O28: the refusals of R24 in their order, and then the record freed or RETIRING. -/
theorem retire : Obligations.Retire := by
  refine ⟨fun s d i hg hc => ⟨_, execRetire_of_given hg, ?_⟩, Record.pins_eq, fun _ => rfl, rfl, rfl⟩
  have pinFields_from : ∀ p ∈ (s.record (ctlHandle d)).pinFields, 38 ≤ p.1 := by
    simp [Record.pinFields]
  rw [State.takeRetire_eq]
  dsimp only
  split_ifs with _ _ _ _ _ unpinned
  · have e := State.refuses_bare hg (ctlHandle d) .badHandle
    exact ⟨e.lanes, e.events, e.memory, e.answers, e.records⟩
  · have e := State.refuses_bare hg (ctlHandle d) .noRecord
    exact ⟨e.lanes, e.events, e.memory, e.answers, e.records⟩
  · have e := State.refuses_bare hg (ctlHandle d) .busyLoading
    exact ⟨e.lanes, e.events, e.memory, e.answers, e.records⟩
  · have e := State.refuses_bare hg (ctlHandle d) .versionMismatch
    exact ⟨e.lanes, e.events, e.memory, e.answers, e.records⟩
  · have e := State.refuses_bare hg (ctlHandle d) .referenced
    exact ⟨e.lanes, e.events, e.memory, e.answers, e.records⟩
  · have e := State.eventLeaves_completeRecord hg.1 (s.tableWork_freeRecord (ctlHandle d))
      (ctlHandle d) .ok (s.record (ctlHandle d)).pinFields
    exact ⟨e.lanes, e.events, e.memory,
      e.answersRecord pinFields_from (Record.areaBytes_pinFields_of_unpinned unpinned),
      (e.records.record _).trans (State.record_freeRecord_same hc _),
      fun g hgh b hb hp => (e.records.record g).trans (State.record_freeRecord_ne hc hgh hb hp),
      e.records.free.trans (s.freeRecord_free _)⟩
  · have e := State.eventLeaves_completeRecord hg.1 (s.tableWork_setRecord (ctlHandle d)
      { s.record (ctlHandle d) with state := .retiring }) (ctlHandle d) .retirePending
      (s.record (ctlHandle d)).pinFields
    exact ⟨e.lanes, e.events, e.memory,
      e.answersRecord pinFields_from (Record.areaBytes_pinFields _),
      fun g hgh => (e.records.record g).trans (State.record_setRecord_ne _ _ hgh),
      e.records.free, (e.records.record _).trans (State.record_setRecord_canonical _ _ hc)⟩

end Sys2Proof.Machine
end

section
/-! QUERY and the fields of its completion (R26, R208). -/

namespace Sys2Proof.Machine

/-! ### Reading a completion -/

theorem areaBytes_length (first count : Nat) (fields : List CompletionField) :
    (areaBytes first count fields).length = count := by simp [areaBytes]

theorem areaBytes_getD {first count : Nat} (fields : List CompletionField) {j : Nat}
    (h : j < count) : (areaBytes first count fields).getD j 0 = fieldByte fields (first + j) := by
  simp [areaBytes, List.getD_eq_getElem?_getD, h]

theorem byte_toNat (n : Nat) : (byte n).toNat = n % 256 := by simp [byte]

theorem two_bytes (n : Nat) : (byte n).toNat + 256 * (byte (n / 256)).toNat = n % 65536 := by
  rw [byte_toNat, byte_toNat]
  omega

theorem three_bytes (n : Nat) : (byte n).toNat + 256 * (byte (n / 256)).toNat
    + 65536 * (byte (n / 256 / 256)).toNat = n % 2 ^ 24 := by
  rw [byte_toNat, byte_toNat, byte_toNat]
  omega

/-- The first fields give no byte at or behind their ends. -/
theorem fieldByte_drop (n : Nat) {fields : List CompletionField} {i : Nat}
    (h : ∀ p ∈ fields.take n, p.1 + p.2.length ≤ i) :
    fieldByte fields i = fieldByte (fields.drop n) i := by
  induction n generalizing fields with
  | zero => rfl
  | succ n ih =>
    cases fields with
    | nil => rfl
    | cons p fields =>
      obtain ⟨hp, hfields⟩ := List.forall_mem_cons.mp h
      rw [fieldByte, if_neg (by omega), ih hfields, List.drop_succ_cons]

/-- The first field gives each byte it holds. -/
theorem fieldByte_cons {o j : Nat} {b : List Byte} (fields : List CompletionField)
    (h : j < b.length) : fieldByte ((o, b) :: fields) (o + j) = b.getD j 0 := by
  rw [fieldByte, if_pos (by omega), Nat.add_sub_cancel_left]

/-- Bytes in a row that the fields give are those bytes. -/
theorem areaBytes_eq {first : Nat} {fields : List CompletionField} {b : List Byte}
    (h : ∀ j, j < b.length → fieldByte fields (first + j) = b.getD j 0) :
    areaBytes first b.length fields = b := by
  refine List.ext_getElem (areaBytes_length _ _ _) fun j _ hj => ?_
  simp [areaBytes, h j hj, hj]

/-! ### The QUERY completion -/

/-- The fields of a QUERY completion, as State.queryCompletion gives them (R26, R208). -/
def State.queryFields (s : State) (h : Nat) : List CompletionField :=
  let r := s.record h
  let rd := s.currentContent h
  let counter := r.kind == some .counter && r.current.isSome
  [ (32, [byte Status.ok.code]), (34, bytesLE 2 h), (36, bytesLE 2 r.version),
    (33, [byte r.state.code]), (38, bytesLE 2 r.referrers), (40, r.tag),
    (48, [byte (kindCode r.kind)]),
    (49, [byte (flagAt r.loading.isSome 0 + flagAt r.prior.isSome 1
      + flagAt (counter && ctrExhausted rd) 2)]),
    (50, [byte (bodyPins r.current), byte (bodyPins r.prior)]),
    (52, bytesLE 2 (r.prior.elim 0 fun b => b.version)),
    (54, bytesLE 3 (r.current.elim 0 fun b => b.length)),
    (57, if counter then (List.range 6).map fun j => byte (rd (16 + j)) else []) ]

theorem State.queryCompletion_eq (s : State) (h : Nat) :
    s.queryCompletion h = areaBytes 32 31 (s.queryFields h) := by
  unfold queryCompletion queryFields
  dsimp only
  cases (s.record h).prior <;> cases (s.record h).current <;> rfl

theorem State.queryCompletion_getD (s : State) (h : Nat) {j : Nat} (hj : j < 31) :
    (s.queryCompletion h).getD j 0 = fieldByte (s.queryFields h) (32 + j) := by
  rw [queryCompletion_eq, areaBytes_getD _ hj]

/-- The content of an absent body reads 0 (R26). -/
theorem State.currentContent_of_none {s : State} {h : Nat} (e : (s.record h).current = none) :
    s.currentContent h = fun _ => 0 := by
  simp only [currentContent, e]

/-- The flags byte: loading, prior present, exhausted; a record without a current body has no counter whose flag
could be SET (R208). -/
theorem State.queryFlags_eq (s : State) (h : Nat) :
    (flagAt (s.record h).loading.isSome 0 + flagAt (s.record h).prior.isSome 1
      + flagAt (((s.record h).kind == some .counter && (s.record h).current.isSome)
        && ctrExhausted (s.currentContent h)) 2) =
    (if (s.record h).loading.isSome then 1 else 0) + (if (s.record h).prior.isSome then 2 else 0) +
      (if (s.record h).kind = some .counter ∧ s.currentContent h 2 = 1 then 4 else 0) := by
  cases e : (s.record h).current with
  | none => simp [flagAt, ctrExhausted, currentContent_of_none e]
  | some b => simp [flagAt, ctrExhausted]

/-- The counter value's bytes; a record without a current body reads 0 there, as every byte without a field does. -/
theorem State.fieldByte_counter (s : State) (h : Nat) {j : Nat} (hj : j < 6) :
    fieldByte [(57, if (s.record h).kind == some .counter && (s.record h).current.isSome then
      (List.range 6).map fun j => byte (s.currentContent h (16 + j)) else [])] (57 + j) =
    if (s.record h).kind = some .counter then byte (s.currentContent h (16 + j)) else 0 := by
  cases e : (s.record h).current with
  | none => simp [fieldByte, currentContent_of_none e, byte]
  | some b =>
    by_cases k : (s.record h).kind = some .counter
    · simp only [k, beq_self_eq_true, Option.isSome_some, Bool.and_self, if_true]
      rw [fieldByte_cons _ (by simpa using hj)]
      simp [hj]
    · simp [fieldByte, k]

section

variable {s : State} {h : Nat} (tag : (s.record h).tag.length = 8)

include tag

theorem State.queryCompletion_tag : ((s.queryCompletion h).drop 8).take 8 = (s.record h).tag := by
  have area : ((areaBytes 32 31 (s.queryFields h)).drop 8).take 8
      = areaBytes 40 8 (s.queryFields h) := rfl
  rw [queryCompletion_eq, area, ← tag]
  refine areaBytes_eq fun j hj => ?_
  rw [fieldByte_drop 5 (by simp [queryFields, bytesLE]; omega)]
  exact fieldByte_cons _ hj

theorem State.queryCompletion_counter {j : Nat} (hj : j < 6) :
    (s.queryCompletion h).getD (25 + j) 0 =
      if (s.record h).kind = some .counter then byte (s.currentContent h (16 + j)) else 0 := by
  rw [queryCompletion_getD s h (by omega), ← Nat.add_assoc,
    fieldByte_drop 11 (by simp [queryFields, bytesLE, tag]; omega)]
  exact fieldByte_counter s h hj

/-- A byte behind the name tag is given by the fields that stand there. -/
theorem State.queryCompletion_behind_tag (j : Nat) (hj : j < 15) :
    (s.queryCompletion h).getD (16 + j) 0 = fieldByte ((s.queryFields h).drop 6) (48 + j) := by
  rw [queryCompletion_getD s h (by omega), ← Nat.add_assoc,
    fieldByte_drop 6 (by simp [queryFields, bytesLE, tag]; omega)]

theorem State.queryCompletion_kind :
    (s.queryCompletion h).getD 16 0 = byte (kindCode (s.record h).kind) :=
  queryCompletion_behind_tag tag 0 (by decide)

theorem State.queryCompletion_flags :
    (s.queryCompletion h).getD 17 0 = byte ((if (s.record h).loading.isSome then 1 else 0) +
      (if (s.record h).prior.isSome then 2 else 0) +
      (if (s.record h).kind = some .counter ∧ s.currentContent h 2 = 1 then 4 else 0)) := by
  rw [← queryFlags_eq]
  exact queryCompletion_behind_tag tag 1 (by decide)

theorem State.queryCompletion_pins :
    (s.queryCompletion h).getD 18 0 = byte (bodyPins (s.record h).current) ∧
      (s.queryCompletion h).getD 19 0 = byte (bodyPins (s.record h).prior) :=
  ⟨queryCompletion_behind_tag tag 2 (by decide),
    queryCompletion_behind_tag tag 3 (by decide)⟩

theorem State.queryCompletion_priorVersion :
    le16 (listReader (s.queryCompletion h)) 20 =
      ((s.record h).prior.elim 0 fun b => b.version) % 65536 := by
  have low := queryCompletion_behind_tag tag 4 (by decide)
  have high := queryCompletion_behind_tag tag 5 (by decide)
  simp only [le16, listReader, low, high]
  exact two_bytes _

theorem State.queryCompletion_length :
    le24 (listReader (s.queryCompletion h)) 22 =
      ((s.record h).current.elim 0 fun b => b.length) % 2 ^ 24 := by
  have low := queryCompletion_behind_tag tag 6 (by decide)
  have middle := queryCompletion_behind_tag tag 7 (by decide)
  have high := queryCompletion_behind_tag tag 8 (by decide)
  simp only [le24, le16, listReader, low, middle, high]
  exact three_bytes _

end

/-- The two bytes of an item that stands before the name tag (R208). -/
theorem State.queryCompletion_le16 (s : State) (h : Nat) {o n : Nat} (ho : o < 30)
    (low : fieldByte (s.queryFields h) (32 + o) = byte n)
    (high : fieldByte (s.queryFields h) (32 + (o + 1)) = byte (n / 256)) :
    le16 (listReader (s.queryCompletion h)) o = n % 65536 := by
  rw [← two_bytes n, ← low, ← high, ← queryCompletion_getD s h (by omega),
    ← queryCompletion_getD s h (by omega)]
  rfl

/-! ### QUERY (R26) -/

theorem execQuery_of_given {s : State} {d : List Byte} {i : Nat} (hg : s.given d .query i) :
    exec .query s = .next (s.takeQuery d).settleBus := by
  simp only [exec, execQuery, State.commandInHand?_of_given hg]

theorem State.takeQuery_eq (s : State) (d : List Byte) :
    s.takeQuery d = if 1023 < ctlHandle d then s.refuseRecord (ctlHandle d) (.badHandle, [])
      else s.outcome (s.queryCompletion (ctlHandle d)) := rfl

/-- Settles O29: the table stands, and each item of the record at its place in the completion. -/
theorem query : Obligations.Query := by
  refine ⟨fun s d i hg => ⟨_, execQuery_of_given hg, ?_⟩, rfl, rfl, byte_toNat, fun b i => ⟨rfl, rfl⟩⟩
  rw [State.takeQuery_eq]
  dsimp only
  by_cases above : 1023 < ctlHandle d
  · rw [if_pos above, if_pos above]
    have e := State.refuses_bare hg (ctlHandle d) .badHandle
    exact ⟨e.lanes, e.events, e.records, e.answers⟩
  · rw [if_neg above, if_neg above]
    have e := State.eventLeaves_settleBus hg.1 (.refl s)
      (.complete (s.queryCompletion (ctlHandle d)))
    have answer : ((s.outcome (s.queryCompletion (ctlHandle d))).settleBus).controlAnswer?
        = some (s.queryCompletion (ctlHandle d)) := by
      simp only [State.outcome, State.controlAnswer?, Channel.handCompletion?, e.hand,
        Option.map_some]
    have handle : ctlHandle d % 65536 = ctlHandle d := Nat.mod_eq_of_lt (by omega)
    refine ⟨e.lanes, e.events, e.records, ?_, s.queryCompletion (ctlHandle d), answer,
      (congrArg List.length (s.queryCompletion_eq _)).trans (areaBytes_length _ _ _), rfl,
      (s.queryCompletion_le16 _ (by decide) rfl rfl).trans handle,
      s.queryCompletion_le16 _ (by decide) rfl rfl, s.queryCompletion_le16 _ (by decide) rfl rfl,
      fun tag => ?_⟩
    · simp only [State.answers, State.controlStatus?, answer]
      rfl
    · obtain ⟨currentPins, priorPins⟩ := State.queryCompletion_pins tag
      exact ⟨State.queryCompletion_tag tag, State.queryCompletion_kind tag,
        State.queryCompletion_flags tag, currentPins, priorPins,
        State.queryCompletion_priorVersion tag, State.queryCompletion_length tag,
        fun j hj => State.queryCompletion_counter tag hj⟩

end Sys2Proof.Machine
end

section
/-! ENGINE_RESET on the Resource Table and the pool (R28, R40). -/

namespace Sys2Proof.Machine

/-! ### Sparse maps as lists of entries -/

/-- Every key of a map in canonical form whose keys are above a bound is above it. -/
theorem sparseAbove_mem {α : Type} [DecidableEq α] {d : α} {b : Nat} {m : List (Nat × α)}
    (hw : sparseWf d m = true) (hm : sparseAbove b m = true) {p : Nat × α} (hp : p ∈ m) :
    b < p.1 := by
  induction m generalizing b with
  | nil => cases hp
  | cons q m ih =>
    obtain ⟨k, v⟩ := q
    obtain ⟨-, hk, hr⟩ := sparseWf_cons.mp hw
    simp only [sparseAbove, decide_eq_true_eq] at hm
    rcases List.mem_cons.mp hp with rfl | hp
    · exact hm
    · exact hm.trans (ih hr hk hp)

/-- An entry of a map in canonical form is what the map has at its key. -/
theorem sparseGet_of_mem {α : Type} [DecidableEq α] {d : α} {m : List (Nat × α)}
    (hw : sparseWf d m = true) {p : Nat × α} (hp : p ∈ m) : sparseGet d m p.1 = p.2 := by
  induction m with
  | nil => cases hp
  | cons q m ih =>
    obtain ⟨k, v⟩ := q
    obtain ⟨-, hk, hr⟩ := sparseWf_cons.mp hw
    rcases List.mem_cons.mp hp with rfl | hp
    · simp [sparseGet]
    · have above := sparseAbove_mem hr hk hp
      rw [sparseGet, if_neg (by omega), ih hr hp]

/-- What a map has at a key is an entry of it, or the default. -/
theorem sparseGet_mem_or {α : Type} (d : α) (m : List (Nat × α)) (a : Nat) :
    (a, sparseGet d m a) ∈ m ∨ sparseGet d m a = d := by
  induction m with
  | nil => exact .inr rfl
  | cons q m ih =>
    obtain ⟨k, v⟩ := q
    unfold sparseGet
    split
    · next e => subst e; exact .inl (List.mem_cons_self ..)
    · exact ih.imp (List.mem_cons_of_mem _) id

/-! ### The records that stay (R28) -/

theorem resetTable_above {b : Nat} {m : List (Nat × Record)}
    (hw : sparseWf Record.empty m = true) (hm : sparseAbove b m = true) :
    sparseAbove b (resetTable m) = true := by
  induction m with
  | nil => rfl
  | cons p m ih =>
    obtain ⟨k, r⟩ := p
    obtain ⟨-, hk, hr⟩ := sparseWf_cons.mp hw
    simp only [sparseAbove, decide_eq_true_eq] at hm
    unfold resetTable
    split
    · exact ih hr (sparseAbove_trans m (by omega) hk)
    · simpa [sparseAbove] using hm

theorem resetTable_wf {m : List (Nat × Record)} (hw : sparseWf Record.empty m = true) :
    sparseWf Record.empty (resetTable m) = true := by
  induction m with
  | nil => rfl
  | cons p m ih =>
    obtain ⟨k, r⟩ := p
    obtain ⟨-, hk, hr⟩ := sparseWf_cons.mp hw
    unfold resetTable
    split
    · exact ih hr
    · next kept => exact sparseWf_cons.mpr ⟨kept, resetTable_above hr hk, ih hr⟩

/-- Each record is reset by itself, a FREE one with the rest. -/
theorem sparseGet_resetTable {m : List (Nat × Record)} (hw : sparseWf Record.empty m = true)
    (h : Nat) : sparseGet Record.empty (resetTable m) h
      = (sparseGet Record.empty m h).engineReset := by
  induction m with
  | nil => rfl
  | cons p m ih =>
    obtain ⟨k, r⟩ := p
    obtain ⟨-, hk, hr⟩ := sparseWf_cons.mp hw
    rw [resetTable, sparseGet]
    by_cases e : h = k
    · subst e
      rw [if_pos rfl]
      split
      · next dropped => rw [dropped, sparseGet_above (resetTable_wf hr) (resetTable_above hr hk)]
      · rw [sparseGet, if_pos rfl]
    · rw [if_neg e]
      split
      · exact ih hr
      · rw [sparseGet, if_neg e, ih hr]

theorem Record.engineReset_of_active {r : Record} (h : r.state = .active) :
    r.engineReset = { r with
      current := r.current.map Body.unpinned, prior := none, loading := none, referrers := 0 } := by
  simp only [Record.engineReset, h]

theorem Record.engineReset_of_not_active {r : Record} (h : r.state ≠ .active) :
    r.engineReset = Record.empty := by
  unfold Record.engineReset
  split
  · next active => exact absurd active h
  · rfl
  · rfl
  · rfl

/-! ### The recount of the referrers (R8, R28) -/

/-- The reference list that a record adds to those of the recount. -/
def Record.countedRefs (r : Record) : List Nat :=
  if r.state = .active ∧ r.kind = some .form then r.current.elim [] fun b => b.refs else []

theorem formReferences_eq (table : List (Nat × Record)) :
    formReferences table = (table.map fun p => p.2.countedRefs).flatten := by
  unfold formReferences Record.countedRefs
  congr 1
  refine List.map_congr_left fun p _ => ?_
  cases p.2.current <;> rfl

theorem formReferences_cons (p : Nat × Record) (m : List (Nat × Record)) :
    formReferences (p :: m) = p.2.countedRefs ++ formReferences m := by
  simp [formReferences_eq]

/-- A record written over one with the same reference list leaves the recount as it is. -/
theorem formReferences_put {m : List (Nat × Record)} (hw : sparseWf Record.empty m = true) {h : Nat}
    {r : Record} (e : r.countedRefs = (sparseGet Record.empty m h).countedRefs) :
    formReferences (sparsePut m h r) = formReferences m := by
  induction m with
  | nil => rw [sparsePut, formReferences_cons, e]; rfl
  | cons p m ih =>
    obtain ⟨k, v⟩ := p
    obtain ⟨-, hk, hr⟩ := sparseWf_cons.mp hw
    unfold sparsePut
    split
    · next below =>
      have absent : sparseGet Record.empty ((k, v) :: m) h = Record.empty :=
        sparseGet_above hw (by simpa [sparseAbove] using below)
      rw [formReferences_cons, e, absent]
      rfl
    · split
      · next same =>
        subst same
        rw [formReferences_cons, formReferences_cons, e, sparseGet, if_pos rfl]
      · next other =>
        rw [sparseGet, if_neg other] at e
        rw [formReferences_cons, formReferences_cons, ih hr e]

/-- R8: a referrer raised changes no reference list. -/
theorem State.formReferences_raiseReferrers (hs : List Nat) :
    ∀ {s : State}, s.canonical = true →
      formReferences (s.raiseReferrers hs).table = formReferences s.table := by
  induction hs with
  | nil => intros; rfl
  | cons h hs ih =>
    intro s hc
    obtain ⟨-, -, table⟩ := canonical_iff.mp hc
    have raised : { s.record h with referrers := (s.record h).referrers + 1 } ≠ Record.empty :=
      fun e => by simpa [Record.empty] using congrArg Record.referrers e
    rw [raiseReferrers, ih (canonical_setRecord h _ hc), setRecord_table, sparseSet,
      if_neg raised]
    exact formReferences_put table rfl

theorem formReferences_count (table : List (Nat × Record)) (h : Nat) :
    (formReferences table).count h =
      (table.map fun p => if p.2.state = .active ∧ p.2.kind = some .form then
        (p.2.current.elim [] fun b => b.refs).count h else 0).sum := by
  rw [formReferences_eq, List.count_flatten, List.map_map]
  congr 1
  refine List.map_congr_left fun p _ => ?_
  simp only [Function.comp, Record.countedRefs]
  split <;> simp

/-! ### The blocks that stay held (R40) -/

theorem mem_heldBlocks {table : List (Nat × Record)} (hw : sparseWf Record.empty table = true)
    (b : Nat) : b ∈ heldBlocks table ↔
      ∃ h body, (sparseGet Record.empty table h).current = some body ∧ b ∈ body.blocks := by
  simp only [heldBlocks, List.mem_flatten, List.mem_map]
  constructor
  · rintro ⟨_, ⟨p, hp, rfl⟩, hb⟩
    cases current : p.2.current with
    | none => simp [current] at hb
    | some body =>
      exact ⟨p.1, body, by rw [sparseGet_of_mem hw hp, current], by simpa [current] using hb⟩
  · rintro ⟨h, body, current, hb⟩
    rcases sparseGet_mem_or Record.empty table h with entry | empty
    · exact ⟨body.blocks, ⟨_, entry, by simp only [current]⟩, hb⟩
    · rw [empty] at current
      cases current

/-! ### The records and the pool after an engine reset -/

/-- The records and the pool before the referrers are counted again. -/
def State.withResetTable (s : State) : State :=
  { s with table := resetTable s.table,
           free := (List.range s.total).filter fun b =>
             !(heldBlocks (resetTable s.table)).contains b }

theorem State.resetRecords_eq (s : State) :
    s.resetRecords = s.withResetTable.raiseReferrers (formReferences (resetTable s.table)) := rfl

section

variable {s : State} (hc : s.canonical = true)

include hc

theorem State.canonical_withResetTable : s.withResetTable.canonical = true := by
  obtain ⟨memory, elements, table⟩ := canonical_iff.mp hc
  exact canonical_iff.mpr ⟨memory, elements, resetTable_wf table⟩

theorem State.record_engineReset (h : Nat) :
    s.engineReset.record h = { (s.record h).engineReset with
      referrers := (s.record h).engineReset.referrers
        + (formReferences (resetTable s.table)).count h } := by
  obtain ⟨-, -, table⟩ := canonical_iff.mp hc
  have reset : s.withResetTable.record h = (s.record h).engineReset := sparseGet_resetTable table h
  rw [← reset]
  exact record_raiseReferrers _ (canonical_withResetTable hc) h

theorem State.formReferences_engineReset :
    formReferences s.engineReset.table = formReferences (resetTable s.table) :=
  formReferences_raiseReferrers _ (canonical_withResetTable hc)

end

theorem State.engineReset_free (s : State) :
    s.engineReset.free = (List.range s.total).filter fun b =>
      !(heldBlocks (resetTable s.table)).contains b := by
  change s.resetRecords.free = _
  rw [resetRecords_eq, raiseReferrers_free]
  rfl

/-- R40: the free list holds every block that no remaining body holds. -/
theorem State.mem_engineReset_free {s : State} (hc : s.canonical = true) (b : Nat) :
    b ∈ s.engineReset.free ↔ b < s.total ∧
      ∀ h body, (s.engineReset.record h).current = some body → b ∉ body.blocks := by
  obtain ⟨-, -, table⟩ := canonical_iff.mp hc
  have current : ∀ h, (s.engineReset.record h).current
      = (sparseGet Record.empty (resetTable s.table) h).current := fun h => by
    rw [record_engineReset hc, sparseGet_resetTable table]
    rfl
  simp only [engineReset_free, List.mem_filter, List.mem_range, Bool.not_eq_true',
    List.contains_eq_mem, decide_eq_false_iff_not, mem_heldBlocks (resetTable_wf table), current,
    not_exists, not_and]

/-- Settles O13: each record is reset by itself, and then the referrers are counted and the pool rebuilt. -/
theorem engineResetRecords : Obligations.EngineResetRecords := by
  refine ⟨fun s w hw hl hc => ⟨s.engineReset, ?_, fun h => ?_, ?_, State.mem_engineReset_free hc⟩,
    formReferences_count⟩
  · simp [exec, execEngineReset, ctlReset, hw, hl]
  · rw [State.formReferences_engineReset hc, State.record_engineReset hc]
    by_cases active : (s.record h).state = .active
    · rw [Record.engineReset_of_active active]
      exact ⟨rfl, rfl, fun _ => ⟨active, rfl, rfl, rfl, rfl⟩, fun other => absurd active other,
        Nat.zero_add _⟩
    · rw [Record.engineReset_of_not_active active]
      exact ⟨rfl, rfl, fun is => absurd is active, fun _ => ⟨rfl, rfl, rfl, rfl, rfl⟩,
        Nat.zero_add _⟩
  · rw [State.engineReset_free]
    exact List.pairwise_lt_range.filter _

end Sys2Proof.Machine
end

section
/-! Body bursts (R16, R30, R34): where the bytes of a burst stand, and what storing it leaves. -/

namespace Sys2Proof.Machine

/-! ### Bytes written in a row -/

theorem State.canonical_writeBytes (bs : List Byte) :
    ∀ {s : State} (a : Nat), s.canonical = true → (s.writeBytes a bs).canonical = true := by
  induction bs with
  | nil => intro s a h; exact h
  | cons b bs ih => intro s a h; exact ih (a + 1) (canonical_writeByte a b h)

theorem State.readByte_writeBytes_outside (bs : List Byte) :
    ∀ (s : State) {a x : Nat}, (x < a ∨ a + bs.length ≤ x) →
      (s.writeBytes a bs).readByte x = s.readByte x := by
  induction bs with
  | nil => intros; rfl
  | cons b bs ih =>
    intro s a x hx
    rw [List.length_cons] at hx
    rw [writeBytes, ih _ (by omega), readByte_writeByte_ne s b (by omega)]

theorem State.readByte_writeBytes_inside (bs : List Byte) :
    ∀ {s : State}, s.canonical = true → ∀ (a : Nat) {j : Nat}, j < bs.length →
      (s.writeBytes a bs).readByte (a + j) = bs.getD j 0 := by
  induction bs with
  | nil => intro s _ a j hj; cases hj
  | cons b bs ih =>
    intro s hc a j hj
    cases j with
    | zero =>
      rw [Nat.add_zero, writeBytes, readByte_writeBytes_outside _ _ (by omega),
        readByte_writeByte_same a b hc]
      rfl
    | succ j =>
      rw [writeBytes, show a + (j + 1) = a + 1 + j by omega,
        ih (canonical_writeByte a b hc) (a + 1) (by simpa using hj)]
      rfl

theorem State.writeBytes_rest (bs : List Byte) :
    ∀ (s : State) (a : Nat), s.writeBytes a bs =
      { s with memory := (s.writeBytes a bs).memory, elements := (s.writeBytes a bs).elements } := by
  induction bs with
  | nil => intros; rfl
  | cons b bs ih =>
    intro s a
    rw [writeBytes, ih]
    rfl

/-- R30: the bytes from place 256 k on of a block list stand in its block k. -/
theorem State.writeContents_block {blocks : List Nat} {k blk : Nat} (hk : blocks[k]? = some blk)
    (bs : List Byte) : ∀ (s : State) (j : Nat), j + bs.length ≤ 256 →
      s.writeContents blocks (256 * k + j) bs = s.writeBytes (256 * blk + j) bs := by
  induction bs with
  | nil => intros; rfl
  | cons b bs ih =>
    intro s j hj
    rw [List.length_cons] at hj
    have place : contentAddress? blocks (256 * k + j) = some (256 * blk + j) := by
      have block : (256 * k + j) / 256 = k := by omega
      have offset : (256 * k + j) % 256 = j := by omega
      simp only [contentAddress?, Config.blockBytes, blockAddress, block, offset, hk,
        Option.map_some, Nat.mul_comm blk]
    have here : s.writeContent blocks (256 * k + j) b = s.writeByte (256 * blk + j) b := by
      simp only [writeContent, place]
    rw [writeContents, writeBytes, here]
    exact ih _ (j + 1) (by omega)

/-! ### A burst stored -/

section

variable {s : State} {h k blk : Nat} {b : LoadingBody} {bytes : List Byte}

theorem State.storeBurst_eq (s : State) (h : Nat) (hk : b.blocks[k]? = some blk)
    (hl : bytes.length ≤ 256) : s.storeBurst h b k bytes =
      (s.writeBytes (256 * blk) bytes).setRecord h { (s.writeBytes (256 * blk) bytes).record h with
        loading := some { b with loaded := b.loaded + bytes.length } } := by
  have written := writeContents_block hk bytes s 0 (by omega)
  rw [Nat.add_zero, Nat.add_zero] at written
  rw [storeBurst, written]

theorem State.record_writeBytes (s : State) (a : Nat) (bs : List Byte) (g : Nat) :
    (s.writeBytes a bs).record g = s.record g := by
  rw [writeBytes_rest]
  rfl

variable (hk : b.blocks[k]? = some blk) (hl : bytes.length ≤ 256)

include hk hl

theorem State.storeBurst_rest (s : State) (h : Nat) :
    let t := s.storeBurst h b k bytes
    t = { s with memory := t.memory, elements := t.elements, table := t.table } := by
  dsimp only
  rw [storeBurst_eq s h hk hl, writeBytes_rest]
  rfl

theorem State.readByte_storeBurst (hc : s.canonical = true) (h : Nat) {j : Nat}
    (hj : j < bytes.length) :
    (s.storeBurst h b k bytes).readByte (256 * blk + j) = bytes.getD j 0 := by
  rw [storeBurst_eq s h hk hl]
  exact readByte_writeBytes_inside bytes hc _ hj

theorem State.sameMemoryBut_storeBurst (s : State) (h : Nat) :
    s.SameMemoryBut (s.storeBurst h b k bytes) (256 * blk) bytes.length := by
  rw [storeBurst_eq s h hk hl]
  exact fun x hx => readByte_writeBytes_outside bytes s hx

theorem State.sameRecordsBut_storeBurst (s : State) (h : Nat) :
    s.SameRecordsBut (s.storeBurst h b k bytes) h := by
  intro g hg
  rw [storeBurst_eq s h hk hl, record_setRecord_ne _ _ hg, record_writeBytes]

theorem State.record_storeBurst (hc : s.canonical = true) (h : Nat) :
    (s.storeBurst h b k bytes).record h = { s.record h with
      loading := some { b with loaded := b.loaded + bytes.length } } := by
  rw [storeBurst_eq s h hk hl, record_setRecord_canonical _ _ (canonical_writeBytes bytes _ hc),
    record_writeBytes]

theorem State.canonical_storeBurst (hc : s.canonical = true) (h : Nat) :
    (s.storeBurst h b k bytes).canonical = true := by
  rw [storeBurst_eq s h hk hl]
  exact canonical_setRecord _ _ (canonical_writeBytes bytes _ hc)

end

/-- What storing a burst gives, as the second part of the statement on the last burst says it. -/
theorem State.storeBurst_result {s : State} {k blk : Nat} {b : LoadingBody} {bytes : List Byte}
    (hc : s.canonical = true) (h : Nat) (hk : b.blocks[k]? = some blk)
    (hl : bytes.length ≤ 256) :
    (let t := s.storeBurst h b k bytes
    t = { s with memory := t.memory, elements := t.elements, table := t.table } ∧
    (∀ j, j < bytes.length → t.readByte (256 * blk + j) = bytes.getD j 0) ∧
    s.SameMemoryBut t (256 * blk) bytes.length ∧ s.SameRecordsBut t h ∧
    t.record h = { s.record h with
      loading := some { b with loaded := b.loaded + bytes.length } }) :=
  ⟨s.storeBurst_rest hk hl h, fun _ hj => State.readByte_storeBurst hk hl hc h hj,
    s.sameMemoryBut_storeBurst hk hl h, s.sameRecordsBut_storeBurst hk hl h,
    State.record_storeBurst hk hl hc h⟩

end Sys2Proof.Machine
end

section
/-! BODY_BURST_END: a burst that is stored or discarded, and the load that its last burst ends (R16 to R18, R21 to
R23). -/

namespace Sys2Proof.Machine

/-! ### An event that leaves the lanes alone leaves them at rest -/

theorem State.startTest_wait_of_station {s t : State} {n : StationNo}
    (e : t.station n = s.station n) (h : s.startTest n = .wait) : t.startTest n = .wait := by
  revert h
  unfold startTest
  rw [e]
  dsimp only
  cases (s.station n).queue.head? with
  | none => exact id
  | some l =>
    dsimp only
    split
    · exact id
    · cases l.state with
      | ready =>
        cases (s.station n).profile with
        | none => exact id
        | some p =>
          dsimp only
          split <;> exact nofun
      | _ => exact id

/-- Whether something is left to do is a matter of the lanes and the clock. -/
theorem State.quiet_of_same {s t : State} (hq : s.quiet = true) (lanes : s.SameLanes t)
    (events : s.SameEvents t) : t.quiet = true := by
  obtain ⟨stations, composer, -, check, checkPending, -⟩ := lanes
  obtain ⟨-, clock, -⟩ := events
  obtain ⟨hn, hp, hs⟩ := quiet_iff.mp hq
  have station : ∀ n, t.station n = s.station n := fun n => by simp only [State.station, stations]
  have eligible : t.checkEligible = s.checkEligible := funext fun n => by
    simp only [checkEligible, station, checkPending]
  refine quiet_iff.mpr ⟨fun n => ?_, ?_, ?_⟩
  · obtain ⟨pair, start, park⟩ := hn n
    exact ⟨by rw [station, pair], startTest_wait_of_station (station n) start,
      by rw [station, clock, park]⟩
  · simpa only [composerPick?, urgentStation?, oldestStation?, station, composer] using hp
  · simpa only [serviceStation?, eligible, check] using hs

/-- RCH-C's descriptor takes a new work after work on the records; with the lanes at rest the event ends there. -/
theorem State.eventLeaves_finishEvent {s x : State} {d : List Byte} {i : Nat} {w : Work}
    (hq : s.quiet = true) (hand : s.control.hand = some ⟨d, i, w⟩) (k : s.TableWork x)
    (w' : Work) : s.EventLeaves x (x.setWork .control w').finishEvent ⟨d, i, w'⟩ := by
  have quiet : (x.setWork .control w').quiet = true :=
    quiet_of_same (quiet_of_same hq k.sameLanes k.sameEvents) (.refl x) ⟨rfl, rfl, rfl⟩
  rw [finishEvent_of_quiet quiet]
  exact eventLeaves_settleBus hand k w'

/-! ### The end of a burst -/

/-- RCH-C's transfer of burst k of the load in hand ends, with a block for it in the loading body and as many bytes as
R101 gives it. -/
structure State.BurstEnds (s : State) (d : List Byte) (i k : Nat) (aborting : Bool)
    (b : LoadingBody) (blk : Nat) (bytes : List Byte) : Prop where
  quiet : s.quiet = true
  canonical : s.canonical = true
  transfer : s.inTransfer .control .burst = true
  loading : (s.record (ctlHandle d)).loading = some b
  block : b.blocks[k]? = some blk
  positive : 1 ≤ bytes.length
  length : bytes.length = min 256 (b.length - 256 * k)
  hand : s.control.hand = some ⟨d, i, .load k aborting⟩

/-- The state in which burst k is stored and its transfer is over. -/
def State.burstStored (s : State) (h : Nat) (b : LoadingBody) (k : Nat) (bytes : List Byte) :
    State := (s.storeBurst h b k bytes).endTransfer .control

theorem State.writeContents_endTransfer (bl : List Nat) (bs : List Byte) :
    ∀ (s : State) (i : Nat), (s.endTransfer .control).writeContents bl i bs
      = (s.writeContents bl i bs).endTransfer .control := by
  induction bs with
  | nil => intros; rfl
  | cons b bs ih =>
    intro s i
    have here : (s.endTransfer .control).writeContent bl i b
        = (s.writeContent bl i b).endTransfer .control := by
      unfold writeContent
      split <;> rfl
    rw [writeContents, writeContents, here, ih]

/-- The end of the transfer and the storing of its bytes touch different items. -/
theorem State.storeBurst_endTransfer (s : State) (h : Nat) (b : LoadingBody) (k : Nat)
    (bytes : List Byte) :
    (s.endTransfer .control).storeBurst h b k bytes = s.burstStored h b k bytes := by
  rw [storeBurst, writeContents_endTransfer]
  rfl

namespace State.BurstEnds

variable {s : State} {d : List Byte} {i k blk : Nat} {aborting : Bool} {b : LoadingBody}
  {bytes : List Byte}

theorem length_le (e : s.BurstEnds d i k aborting b blk bytes) : bytes.length ≤ 256 := by
  have := e.length
  omega

theorem wellFormed (e : s.BurstEnds d i k aborting b blk bytes) :
    (Instr.bodyBurstEnd bytes).wellFormed = true := by
  simp [Instr.wellFormed, e.positive, e.length_le]

theorem loadInHand (e : s.BurstEnds d i k aborting b blk bytes) :
    s.loadInHand? = some (d, k, aborting) := by simp only [loadInHand?, e.hand]

/-- R18: after a STOP the burst is discarded. -/
theorem exec_aborting (e : s.BurstEnds d i k true b blk bytes) :
    exec (.bodyBurstEnd bytes) s = .next ((s.endTransfer .control).abortLoad d).finishEvent := by
  simp only [exec, execBodyBurstEnd, e.wellFormed, e.transfer, e.loadInHand, e.loading, burstLength,
    e.length, ne_eq, not_true_eq_false, if_false, Bool.true_eq_false, if_true]

/-- R16: the burst is stored in a block the card has. -/
theorem exec_storing (e : s.BurstEnds d i k false b blk bytes) (card : ∀ x ∈ b.blocks, x < s.total) :
    exec (.bodyBurstEnd bytes) s =
      .next ((s.endTransfer .control).burstEnded (ctlHandle d) b k bytes).finishEvent := by
  have present : s.missingBlock? b.blocks = none := by simpa [missingBlock?] using card
  simp only [exec, execBodyBurstEnd, e.wellFormed, e.transfer, e.loadInHand, e.loading, burstLength,
    e.length, ne_eq, not_true_eq_false, if_false, Bool.true_eq_false, Bool.false_eq_true, present]

/-! The state in which the burst is stored -/

theorem rest (e : s.BurstEnds d i k aborting b blk bytes) (h : Nat) :
    s.storeBurst h b k bytes = { s with
      memory := (s.storeBurst h b k bytes).memory, elements := (s.storeBurst h b k bytes).elements,
      table := (s.storeBurst h b k bytes).table } := s.storeBurst_rest e.block e.length_le h

theorem stored_lanes (e : s.BurstEnds d i k aborting b blk bytes) (h : Nat) :
    s.SameLanes (s.burstStored h b k bytes) := by
  rw [burstStored, e.rest h]
  exact .refl s

theorem stored_events (e : s.BurstEnds d i k aborting b blk bytes) (h : Nat) :
    s.SameEvents (s.burstStored h b k bytes) := by
  rw [burstStored, e.rest h]
  exact ⟨rfl, rfl, rfl⟩

theorem stored_free (e : s.BurstEnds d i k aborting b blk bytes) (h : Nat) :
    (s.burstStored h b k bytes).free = s.free := by
  rw [burstStored, e.rest h]
  rfl

theorem stored_hand (e : s.BurstEnds d i k aborting b blk bytes) (h : Nat) :
    (s.burstStored h b k bytes).control.hand = some ⟨d, i, .load k aborting⟩ := by
  rw [burstStored, e.rest h]
  exact e.hand

theorem stored_canonical (e : s.BurstEnds d i k aborting b blk bytes) (h : Nat) :
    (s.burstStored h b k bytes).canonical = true :=
  canonical_of_same (canonical_storeBurst e.block e.length_le e.canonical h) rfl rfl rfl

theorem stored_record_ne (e : s.BurstEnds d i k aborting b blk bytes) {h g : Nat} (hg : g ≠ h) :
    (s.burstStored h b k bytes).record g = s.record g :=
  s.sameRecordsBut_storeBurst e.block e.length_le h g hg

theorem stored_record (e : s.BurstEnds d i k aborting b blk bytes) (h : Nat) :
    (s.burstStored h b k bytes).record h = { s.record h with
      loading := some { b with loaded := b.loaded + bytes.length } } :=
  record_storeBurst e.block e.length_le e.canonical h

/-- What every event that stores a burst leaves, whatever its work on the records. -/
theorem storing_result (e : s.BurstEnds d i k aborting b blk bytes) {h : Nat} {x t : State}
    {hand : Hand} (l : (s.burstStored h b k bytes).EventLeaves x t hand) :
    s.SameLanes t ∧ s.SameEvents t ∧
      (∀ j, j < bytes.length → t.readByte (256 * blk + j) = bytes.getD j 0) ∧
      s.SameMemoryBut t (256 * blk) bytes.length :=
  ⟨(e.stored_lanes h).trans l.lanes, (e.stored_events h).trans l.events,
    fun _ hj => (l.memory _).trans (readByte_storeBurst e.block e.length_le e.canonical h hj),
    fun a ha => (l.memory a).trans (s.sameMemoryBut_storeBurst e.block e.length_le h a ha)⟩

/-- The work on the records that follows the storing of a burst, to the end of the event. -/
theorem eventLeaves (e : s.BurstEnds d i k aborting b blk bytes) {x : State}
    (w : (s.burstStored (ctlHandle d) b k bytes).TableWork x) (w' : Work) :
    (s.burstStored (ctlHandle d) b k bytes).EventLeaves x (x.setWork .control w').finishEvent
      ⟨d, i, w'⟩ :=
  eventLeaves_finishEvent (quiet_of_same e.quiet (e.stored_lanes _) (e.stored_events _))
    (e.stored_hand _) w w'

end State.BurstEnds

/-! ### A burst that is not the last, or that a STOP discards -/

theorem State.abortLoad_eq (s : State) (d : List Byte) : s.abortLoad d =
    (s.dropLoading (ctlHandle d)).completeRecord (ctlHandle d) .aborted [] := rfl

theorem State.burstEnded_of_more {s : State} {h k : Nat} {b : LoadingBody} {bytes : List Byte}
    (more : b.loaded + bytes.length < b.length) :
    (s.endTransfer .control).burstEnded h b k bytes =
      (s.burstStored h b k bytes).setWork .control (.load (k + 1) false) := by
  rw [burstEnded, storeBurst_endTransfer]
  exact if_neg (by omega)

/-- Settles O36: the burst stored in its block, or the loading body given up after a STOP. -/
theorem bodyBurstStored : Obligations.BodyBurstStored := by
  intro s d i k b blk bytes quiet canonical transfer loading block positive length
  refine ⟨fun hand card more => ?_, fun hand => ?_⟩
  · have e : s.BurstEnds d i k false b blk bytes :=
      ⟨quiet, canonical, transfer, loading, block, positive, length, hand⟩
    refine ⟨_, e.exec_storing card, ?_⟩
    rw [State.burstEnded_of_more more]
    have l := e.eventLeaves (.refl _) (.load (k + 1) false)
    obtain ⟨lanes, events, burst, memory⟩ := e.storing_result l
    exact ⟨lanes, events, l.records.free.trans (e.stored_free _),
      fun g hg => (l.records.record g).trans (e.stored_record_ne hg),
      (l.records.record _).trans (e.stored_record _), l.hand, burst, memory⟩
  · have e : s.BurstEnds d i k true b blk bytes :=
      ⟨quiet, canonical, transfer, loading, block, positive, length, hand⟩
    refine ⟨_, e.exec_aborting, ?_⟩
    rw [State.abortLoad_eq]
    have canonical' : (s.endTransfer .control).canonical = true :=
      State.canonical_of_same canonical rfl rfl rfl
    have loading' : ((s.endTransfer .control).record (ctlHandle d)).loading = some b := loading
    have quiet' : (s.endTransfer .control).quiet = true := quiet
    have l := State.eventLeaves_finishEvent quiet' hand
      (State.tableWork_dropLoading loading') (.complete (((s.endTransfer .control).dropLoading
        (ctlHandle d)).recordCompletion (ctlHandle d) .aborted []))
    refine ⟨l.lanes, l.events, l.memory, l.answersRecord (by simp) rfl,
      l.records.free.trans (State.dropLoading_free loading'), fun g hg => ?_, ?_⟩
    · exact (l.records.record g).trans
        ((State.record_dropLoading canonical' loading' g).trans (if_neg hg))
    · exact (l.records.record _).trans
        ((State.record_dropLoading canonical' loading' _).trans (if_pos rfl))

end Sys2Proof.Machine
end

section
/-! The last burst of a load: the body validated, and the record made, replaced or left as it was (R17, R21 to R23). -/

namespace Sys2Proof.Machine

/-! ### The records that a load leaves -/

/-- The records after a DEFINE whose body passes (R17). -/
def State.bodyDefined (s : State) (h : Nat) (b : LoadingBody) (refs : List Nat) : State :=
  (s.setRecord h { s.record h with
    state := .active, loading := none,
    current := some (b.accepted (s.record h).version 0 refs) }).raiseReferrers refs

/-- The records after a COUNTER's AMEND that passes (R22). -/
def State.counterAmended (s : State) (h : Nat) (b : LoadingBody) : State :=
  (s.setRecord h { s.record h with
    loading := none, version := nextVersion (s.record h).version,
    current := some (b.accepted (nextVersion (s.record h).version)
      (bodyPins (s.record h).current) []) }).freeBody? (s.record h).current

/-- The record that an AMEND of another kind leaves, its current body replaced (R21). -/
def Record.replaced (r : Record) (b : LoadingBody) (refs : List Nat) : Record :=
  { r with loading := none, version := nextVersion r.version,
           current := some (b.accepted (nextVersion r.version) 0 refs) }

/-- The records after an AMEND whose pinned current body becomes prior (R21). -/
def State.bodyMadePrior (s : State) (h : Nat) (b : LoadingBody) (refs : List Nat) : State :=
  (s.setRecord h { (s.record h).replaced b refs with
    prior := (s.record h).current }).raiseReferrers refs

/-- The records after an AMEND whose current body, without pins, is freed (R21). -/
def State.bodyReplaced (s : State) (h : Nat) (b : LoadingBody) (refs : List Nat) : State :=
  ((s.setRecord h ((s.record h).replaced b refs)).freeBody? (s.record h).current).raiseReferrers
    refs

section

variable {s : State} {h : Nat} {k : Kind} {b : LoadingBody}

theorem State.completeLoad_of_fault {st : Status} {j : Nat}
    (fault : s.validate k (s.content b.blocks) b.length = some (st, j)) :
    s.completeLoad h k b = (s.dropLoading h).completeRecord h st [indexField j] := by
  simp only [completeLoad, fault]
  rfl

variable (passes : s.validate k (s.content b.blocks) b.length = none)

include passes

theorem State.completeLoad_of_define (state : (s.record h).state = .loading) :
    s.completeLoad h k b = (s.bodyDefined h b (bodyReferences k (s.content b.blocks))).completeRecord
      h .ok [] := by
  simp only [completeLoad, passes, state, if_true]
  rfl

theorem State.completeLoad_of_counter (state : (s.record h).state ≠ .loading)
    (kind : k = .counter) :
    s.completeLoad h k b = (s.counterAmended h b).completeRecord h .ok [] := by
  subst kind
  simp only [completeLoad, passes, state, if_true, if_false]
  rfl

theorem State.completeLoad_of_pinned (state : (s.record h).state ≠ .loading)
    (kind : k ≠ .counter) (pinned : 0 < bodyPins (s.record h).current) :
    s.completeLoad h k b = (s.bodyMadePrior h b (bodyReferences k
      (s.content b.blocks))).completeRecord h .ok [priorMadeField true] := by
  simp only [completeLoad, passes, state, kind, if_false, completeAmend, pinned, decide_true,
    if_true]
  rfl

theorem State.completeLoad_of_unpinned (state : (s.record h).state ≠ .loading)
    (kind : k ≠ .counter) (unpinned : bodyPins (s.record h).current = 0) :
    s.completeLoad h k b = (s.bodyReplaced h b (bodyReferences k
      (s.content b.blocks))).completeRecord h .ok [priorMadeField false] := by
  simp only [completeLoad, passes, state, kind, if_false, completeAmend, unpinned, lt_irrefl,
    decide_false, Bool.false_eq_true]
  rfl

end

/-! ### Each of them, record by record -/

theorem State.tableWork_bodyDefined (s : State) (h : Nat) (b : LoadingBody) (refs : List Nat) :
    s.TableWork (s.bodyDefined h b refs) :=
  (tableWork_setRecord s h _).trans (tableWork_raiseReferrers refs _)

theorem State.tableWork_counterAmended (s : State) (h : Nat) (b : LoadingBody) :
    s.TableWork (s.counterAmended h b) :=
  (tableWork_setRecord s h _).trans (tableWork_freeBody? _ _)

theorem State.tableWork_bodyMadePrior (s : State) (h : Nat) (b : LoadingBody) (refs : List Nat) :
    s.TableWork (s.bodyMadePrior h b refs) :=
  (tableWork_setRecord s h _).trans (tableWork_raiseReferrers refs _)

theorem State.tableWork_bodyReplaced (s : State) (h : Nat) (b : LoadingBody) (refs : List Nat) :
    s.TableWork (s.bodyReplaced h b refs) :=
  ((tableWork_setRecord s h _).trans (tableWork_freeBody? _ _)).trans
    (tableWork_raiseReferrers refs _)

section

variable {s : State} (hc : s.canonical = true) {h g : Nat} (r : Record) {refs : List Nat}

include hc

/-- A handle that a reference list does not hold keeps the record written to it. -/
theorem State.record_setRecord_raise_same (new : h ∉ refs) :
    ((s.setRecord h r).raiseReferrers refs).record h = r := by
  rw [record_raiseReferrers refs (canonical_setRecord h r hc), record_setRecord_canonical h r hc,
    List.count_eq_zero_of_not_mem new]
  rfl

/-- The referrers of every other handle rise by its places in the reference list. -/
theorem State.record_setRecord_raise_ne (hg : g ≠ h) :
    ((s.setRecord h r).raiseReferrers refs).record g =
      { s.record g with referrers := (s.record g).referrers + refs.count g } := by
  rw [record_raiseReferrers refs (canonical_setRecord h r hc), record_setRecord_ne s r hg]

/-- A handle that a freed body does not name keeps the record written to it. -/
theorem State.record_setRecord_freeBody_same {old : Body} (named : h ∉ old.refs) :
    ((s.setRecord h r).freeBody? (some old)).record h = r := by
  rw [freeBody?, record_freeBody (canonical_setRecord h r hc), record_setRecord_canonical h r hc,
    List.count_eq_zero_of_not_mem named]
  rfl

/-- The referrers of every other handle fall by its places in the freed body's reference list. -/
theorem State.record_setRecord_freeBody_ne (hg : g ≠ h) (old : Body) :
    ((s.setRecord h r).freeBody? (some old)).record g =
      { s.record g with referrers := (s.record g).referrers - old.refs.count g } := by
  rw [freeBody?, record_freeBody (canonical_setRecord h r hc), record_setRecord_ne s r hg]

theorem State.record_bodyReplaced_same {b : LoadingBody} {old : Body}
    (current : (s.record h).current = some old) (named : h ∉ old.refs) (new : h ∉ refs) :
    (s.bodyReplaced h b refs).record h = (s.record h).replaced b refs := by
  rw [bodyReplaced, current, record_raiseReferrers refs
    (canonical_freeBody? _ (canonical_setRecord h _ hc)), record_setRecord_freeBody_same hc _ named,
    List.count_eq_zero_of_not_mem new]
  rfl

theorem State.record_bodyReplaced_ne {b : LoadingBody} {old : Body}
    (current : (s.record h).current = some old) (hg : g ≠ h) :
    (s.bodyReplaced h b refs).record g = { s.record g with
      referrers := (s.record g).referrers - old.refs.count g + refs.count g } := by
  rw [bodyReplaced, current, record_raiseReferrers refs
    (canonical_freeBody? _ (canonical_setRecord h _ hc)), record_setRecord_freeBody_ne hc _ hg]

end

/-! ### The completions of a load -/

/-- The index field of a refusal reads back modulo its two bytes (R208). -/
theorem State.answersAt_of_answersRecord {t : State} {st : Status} {h j : Nat}
    (a : t.answersRecord st h (indexFields j)) : t.answersAt st (j % 65536) := by
  obtain ⟨status, answer⟩ := a
  refine ⟨status, ?_⟩
  rw [controlIndex?, answer]
  exact congrArg some (two_bytes j)

/-- Byte 49 of a completion is the twelfth of those from descriptor byte 38 on (R208). -/
theorem State.madePrior_of_answersRecord {t : State} {st : Status} {h : Nat} {rest : List Byte}
    (a : t.answersRecord st h rest) :
    (t.controlAnswer?.map fun x => x.getD 17 0) = some (rest.getD 11 0) := by
  obtain ⟨-, answer⟩ := a
  rw [answer]
  rfl

namespace State.BurstEnds

variable {s : State} {d : List Byte} {i k blk : Nat} {b : LoadingBody} {bytes : List Byte}

theorem burstEnded_of_last (s : State) {h : Nat} {kind : Kind}
    (hk : (s.record h).kind = some kind) (last : b.length ≤ b.loaded + bytes.length) :
    (s.endTransfer .control).burstEnded h b k bytes =
      (s.burstStored h b k bytes).completeLoad h kind b := by
  have kept : ((s.endTransfer .control).record h).kind = some kind := hk
  rw [burstEnded, storeBurst_endTransfer]
  simp only [if_pos last, kept]

end State.BurstEnds

/-- The end of the event of a load's last burst. -/
def State.loadEnd (s : State) (d : List Byte) (b : LoadingBody) (k : Nat) (bytes : List Byte)
    (kind : Kind) : State :=
  ((s.burstStored (ctlHandle d) b k bytes).completeLoad (ctlHandle d) kind b).finishEvent

namespace State.BurstEnds

variable {s : State} {d : List Byte} {i k blk : Nat} {b : LoadingBody} {bytes : List Byte}
  {kind : Kind}

theorem exec_last (e : s.BurstEnds d i k false b blk bytes) (card : ∀ x ∈ b.blocks, x < s.total)
    (hk : (s.record (ctlHandle d)).kind = some kind) (last : b.length ≤ b.loaded + bytes.length) :
    exec (.bodyBurstEnd bytes) s = .next (s.loadEnd d b k bytes kind) := by
  rw [e.exec_storing card, burstEnded_of_last s hk last]
  rfl

/-- The completion of a load stands on the records as the load leaves them. -/
theorem completes (e : s.BurstEnds d i k false b blk bytes) {x : State} {st : Status}
    {fields : List CompletionField}
    (ends : (s.burstStored (ctlHandle d) b k bytes).completeLoad (ctlHandle d) kind b
      = x.completeRecord (ctlHandle d) st fields)
    (w : (s.burstStored (ctlHandle d) b k bytes).TableWork x) :
    (s.burstStored (ctlHandle d) b k bytes).EventLeaves x (s.loadEnd d b k bytes kind)
      ⟨d, i, .complete (x.recordCompletion (ctlHandle d) st fields)⟩ := by
  rw [loadEnd, ends]
  exact e.eventLeaves w _

theorem stored_state (e : s.BurstEnds d i k false b blk bytes) (h : Nat) :
    ((s.burstStored h b k bytes).record h).state = (s.record h).state := by rw [e.stored_record]

theorem stored_current (e : s.BurstEnds d i k false b blk bytes) (h : Nat) :
    ((s.burstStored h b k bytes).record h).current = (s.record h).current := by
  rw [e.stored_record]

/-- R17, R23: a body that fails validation. -/
theorem load_fails (e : s.BurstEnds d i k false b blk bytes) {st : Status} {j : Nat}
    (fault : (s.storeBurst (ctlHandle d) b k bytes).validate kind
      ((s.storeBurst (ctlHandle d) b k bytes).content b.blocks) b.length = some (st, j)) :
    let t := s.loadEnd d b k bytes kind
    t.answersRecord st (ctlHandle d) (indexFields j) ∧ t.free = s.free ++ b.blocks ∧
      s.SameRecordsBut t (ctlHandle d) ∧ t.record (ctlHandle d) =
        (s.record (ctlHandle d)).withoutLoading := by
  intro t
  have loading : ((s.burstStored (ctlHandle d) b k bytes).record (ctlHandle d)).loading
      = some { b with loaded := b.loaded + bytes.length } := by rw [e.stored_record]
  have dropped := fun g => record_dropLoading (e.stored_canonical (ctlHandle d)) loading g
  have l := e.completes (completeLoad_of_fault fault) (tableWork_dropLoading loading)
  refine ⟨l.answersRecord (by simp [indexField]) rfl, ?_, fun g hg => ?_, ?_⟩
  · rw [l.records.free, dropLoading_free loading, e.stored_free]
  · rw [l.records.record, dropped, if_neg hg, e.stored_record_ne hg]
  · rw [l.records.record, dropped, if_pos rfl, e.stored_record]
    rfl

section

variable (e : s.BurstEnds d i k false b blk bytes)
  (passes : (s.storeBurst (ctlHandle d) b k bytes).validate kind
    ((s.storeBurst (ctlHandle d) b k bytes).content b.blocks) b.length = none)

include e passes

/-- R17: a DEFINE's body that passes. -/
theorem define_passes (state : (s.record (ctlHandle d)).state = .loading) :
    let t := s.loadEnd d b k bytes kind
    let refs := bodyReferences kind ((s.storeBurst (ctlHandle d) b k bytes).content b.blocks)
    t.answersRecord .ok (ctlHandle d) noFields ∧ t.free = s.free ∧
      (ctlHandle d ∉ refs → t.record (ctlHandle d) = { s.record (ctlHandle d) with
        state := .active, loading := none,
        current := some ⟨b.blocks, b.length, (s.record (ctlHandle d)).version, 0, refs⟩ }) ∧
      ∀ g, g ≠ ctlHandle d → t.record g = { s.record g with
        referrers := (s.record g).referrers + refs.count g } := by
  intro t refs
  have l := e.completes (completeLoad_of_define passes ((e.stored_state _).trans state))
    (tableWork_bodyDefined _ _ b refs)
  have canonical := e.stored_canonical (ctlHandle d)
  refine ⟨l.answersRecord (by simp) rfl, ?_, fun new => ?_, fun g hg => ?_⟩
  · rw [l.records.free, bodyDefined, raiseReferrers_free, setRecord_free, e.stored_free]
  · refine (l.records.record _).trans ((record_setRecord_raise_same canonical _ new).trans ?_)
    rw [e.stored_record]
    rfl
  · refine (l.records.record g).trans ((record_setRecord_raise_ne canonical _ hg).trans ?_)
    rw [e.stored_record_ne hg]
    rfl

/-- R22: a COUNTER's AMEND that passes. -/
theorem counter_amend_passes (state : (s.record (ctlHandle d)).state ≠ .loading)
    (hk : kind = .counter) {old : Body} (current : (s.record (ctlHandle d)).current = some old) :
    let t := s.loadEnd d b k bytes kind
    let v := nextVersion (s.record (ctlHandle d)).version
    t.answersRecord .ok (ctlHandle d) noFields ∧ t.free = s.free ++ old.blocks ∧
      (ctlHandle d ∉ old.refs → t.record (ctlHandle d) = { s.record (ctlHandle d) with
        loading := none, version := v,
        current := some ⟨b.blocks, b.length, v, old.pins, []⟩ }) ∧
      ∀ g, g ≠ ctlHandle d → t.record g = { s.record g with
        referrers := (s.record g).referrers - old.refs.count g } := by
  intro t v
  have l := e.completes (completeLoad_of_counter passes
    ((e.stored_state _).trans_ne state) hk) (tableWork_counterAmended _ _ b)
  have canonical := e.stored_canonical (ctlHandle d)
  have amended : (s.burstStored (ctlHandle d) b k bytes).counterAmended (ctlHandle d) b
      = ((s.burstStored (ctlHandle d) b k bytes).setRecord (ctlHandle d)
        { s.record (ctlHandle d) with
          loading := none, version := v,
          current := some ⟨b.blocks, b.length, v, old.pins, []⟩ }).freeBody? (some old) := by
    simp only [counterAmended, e.stored_record, current]
    rfl
  refine ⟨l.answersRecord (by simp) rfl, ?_, fun named => ?_, fun g hg => ?_⟩
  · rw [l.records.free, amended, freeBody?_free, setRecord_free, e.stored_free]
    rfl
  · rw [l.records.record, amended, record_setRecord_freeBody_same canonical _ named]
  · rw [l.records.record, amended, record_setRecord_freeBody_ne canonical _ hg,
      e.stored_record_ne hg]

/-- R21: an AMEND of another kind that passes, the current body pinned. -/
theorem pinned_amend_passes (state : (s.record (ctlHandle d)).state ≠ .loading)
    (hk : kind ≠ .counter) {old : Body} (current : (s.record (ctlHandle d)).current = some old)
    (pinned : 0 < old.pins) :
    let t := s.loadEnd d b k bytes kind
    let v := nextVersion (s.record (ctlHandle d)).version
    let refs := bodyReferences kind ((s.storeBurst (ctlHandle d) b k bytes).content b.blocks)
    t.answersRecord .ok (ctlHandle d) (List.replicate 11 0 ++ [8] ++ List.replicate 13 0) ∧
      t.free = s.free ∧
      (ctlHandle d ∉ refs → t.record (ctlHandle d) = { s.record (ctlHandle d) with
        loading := none, version := v, prior := some old,
        current := some ⟨b.blocks, b.length, v, 0, refs⟩ }) ∧
      ∀ g, g ≠ ctlHandle d → t.record g = { s.record g with
        referrers := (s.record g).referrers + refs.count g } := by
  intro t v refs
  have stored := (e.stored_current (ctlHandle d)).trans current
  have l := e.completes (completeLoad_of_pinned passes ((e.stored_state _).trans_ne state) hk
    (by rw [stored]; exact pinned)) (tableWork_bodyMadePrior _ _ b refs)
  have canonical := e.stored_canonical (ctlHandle d)
  refine ⟨l.answersRecord (by simp [priorMadeField]) rfl, ?_, fun new => ?_, fun g hg => ?_⟩
  · rw [l.records.free, bodyMadePrior, raiseReferrers_free, setRecord_free, e.stored_free]
  · refine (l.records.record _).trans ((record_setRecord_raise_same canonical _ new).trans ?_)
    rw [e.stored_record, ← current]
    rfl
  · refine (l.records.record g).trans ((record_setRecord_raise_ne canonical _ hg).trans ?_)
    rw [e.stored_record_ne hg]
    rfl

/-- R21: an AMEND of another kind that passes, the current body without pins. -/
theorem unpinned_amend_passes (state : (s.record (ctlHandle d)).state ≠ .loading)
    (hk : kind ≠ .counter) {old : Body} (current : (s.record (ctlHandle d)).current = some old)
    (unpinned : old.pins = 0) :
    let t := s.loadEnd d b k bytes kind
    let v := nextVersion (s.record (ctlHandle d)).version
    let refs := bodyReferences kind ((s.storeBurst (ctlHandle d) b k bytes).content b.blocks)
    t.answersRecord .ok (ctlHandle d) noFields ∧ t.free = s.free ++ old.blocks ∧
      (ctlHandle d ∉ old.refs → ctlHandle d ∉ refs →
        t.record (ctlHandle d) = { s.record (ctlHandle d) with
          loading := none, version := v,
          current := some ⟨b.blocks, b.length, v, 0, refs⟩ }) ∧
      ∀ g, g ≠ ctlHandle d → t.record g = { s.record g with
        referrers := (s.record g).referrers - old.refs.count g + refs.count g } := by
  intro t v refs
  have stored := (e.stored_current (ctlHandle d)).trans current
  have l := e.completes (completeLoad_of_unpinned passes ((e.stored_state _).trans_ne state) hk
    (by rw [stored]; exact unpinned)) (tableWork_bodyReplaced _ _ b refs)
  have canonical := e.stored_canonical (ctlHandle d)
  refine ⟨l.answersRecord (by simp [priorMadeField]) rfl, ?_, fun named new => ?_, fun g hg => ?_⟩
  · rw [l.records.free, bodyReplaced, raiseReferrers_free, freeBody?_free, setRecord_free,
      e.stored_free, stored]
    rfl
  · refine (l.records.record _).trans
      ((record_bodyReplaced_same canonical stored named new).trans ?_)
    rw [e.stored_record]
    rfl
  · refine (l.records.record g).trans ((record_bodyReplaced_ne canonical stored hg).trans ?_)
    rw [e.stored_record_ne hg]
    rfl

end

/-- Each end of a load is work on the records and then a completion, with OK where the body passes. -/
theorem load_completes (e : s.BurstEnds d i k false b blk bytes) (kind : Kind) :
    ∃ x st fields, (s.burstStored (ctlHandle d) b k bytes).TableWork x ∧
      (s.burstStored (ctlHandle d) b k bytes).completeLoad (ctlHandle d) kind b
        = x.completeRecord (ctlHandle d) st fields ∧ (∀ p ∈ fields, 38 ≤ p.1) ∧
      ((s.burstStored (ctlHandle d) b k bytes).validate kind
        ((s.burstStored (ctlHandle d) b k bytes).content b.blocks) b.length = none → st = .ok) := by
  cases valid : (s.burstStored (ctlHandle d) b k bytes).validate kind
      ((s.burstStored (ctlHandle d) b k bytes).content b.blocks) b.length with
  | some fault =>
    exact ⟨_, _, _, tableWork_dropLoading (by rw [e.stored_record]), completeLoad_of_fault valid,
      by simp [indexField], nofun⟩
  | none =>
    by_cases state :
        ((s.burstStored (ctlHandle d) b k bytes).record (ctlHandle d)).state = .loading
    · exact ⟨_, _, _, tableWork_bodyDefined _ _ b _, completeLoad_of_define valid state, by simp,
        fun _ => rfl⟩
    by_cases counter : kind = .counter
    · exact ⟨_, _, _, tableWork_counterAmended _ _ b, completeLoad_of_counter valid state counter,
        by simp, fun _ => rfl⟩
    by_cases pinned :
        0 < bodyPins ((s.burstStored (ctlHandle d) b k bytes).record (ctlHandle d)).current
    · exact ⟨_, _, _, tableWork_bodyMadePrior _ _ b _,
        completeLoad_of_pinned valid state counter pinned, by simp [priorMadeField], fun _ => rfl⟩
    · exact ⟨_, _, _, tableWork_bodyReplaced _ _ b _,
        completeLoad_of_unpinned valid state counter (by omega), by simp [priorMadeField],
        fun _ => rfl⟩

/-- The event of the last burst, whatever the validation gives, leaves what every stored burst leaves. -/
theorem load_result (e : s.BurstEnds d i k false b blk bytes) (kind : Kind) :
    let t := s.loadEnd d b k bytes kind
    s.SameLanes t ∧ s.SameEvents t ∧
      (∀ j, j < bytes.length → t.readByte (256 * blk + j) = bytes.getD j 0) ∧
      s.SameMemoryBut t (256 * blk) bytes.length := by
  obtain ⟨_, _, _, work, ends, -, -⟩ := e.load_completes kind
  exact e.storing_result (e.completes ends work)

theorem load_passes (e : s.BurstEnds d i k false b blk bytes)
    (passes : (s.storeBurst (ctlHandle d) b k bytes).validate kind
      ((s.storeBurst (ctlHandle d) b k bytes).content b.blocks) b.length = none) :
    (s.loadEnd d b k bytes kind).answers .ok := by
  obtain ⟨_, _, _, work, ends, fields, status⟩ := e.load_completes kind
  obtain rfl := status passes
  exact ((e.completes ends work).answersRecord fields rfl).1

end State.BurstEnds

/-- Settles O37: the four ends of a load whose body passes, and the one of a body that fails. -/
theorem loadEnds : Obligations.LoadEnds := by
  refine ⟨fun s d i k b kind blk bytes quiet canonical transfer hand loading hk card block positive
    length last => ?_, fun s h k blk b bytes canonical block length =>
      State.storeBurst_result canonical h block length⟩
  have e : s.BurstEnds d i k false b blk bytes :=
    ⟨quiet, canonical, transfer, loading, block, positive, length, hand⟩
  obtain ⟨lanes, events, burst, memory⟩ := e.load_result kind
  refine ⟨_, e.exec_last card hk last, lanes, events, burst, memory, fun st j fault => ?_,
    fun passes new => ⟨e.load_passes passes, fun state => ?_, fun state other old current pinned => ?_,
      fun state counter old current => ?_, fun state other old current unpinned => ?_⟩⟩
  · obtain ⟨answers, free, others, record⟩ := e.load_fails fault
    exact ⟨State.answersAt_of_answersRecord answers, answers, free, others, record⟩
  · obtain ⟨answers, free, record, referrers⟩ := e.define_passes passes state
    exact ⟨answers, record new, free, referrers⟩
  · obtain ⟨answers, free, record, referrers⟩ :=
      e.pinned_amend_passes passes state other current pinned
    exact ⟨record new, free, State.madePrior_of_answersRecord answers, answers, referrers⟩
  · obtain ⟨answers, free, record, referrers⟩ :=
      e.counter_amend_passes passes state counter current
    exact ⟨free, answers, record, referrers⟩
  · obtain ⟨answers, free, record, referrers⟩ :=
      e.unpinned_amend_passes passes state other current unpinned
    exact ⟨free, fun named => record named new, State.madePrior_of_answersRecord answers, answers,
      referrers⟩

end Sys2Proof.Machine
end

section
/-! What the commands' own operations leave alone, beside the shared ones of Laws/Kept.lean: the rules that the
preservation of the canonical form is assembled from. -/

namespace Sys2Proof.Machine.State

/-! ### The end of an event and the clock -/

theorem kept_finishEvent (s : State) : s.Kept s.finishEvent :=
  (kept_settleStations s).trans (kept_settleBus _)

theorem canonical_reachTime {s : State} (t : Word) (h : s.canonical = true) :
    (s.reachTime t).canonical = true := by
  unfold reachTime
  split
  · exact h
  · exact canonical_of_same h rfl rfl rfl

/-! ### START, STOP and poll demand (R86, R95 to R98) -/

theorem kept_startRing (s : State) (c : Chan) : s.Kept (s.startRing c) := by
  unfold startRing
  dsimp only
  split
  · split
    · exact kept_updChan s c _ ⟨rfl, rfl, rfl, fun _ => rfl, fun _ => rfl, fun _ h => h⟩
    · exact (kept_updChan s c (fun ch => { ch with state := .running, stopCause := .none })
        ⟨rfl, rfl, rfl, fun _ => rfl, fun _ => rfl, fun _ _ => nofun⟩).trans (kept_settleBus _)
  · exact .refl s

theorem kept_setStopPending (s : State) (c : Chan) : s.Kept (s.setStopPending c) :=
  kept_updChan s c _ ⟨rfl, rfl, rfl, fun _ => rfl, fun _ => rfl, fun _ h => h⟩

theorem kept_stopLoad (s : State) (d : List Byte) (k : Nat) : s.Kept (s.stopLoad d k) := by
  have pending := kept_setStopPending s .control
  unfold stopLoad
  dsimp only
  split
  · exact pending.trans (kept_setWork ..)
  · exact (pending.trans (kept_updChan _ _ _
      ⟨rfl, rfl, rfl, fun _ => rfl, fun _ => rfl, fun _ h => h⟩)).trans (kept_abortLoad ..)

theorem kept_stopHand (s : State) (c : Chan) (h : Hand) : s.Kept (s.stopHand c h) := by
  unfold stopHand
  split
  · exact (kept_stopLoad ..).trans (kept_settleBus _)
  · exact kept_setStopPending ..

theorem kept_stopIdle (s : State) (c : Chan) : s.Kept (s.stopIdle c) := by
  unfold stopIdle
  split
  · exact (kept_setStopPending s c).trans (kept_updChan _ _ _
      ⟨rfl, rfl, rfl, fun _ => rfl, fun _ => rfl, fun _ h => h⟩)
  · exact kept_stopChannel ..

theorem kept_stopRing (s : State) (c : Chan) : s.Kept (s.stopRing c) := by
  unfold stopRing
  split
  · exact .refl s
  · exact kept_stopIdle s c
  · exact kept_stopChannel ..
  · split
    · exact kept_stopHand ..
    · exact kept_stopIdle s c

theorem Channel_regsKept_polled (c : Chan) (ch : Channel) : Channel.RegsKept c ch ch.polled := by
  unfold Channel.polled
  split
  · split
    · exact ⟨rfl, rfl, rfl, fun _ => rfl, fun _ => rfl, fun _ h => h⟩
    · exact ⟨rfl, rfl, rfl, fun _ => rfl, fun _ => rfl, fun _ _ => nofun⟩
  · exact ⟨rfl, rfl, rfl, fun _ => rfl, fun _ => rfl, fun _ h => h⟩
  · exact .refl c ch
  · exact .refl c ch

theorem kept_pollNamed (s : State) (w : Word) : s.Kept (s.pollNamed w) := by
  refine kept_foldl _ (fun s c => ?_) _ s
  split
  · exact kept_updChan s c _ (Channel_regsKept_polled c _)
  · exact .refl s

/-! ### Station commands (R151 to R156) -/

theorem Kept.done {s t : State} (k : s.Kept t) : s.Kept t.done.2 := by
  simp only [State.done]
  exact k.trans (kept_finishEvent t)

theorem kept_setHold (s : State) (n : StationNo) (b : Bool) :
    s.Kept (s.updStation n fun t => { t with holdPending := b }) :=
  kept_updStation s n _ (by constructor <;> rfl)

theorem kept_hold (s : State) (n : StationNo) : s.Kept (s.hold n).2 := by
  unfold hold
  cases (s.station n).state
  case idle | parked => exact (kept_enterHeld ..).done
  case waking => exact ((kept_abortCheck ..).trans (kept_enterHeld ..)).done
  case printing | presenting | ejecting | calibrating => exact kept_setHold ..
  case held | offline | fault | checking => exact .refl s

theorem kept_leaveRest (s : State) (n : StationNo) : s.Kept (s.leaveRest n).2 := by
  unfold leaveRest
  split
  · exact (kept_enter ..).done
  · exact (kept_wakeUp ..).done

theorem kept_resume (s : State) (n : StationNo) : s.Kept (s.resume n).2 := by
  unfold resume
  cases (s.station n).state
  case held => exact kept_leaveRest s n
  case fault =>
    dsimp only
    split
    · exact .refl s
    · split
      · exact .refl s
      · exact kept_leaveRest s n
  case printing | presenting | ejecting | calibrating => exact kept_setHold ..
  case parked | waking | idle | checking | offline => exact .refl s

theorem kept_flushQueues (s : State) (n : StationNo) : s.Kept (s.flushQueues n) :=
  (kept_updStation s n _
    ⟨rfl, rfl, rfl, rfl, rfl, rfl, rfl, rfl, rfl, rfl, rfl, Nat.zero_le _⟩).trans
    (kept_abandonAll ..)

theorem kept_flush (s : State) (n : StationNo) : s.Kept (s.flush n).2 := by
  have flushed := kept_flushQueues s n
  unfold flush
  cases (s.station n).state
  case offline | calibrating => exact .refl s
  case printing => exact (flushed.trans (kept_startEject ..)).done
  case presenting => exact (flushed.trans (kept_enterRest ..)).done
  case parked | waking | idle | ejecting | checking | held | fault =>
    exact flushed.done

theorem kept_wake (s : State) (n : StationNo) : s.Kept (s.wake n).2 := by
  unfold wake
  cases (s.station n).state
  case parked => exact (kept_wakeUp ..).done
  all_goals exact .refl s

theorem kept_park (s : State) (n : StationNo) : s.Kept (s.park n).2 := by
  unfold park
  split
  · exact (kept_enter ..).done
  · exact .refl s

/-! ### Commands of records (R14 to R26) -/

theorem kept_refuseRecord (s : State) (h : Nat) (r : Status × List CompletionField) :
    s.Kept (s.refuseRecord h r) := kept_outcome ..

theorem kept_takeDefine (s : State) (d : List Byte) : s.Kept (s.takeDefine d) := by
  unfold takeDefine
  split
  · exact kept_refuseRecord ..
  · split
    · exact kept_refuseRecord ..
    · next granted =>
      exact ((kept_allocate granted).trans (kept_setRecord ..)).trans (kept_setWork ..)

theorem kept_takeAmend (s : State) (d : List Byte) : s.Kept (s.takeAmend d) := by
  unfold takeAmend
  split
  · exact kept_refuseRecord ..
  · split
    · exact kept_refuseRecord ..
    · next granted =>
      exact ((kept_allocate granted).trans (kept_setRecord ..)).trans (kept_setWork ..)

theorem kept_takeRetire (s : State) (d : List Byte) : s.Kept (s.takeRetire d) := by
  unfold takeRetire
  dsimp only
  split
  · exact kept_refuseRecord ..
  · split
    · exact (kept_freeRecord ..).trans (kept_outcome ..)
    · exact (kept_setRecord ..).trans (kept_outcome ..)

theorem kept_takeQuery (s : State) (d : List Byte) : s.Kept (s.takeQuery d) := by
  unfold takeQuery
  dsimp only
  split
  · exact kept_refuseRecord ..
  · exact kept_outcome ..

/-! ### Commands of stations and the DCU (R159, R183) -/

theorem kept_startCalibration (s : State) (n : StationNo) : s.Kept (s.startCalibration n) :=
  (((kept_updStation s n _ (by constructor <;> rfl)).trans (kept_enter ..)).trans
    (kept_setWork ..)).trans (kept_beginCalibrating ..)

theorem kept_takeCalibrate (s : State) (n : StationNo) : s.Kept (s.takeCalibrate n) := by
  unfold takeCalibrate
  split
  · exact kept_outcome ..
  · exact kept_startCalibration s n

theorem kept_takeDotcheck (s : State) (n : StationNo) : s.Kept (s.takeDotcheck n) := by
  unfold takeDotcheck
  split
  · exact kept_outcome ..
  · exact (kept_setWork ..).trans (kept_beginCheck ..)

/-! ### Acceptance and descriptor fetches (R85, R87, R89, R92, R109 to R113) -/

theorem kept_joinLabel (s : State) (n : StationNo) (l : Label) : s.Kept (s.joinLabel n l) := by
  unfold joinLabel
  dsimp only
  split
  · exact (kept_join ..).trans (kept_wakeUp ..)
  · exact kept_join ..

theorem kept_refuseLabel (s : State) (n : StationNo) (st : Status) : s.Kept (s.refuseLabel n st) :=
  kept_setWork ..

theorem kept_acceptLabel (s : State) (n : StationNo) (d : List Byte) (i : Nat) :
    s.Kept (s.acceptLabel n d i) := by
  unfold acceptLabel
  split
  · exact kept_refuseLabel ..
  · split
    · exact kept_refuseLabel ..
    · next granted =>
      have pinned := fun hs => (kept_allocate granted).trans (kept_pinAll hs _)
      dsimp only
      split
      · exact (pinned _).trans (kept_joinLabel ..)
      · exact (pinned _).trans (kept_updStation _ n _ (by constructor <;> rfl))

theorem kept_foundHost (s : State) (c : Chan) : s.Kept (s.foundHost c) := by
  unfold foundHost
  dsimp only
  split
  · exact kept_updChan s c _ ⟨rfl, rfl, rfl, fun _ => rfl, fun _ => rfl, fun _ _ => nofun⟩
  · split
    · exact kept_updChan s c _ ⟨rfl, rfl, rfl, fun _ => rfl, fun _ => rfl, fun _ h => h⟩
    · exact kept_suspend s c

theorem canonical_takeDescriptor {s : State} (c : Chan) (d : List Byte) (h : s.canonical = true) :
    (s.takeDescriptor c d).canonical = true := by
  unfold takeDescriptor
  split
  · exact canonical_updChan _ _ h
  · dsimp only
    split
    · exact (kept_acceptLabel ..).canonical (canonical_updChan _ _ h)
    · exact canonical_updChan _ _ h

theorem canonical_fetchEnded {s : State} (c : Chan) (d : List Byte) (h : s.canonical = true) :
    (s.fetchEnded c d).canonical = true := by
  unfold fetchEnded
  split
  · exact (kept_stopChannel ..).canonical h
  · split
    · exact canonical_takeDescriptor c d h
    · exact (kept_foundHost s c).canonical h

/-! ### Body bursts and label data (R16 to R18, R21 to R23, R92, R111) -/

theorem kept_storeBurst (s : State) (h : Nat) (b : LoadingBody) (k : Nat) (bytes : List Byte) :
    s.Kept (s.storeBurst h b k bytes) := (kept_writeContents ..).trans (kept_setRecord ..)

theorem kept_completeAmend (s : State) (h : Nat) (b : LoadingBody) (refs : List Nat) :
    s.Kept (s.completeAmend h b refs) := by
  unfold completeAmend
  dsimp only
  split
  · exact ((kept_setRecord ..).trans (kept_raiseReferrers ..)).trans (kept_outcome ..)
  · exact (((kept_setRecord ..).trans (kept_freeBody? ..)).trans (kept_raiseReferrers ..)).trans
      (kept_outcome ..)

theorem kept_completeLoad (s : State) (h : Nat) (k : Kind) (b : LoadingBody) :
    s.Kept (s.completeLoad h k b) := by
  unfold completeLoad
  dsimp only
  split
  · exact (kept_dropLoading ..).trans (kept_outcome ..)
  · split
    · exact ((kept_setRecord ..).trans (kept_raiseReferrers ..)).trans (kept_outcome ..)
    · split
      · exact ((kept_setRecord ..).trans (kept_freeBody? ..)).trans (kept_outcome ..)
      · exact kept_completeAmend ..

theorem kept_burstEnded (s : State) (h : Nat) (b : LoadingBody) (k : Nat) (bytes : List Byte) :
    s.Kept (s.burstEnded h b k bytes) := by
  have stored := kept_storeBurst s h b k bytes
  unfold burstEnded
  dsimp only
  split
  · split
    · exact stored.trans (kept_completeLoad ..)
    · exact stored
  · exact stored.trans (kept_setWork ..)

theorem kept_dataEnded (s : State) (n : StationNo) (l : Label) : s.Kept (s.dataEnded n l) := by
  unfold dataEnded
  split
  · exact kept_joinLabel ..
  · exact (kept_discardFetching s n).trans (kept_refuseLabel ..)

theorem kept_dataTransferEnded (s : State) (n : StationNo) (l : Label) (k : Nat)
    (bytes : List Byte) : s.Kept (s.dataTransferEnded n l k bytes) := by
  unfold dataTransferEnded
  dsimp only
  split
  · exact (kept_writeContents ..).trans (kept_dataEnded ..)
  · exact (kept_writeContents ..).trans (kept_setWork ..)

/-! ### Completion writes and bus errors (R88, R93, R94, R99, R100) -/

theorem kept_delivered (s : State) (c : Chan) (i : Nat) (bytes : List Byte) :
    s.Kept (((s.deliver c i bytes).endTransfer c).raise (doneCause c)) :=
  ((kept_deliver ..).trans (kept_endTransfer ..)).trans (kept_raise ..)

theorem kept_handWritten (s : State) (c : Chan) (i : Nat) (bytes : List Byte) :
    s.Kept (s.handWritten c i bytes) :=
  ((kept_delivered ..).trans (kept_dropHand ..)).trans (kept_retestFull ..)

theorem canonical_dropPending {s : State} (c : Chan) (i : Nat) (h : s.canonical = true) :
    (s.dropPending c i).canonical = true := canonical_updChan c _ h

theorem canonical_pendingWritten {s : State} (c : Chan) (p : Completion) (h : s.canonical = true) :
    (s.pendingWritten c p).canonical = true :=
  (kept_retestFull ..).canonical (canonical_dropPending c _ ((kept_delivered ..).canonical h))

theorem kept_beginStop (s : State) (c : Chan) : s.Kept (s.beginStop c) :=
  kept_updChan s c _ ⟨rfl, rfl, rfl, fun _ => rfl, fun _ => rfl, fun _ h => h⟩

theorem kept_stopAfterHand (s : State) (c : Chan) : s.Kept (s.stopAfterHand c) := by
  unfold stopAfterHand
  split
  · exact kept_beginStop s c
  · exact kept_stopFailed s c

theorem kept_failWork (s : State) (c : Chan) {undo : State → List Byte → State}
    (k : ∀ d, s.Kept (undo s d)) : s.Kept (s.failWork c undo) := by
  unfold failWork
  split
  · exact ((k _).trans (kept_setWork ..)).trans (kept_beginStop ..)
  · exact kept_stopFailed s c

theorem kept_discardAt (s : State) (c : Chan) : s.Kept (s.discardAt c) := by
  cases c with
  | control => exact .refl s
  | station n => exact kept_discardFetching s n

theorem canonical_transferFailed {s : State} (c : Chan) (x : Xfer) (h : s.canonical = true) :
    (s.transferFailed c x).canonical = true := by
  cases x with
  | fetch => exact (kept_stopFailed s c).canonical h
  | burst => exact (kept_failWork s c fun _ => kept_dropLoading ..).canonical h
  | profile => exact (kept_failWork s c fun _ => .refl s).canonical h
  | data => exact (kept_failWork s c fun _ => kept_discardAt s c).canonical h
  | handCompletion => exact (kept_stopFailed _ c).canonical (canonical_updChan c _ h)
  | pendingCompletion =>
    unfold transferFailed
    dsimp only
    split
    · exact (kept_stopAfterHand _ c).canonical (canonical_dropPending c _ h)
    · exact (kept_stopFailed s c).canonical h

theorem kept_raiseRingError (s : State) (again : Bool) : s.Kept (s.raiseRingError again) := by
  unfold raiseRingError
  split
  · exact .refl s
  · exact kept_raise ..

/-! ### Triggers (R134, R135) -/

theorem canonical_joinTrigger {s : State} (n : StationNo) (h : s.canonical = true) :
    (s.joinTrigger n).canonical = true := by
  unfold joinTrigger
  dsimp only
  split
  · exact (kept_overrun s n).canonical h
  · exact canonical_updStation n _ h

theorem canonical_arrive {s : State} (n : StationNo) (h : s.canonical = true) :
    (s.arrive n).canonical = true := by
  unfold arrive
  cases (s.station n).state
  case idle | printing | presenting | ejecting | checking | calibrating | waking =>
    exact canonical_joinTrigger n h
  case parked =>
    dsimp only
    split
    · exact (kept_overrun s n).canonical h
    · exact (kept_wakeUp ..).canonical (canonical_joinTrigger n h)
  case held | fault => exact (kept_skipOne s n).canonical h
  case offline => exact h

theorem canonical_triggerChanged {s : State} (n : StationNo) (high : Bool)
    (h : s.canonical = true) : (s.triggerChanged n high).canonical = true := by
  have level := canonical_updStation n (fun t => { t with triggerHigh := high }) h
  unfold triggerChanged
  dsimp only
  split
  · exact level
  · split
    · split
      · split
        · exact (kept_finishEvent _).canonical (canonical_arrive n level)
        · exact canonical_updStation n _ level
      · exact level
    · exact canonical_updStation n _ level

/-! ### Lines and edges (R144, R145, R155, R160, R164) -/

theorem kept_endPhases (s : State) (n : StationNo) : s.Kept (s.endPhases n) :=
  kept_updStation s n _ (by constructor <;> rfl)

theorem kept_nextPrinting (s : State) (n : StationNo) (k : LineKind) :
    s.Kept (s.nextPrinting n k) := by
  cases k with
  | leading =>
    unfold nextPrinting
    dsimp only
    split
    · exact kept_beginPrinting ..
    · exact kept_beginPrinting ..
  | printed => exact (kept_endPhases s n).trans (kept_afterPrinted ..)
  | peel j => exact kept_afterPeel s n j
  | eject => exact .refl s
  | calibrate => exact .refl s

theorem kept_nextLine (s : State) (n : StationNo) (k : LineKind) : s.Kept (s.nextLine n k) := by
  cases k with
  | eject => exact kept_beginEjecting s n
  | calibrate lines edges => exact kept_beginCalibrating s n lines edges
  | leading => exact kept_nextPrinting s n .leading
  | printed => exact kept_nextPrinting s n .printed
  | peel j => exact kept_nextPrinting s n (.peel j)

theorem kept_align (s : State) (n : StationNo) : s.Kept (s.align n) :=
  kept_updStation s n _ (by constructor <;> rfl)

theorem kept_goodEdge (s : State) (n : StationNo) (k : LineKind) : s.Kept (s.goodEdge n k) := by
  have taken : s.Kept (s.takeEdge n) := kept_updStation s n _ (by constructor <;> rfl)
  cases k with
  | leading => exact taken.trans (kept_align ..)
  | eject => exact (taken.trans (kept_align ..)).trans (kept_enterReturn ..)
  | printed => exact taken
  | peel => exact taken
  | calibrate => exact taken

theorem canonical_calibrationMeasured {s : State} (n : StationNo) (pitch : Nat)
    (h : s.canonical = true) : (s.calibrationMeasured n pitch).canonical = true := by
  unfold calibrationMeasured
  split
  · exact ((kept_setStock ..).trans (kept_enterReturn ..)).canonical
      (canonical_updStation n _ ((kept_report ..).canonical h))
  · exact (kept_calibrationFails s n).canonical h

/-- An edge outside calibration: good, or a media fault (R145, R146). -/
theorem kept_edge (s : State) (n : StationNo) (k : LineKind) :
    s.Kept (if (s.station n).edgeGood then s.goodEdge n k else s.mediaFault n) := by
  split
  · exact kept_goodEdge s n k
  · exact kept_mediaFault s n

theorem canonical_judgeEdge {s : State} (n : StationNo) (f : Feed) (h : s.canonical = true) :
    (s.judgeEdge n f).canonical = true := by
  unfold judgeEdge
  cases f.kind with
  | calibrate lines edges =>
    dsimp only [calibrationEdge]
    split
    · exact canonical_updStation n _ h
    · exact canonical_calibrationMeasured n _ h
  | leading => exact (kept_edge s n .leading).canonical h
  | printed => exact (kept_edge s n .printed).canonical h
  | peel j => exact (kept_edge s n (.peel j)).canonical h
  | eject => exact (kept_edge s n .eject).canonical h

/-! ### The card, profiles, wakes and the DCU (R28, R132, R158, R188) -/

theorem canonical_engineReset {s : State} (h : s.canonical = true) :
    s.engineReset.canonical = true := by
  have records : s.resetRecords.canonical = true := by
    rw [resetRecords_eq]
    exact (kept_raiseReferrers ..).canonical (canonical_withResetTable h)
  exact canonical_of_same records rfl rfl rfl

theorem canonical_leaveOffline {s : State} (n : StationNo) (h : s.canonical = true) :
    (s.leaveOffline n).canonical = true := by
  unfold leaveOffline
  split
  · exact canonical_updStation n _
      (((kept_setStock ..).trans (kept_enterFault ..)).canonical h)
  · exact ((kept_setStock ..).trans (kept_enter ..)).canonical h

theorem canonical_giveProfile {s : State} (n : StationNo) (rd : Reader) (h : s.canonical = true) :
    (s.giveProfile n rd).canonical = true := by
  have taken := canonical_updStation n (fun t => t.newProfile (profileOf rd)) h
  unfold giveProfile takeProfile
  dsimp only
  split
  · exact (kept_outcome ..).canonical h
  · split
    · exact (kept_outcome ..).canonical (canonical_leaveOffline n taken)
    · exact (kept_outcome ..).canonical taken

theorem canonical_takeLimits {s : State} (n : StationNo) (d : List Byte) (h : s.canonical = true) :
    (s.takeLimits n d).canonical = true := by
  unfold takeLimits
  split
  · exact (kept_outcome ..).canonical h
  · exact ((kept_outcome ..).trans (kept_releasePaused ..)).canonical (canonical_updStation n _ h)

theorem kept_endWake (s : State) (n : StationNo) : s.Kept (s.endWake n) := by
  unfold endWake
  split
  · exact (kept_enterChecking s n .idle).trans (kept_rest _ ..)
  · exact kept_enter ..

theorem canonical_completeCheck {s : State} (c : Check) (h : s.canonical = true) :
    (s.completeCheck c).canonical = true := by
  have recorded := (kept_raise _ (.dotcheckDone c.station)).canonical
    (canonical_updStation c.station
      (fun t => { t with map := c.map, summary := ⟨c.count, c.dots⟩ }) h)
  have ended : ∀ {x : State}, x.canonical = true →
      State.canonical { x.enterReturn c.station with check := none } = true :=
    fun hx => ((kept_enterReturn ..).trans (kept_rest _ ..)).canonical hx
  unfold completeCheck
  dsimp only
  split
  · exact ended ((kept_report ..).canonical recorded)
  · exact ended recorded

theorem canonical_takeSample {s : State} (n : StationNo) (w : Turn) (temp : Nat)
    (h : s.canonical = true) : (s.takeSample n w temp).canonical = true := by
  have reported : ∀ (x : State) (l : Limit), x.Kept (x.reportSample n l) := fun x l => by
    unfold reportSample
    split
    · exact kept_raise ..
    · exact .refl x
  exact (((reported _ _).trans (kept_releasePaused ..)).trans (kept_finishEvent _)).canonical
    (canonical_updStation n _ h)

end Sys2Proof.Machine.State
end

section
/-! Every command answers a state in canonical form, where it goes on from one (R1, R29). -/

namespace Sys2Proof.Machine

/-! ### Answers in canonical form -/

/-- The state an answer goes on with is in canonical form. -/
def Answer.Canonical (a : Answer) : Prop := ∀ t, a = .next t → t.canonical = true

namespace Answer.Canonical

theorem next {t : State} (h : t.canonical = true) : Answer.Canonical (.next t) := by
  rintro _ ⟨⟩
  exact h

theorem fault (r : Fault) : Answer.Canonical (.fault r) := by rintro _ ⟨⟩

theorem refused (r : Refusal) : Answer.Canonical (.refused r) := by rintro _ ⟨⟩

/-- The answer of a command whose event the stations end. -/
theorem event {t : State} (h : t.canonical = true) : Answer.Canonical (.next t.finishEvent) :=
  next ((State.kept_finishEvent t).canonical h)

/-- The answer of a command whose event the channels end. -/
theorem busEvent {t : State} (h : t.canonical = true) : Answer.Canonical (.next t.settleBus) :=
  next ((State.kept_settleBus t).canonical h)

end Answer.Canonical

section

open State

variable {s : State} (h : s.canonical = true)

include h

/-! ### The card (R194, R205 to R207) -/

theorem canonical_execHardwareReset : (execHardwareReset s).Canonical := by
  obtain ⟨memory, elements, -⟩ := canonical_iff.mp h
  exact .next (canonical_iff.mpr ⟨memory, elements, rfl⟩)

theorem canonical_execConfigRomLoadEnd (rom : Option (List Byte)) :
    (execConfigRomLoadEnd rom s).Canonical := by
  have loaded : ∀ cfg b, (s.loaded cfg b).canonical = true :=
    fun _ _ => canonical_of_same h rfl rfl rfl
  unfold execConfigRomLoadEnd
  split
  · exact .refused _
  · split
    · exact .next h
    · split
      · exact .next (loaded _ _)
      · exact .next ((kept_raise ..).canonical (loaded _ _))

theorem canonical_execEngineReset (w : Word) : (execEngineReset w s).Canonical := by
  unfold execEngineReset
  split
  · exact .next (canonical_engineReset h)
  · exact .next h

/-! ### The register window (R83, R86, R87, R95 to R98, R102, R193 to R204) -/

theorem canonical_execRingStart (c : Chan) (w : Word) : (execRingStart c w s).Canonical := by
  unfold execRingStart
  split
  · exact .next ((kept_startRing s c).canonical h)
  · exact .next h

theorem canonical_execRingStop (c : Chan) (w : Word) : (execRingStop c w s).Canonical := by
  unfold execRingStop
  split
  · exact .next ((kept_stopRing s c).canonical h)
  · exact .next h

theorem canonical_execSetAutoPollInterval (w : Word) :
    (execSetAutoPollInterval w s).Canonical := by
  have interval : State.canonical { s with autoPoll := ctlAutoPoll w } = true :=
    canonical_of_same h rfl rfl rfl
  unfold execSetAutoPollInterval
  split
  · exact .next ((kept_foldl _ (fun s c => kept_updChan s c _
      ⟨rfl, rfl, rfl, fun _ => rfl, fun _ => rfl, fun _ h => h⟩) _ _).canonical interval)
  · exact .next h

theorem canonical_execSetArbiterMode (w : Word) : (execSetArbiterMode w s).Canonical := by
  unfold execSetArbiterMode
  split
  · exact .next (canonical_of_same h rfl rfl rfl)
  · exact .next h

theorem canonical_execPollDemand (w : Word) : (execPollDemand w s).Canonical :=
  .busEvent ((kept_pollNamed s w).canonical h)

theorem canonical_execRingBaseWrite (c : Chan) (v : Word) :
    (execRingBaseWrite c v s).Canonical := by
  unfold execRingBaseWrite
  split
  · exact .next (canonical_updChan c _ h)
  · exact .next h

theorem canonical_execRingSizeWrite (c : Chan) (v : Word) :
    (execRingSizeWrite c v s).Canonical := by
  unfold execRingSizeWrite
  split
  · exact .next (canonical_updChan c _ h)
  · exact .next h

theorem canonical_execRingFetchIndexWrite (c : Chan) (v : Word) :
    (execRingFetchIndexWrite c v s).Canonical := by
  unfold execRingFetchIndexWrite
  split
  · exact .next (canonical_updChan c _ h)
  · exact .next h

theorem canonical_execEventStatusClear (v : Word) : (execEventStatusClear v s).Canonical :=
  .next (canonical_of_same h rfl rfl rfl)

theorem canonical_execEventEnableWrite (v : Word) : (execEventEnableWrite v s).Canonical :=
  .next (canonical_of_same h rfl rfl rfl)

theorem canonical_execInspectionAddressWrite (v : Word) :
    (execInspectionAddressWrite v s).Canonical := .next (canonical_of_same h rfl rfl rfl)

theorem canonical_execInspectionDataRead (lanes : BitVec 4) :
    (execInspectionDataRead lanes s).Canonical := by
  unfold execInspectionDataRead
  split
  · exact .refused _
  · exact .next (canonical_of_same h rfl rfl rfl)

theorem canonical_execStatusARead (n : StationNo) (lanes : BitVec 4) :
    (execStatusARead n lanes s).Canonical := by
  unfold execStatusARead
  split
  · exact .refused _
  · exact .next (canonical_of_same h rfl rfl rfl)

theorem canonical_execRegisterWriteIgnored (offset : BitVec 8) (lanes : BitVec 4) (v : Word) :
    (execRegisterWriteIgnored offset lanes v s).Canonical := by
  unfold execRegisterWriteIgnored
  split
  · exact .refused _
  · exact .next h

/-! ### Station commands (R151 to R156) -/

/-- A station command whose own rule is a shared operation's work (R151). -/
theorem canonical_stationCommand (n : StationNo) (code : BitVec 4) {act : State → CommandOutcome}
    (k : s.Kept (act s).2) : Answer.Canonical (.next (s.stationCommand n code act)) := by
  refine .next ?_
  unfold stationCommand
  dsimp only
  refine canonical_updStation n _ ?_
  split
  · exact h
  · split
    · exact h
    · exact k.canonical h

theorem canonical_execStationCommandBadCode (n : StationNo) (v : Word) :
    (execStationCommandBadCode n v s).Canonical := by
  unfold execStationCommandBadCode
  split
  · exact .refused _
  · exact canonical_stationCommand h n _ (.refl s)

/-! ### Commands of RCH-C (R14 to R26, R132, R159, R174, R183) -/

theorem canonical_execDefine : (execDefine s).Canonical := by
  unfold execDefine
  split
  · exact .next h
  · exact .busEvent ((kept_takeDefine ..).canonical h)

theorem canonical_execAmend : (execAmend s).Canonical := by
  unfold execAmend
  split
  · exact .next h
  · exact .busEvent ((kept_takeAmend ..).canonical h)

theorem canonical_execRetire : (execRetire s).Canonical := by
  unfold execRetire
  split
  · exact .next h
  · exact .busEvent ((kept_takeRetire ..).canonical h)

theorem canonical_execQuery : (execQuery s).Canonical := by
  unfold execQuery
  split
  · exact .next h
  · exact .busEvent ((kept_takeQuery ..).canonical h)

theorem canonical_execSetProfile (bytes : List Byte) : (execSetProfile bytes s).Canonical := by
  unfold execSetProfile
  split
  · exact .refused _
  · split
    · exact .next h
    · split
      · exact .next h
      · exact .event (canonical_giveProfile _ _ ((kept_endTransfer ..).canonical h))

theorem canonical_execSetLimits : (execSetLimits s).Canonical := by
  unfold execSetLimits
  split
  · exact .next h
  · split
    · exact .next h
    · exact .event (canonical_takeLimits _ _ h)

theorem canonical_execCalibrate : (execCalibrate s).Canonical := by
  unfold execCalibrate
  split
  · exact .next h
  · split
    · exact .next h
    · exact .event ((kept_takeCalibrate ..).canonical h)

theorem canonical_execDotcheck : (execDotcheck s).Canonical := by
  unfold execDotcheck
  split
  · exact .next h
  · split
    · exact .next h
    · exact .event ((kept_takeDotcheck ..).canonical h)

/-! ### The ends of transfers (R85 to R88, R92 to R94, R99, R100, R111) -/

theorem canonical_execDescriptorFetchEnd (c : Chan) (bytes : List Byte) :
    (execDescriptorFetchEnd c bytes s).Canonical := by
  unfold execDescriptorFetchEnd
  split
  · exact .refused _
  · split
    · exact .event (canonical_fetchEnded c bytes ((kept_endTransfer s c).canonical h))
    · exact .next h

theorem canonical_execBodyBurstEnd (bytes : List Byte) : (execBodyBurstEnd bytes s).Canonical := by
  have ended := (kept_endTransfer s .control).canonical h
  unfold execBodyBurstEnd
  split
  · exact .refused _
  split
  · exact .next h
  split
  · exact .next h
  split
  · exact .next h
  split
  · exact .refused _
  split
  · exact .event ((kept_abortLoad ..).canonical ended)
  split
  · exact .fault _
  · exact .event ((kept_burstEnded ..).canonical ended)

theorem canonical_execLabelDataTransferEnd (n : StationNo) (bytes : List Byte) :
    (execLabelDataTransferEnd n bytes s).Canonical := by
  unfold execLabelDataTransferEnd
  split
  · exact .refused _
  split
  · exact .next h
  split
  · split
    · exact .refused _
    split
    · exact .fault _
    · exact .event (((kept_endTransfer ..).trans (kept_dataTransferEnded ..)).canonical h)
  · exact .next h
  · exact .next h

theorem canonical_execCompletionWriteEnd (c : Chan) : (execCompletionWriteEnd c s).Canonical := by
  unfold execCompletionWriteEnd
  split
  · split
    · exact .event ((kept_handWritten ..).canonical h)
    · exact .next h
  · split
    · split
      · exact .event (canonical_pendingWritten c _ h)
      · exact .next h
    · exact .next h

theorem canonical_execTransferBusError (c : Chan) : (execTransferBusError c s).Canonical := by
  unfold execTransferBusError
  split
  · split
    · exact .event ((kept_raiseRingError ..).canonical
        (canonical_transferFailed c _ ((kept_endTransfer s c).canonical h)))
    · exact .next h
  · exact .next h

theorem canonical_execAutoPollExpiry (c : Chan) : (execAutoPollExpiry c s).Canonical := by
  unfold execAutoPollExpiry
  split
  · split
    · exact .busEvent (canonical_updChan c _ (canonical_reachTime _ h))
    · exact .next h
  · exact .next h
  · exact .next h

/-! ### Composition and finish (R117 to R126) -/

theorem canonical_execComposerFieldStep : (execComposerFieldStep s).Canonical := by
  unfold execComposerFieldStep
  split
  · exact .next h
  split
  · exact .next h
  split
  · exact .event ((kept_endMarked ..).canonical h)
  split
  · exact .event ((kept_rejectField ..).canonical h)
  split
  · exact .fault _
  · exact .event ((kept_placeField ..).canonical h)

theorem canonical_execComposerComplete : (execComposerComplete s).Canonical := by
  unfold execComposerComplete
  split
  · exact .next h
  split
  · exact .next h
  split
  · exact .event ((kept_endMarked ..).canonical h)
  split
  · exact .fault _
  · exact .event ((kept_completeLabel ..).canonical h)

theorem canonical_execMarkedHeadFinish (n : StationNo) : (execMarkedHeadFinish n s).Canonical := by
  unfold execMarkedHeadFinish
  split
  · exact .event ((kept_finishHead ..).canonical h)
  · exact .next h

/-! ### Triggers and their expiries (R134 to R138) -/

theorem canonical_execTriggerLevelChange (n : StationNo) (high : Bool) :
    (execTriggerLevelChange n high s).Canonical := by
  unfold execTriggerLevelChange
  split
  · exact .next h
  · exact .next (canonical_triggerChanged n high h)

theorem canonical_execTriggerArrival (n : StationNo) : (execTriggerArrival n s).Canonical := by
  unfold execTriggerArrival
  split
  · exact .event (canonical_arrive n (canonical_updStation n _ (canonical_reachTime _ h)))
  · exact .next h
  · exact .next h

theorem canonical_execLastStartExpiry (n : StationNo) (k : Nat) :
    (execLastStartExpiry n k s).Canonical := by
  unfold execLastStartExpiry
  split
  · exact .refused _
  split
  · exact .event ((kept_expireEntry ..).canonical (canonical_reachTime _ h))
  · exact .next h
  · exact .next h

theorem canonical_execDeadlineExpiry (n : StationNo) (k : Nat) :
    (execDeadlineExpiry n k s).Canonical := by
  unfold execDeadlineExpiry
  split
  · exact .refused _
  split
  · exact .event (((kept_dropTrigger ..).trans (kept_raise ..)).canonical (canonical_reachTime _ h))
  · exact .next h
  · exact .next h

/-! ### Lines, strobes and edges (R144, R145, R155, R160, R164, R169) -/

theorem canonical_execLinePeriodExpiry (n : StationNo) : (execLinePeriodExpiry n s).Canonical := by
  unfold execLinePeriodExpiry
  split
  · split
    · exact .next h
    · exact .event ((kept_nextLine ..).canonical h)
  · exact .next h

theorem canonical_execStrobeSubphaseEnd (n : StationNo) :
    (execStrobeSubphaseEnd n s).Canonical := .next (canonical_updStation n _ h)

theorem canonical_execGapEdge (n : StationNo) : (execGapEdge n s).Canonical := by
  unfold execGapEdge
  split
  · split
    · exact .next h
    · exact .event (canonical_judgeEdge n _ h)
  · exact .next h

/-! ### Stock, applicator, head and timers (R146, R148 to R150, R157, R158) -/

theorem canonical_execMediaPresentFall (n : StationNo) (active : Bool) :
    (execMediaPresentFall n active s).Canonical := by
  have input := fun f => canonical_updStation n f h
  unfold execMediaPresentFall mediaFell
  dsimp only
  split
  · exact .next (input _)
  split
  · split
    · exact .event ((kept_mediaFault ..).canonical (input _))
    · exact .next (input _)
  · exact .next h

theorem canonical_execApplied (n : StationNo) : (execApplied n s).Canonical := by
  unfold execApplied
  split
  · exact .event (((kept_finishHead ..).trans (kept_enterRest ..)).canonical h)
  · exact .next h

theorem canonical_execApplyTimeout (n : StationNo) : (execApplyTimeout n s).Canonical := by
  unfold execApplyTimeout
  split
  · split
    · exact .event (((kept_finishHead ..).trans (kept_enterFault ..)).canonical
        (canonical_reachTime _ h))
    · exact .next h
  · exact .next h
  · exact .next h

theorem canonical_execHeadOpenActive (n : StationNo) : (execHeadOpenActive n s).Canonical := by
  have input := fun f => canonical_updStation n f h
  unfold execHeadOpenActive headLifted
  dsimp only
  split
  · exact .next h
  split
  · exact .next (input _)
  · exact .event ((kept_headOpened ..).canonical (input _))

theorem canonical_execHeadOpenInactive (n : StationNo) : (execHeadOpenInactive n s).Canonical := by
  have input := fun f => canonical_updStation n f h
  unfold execHeadOpenInactive headClosed
  dsimp only
  split
  · split
    · exact .event (canonical_of_same h rfl rfl rfl)
    · exact .next (input _)
  · exact .next h

theorem canonical_execParkTimerExpiry (n : StationNo) : (execParkTimerExpiry n s).Canonical := by
  unfold execParkTimerExpiry
  split
  · split
    · exact .event ((kept_enter ..).canonical (canonical_reachTime _ h))
    · exact .next h
  · exact .next h
  · exact .next h

theorem canonical_execWakeSettleExpiry (n : StationNo) : (execWakeSettleExpiry n s).Canonical := by
  unfold execWakeSettleExpiry
  split
  · split
    · exact .event ((kept_endWake ..).canonical (canonical_reachTime _ h))
    · exact .next h
  · exact .next h

/-! ### Dot check and thermal sample (R175, R176, R184, R187, R188) -/

theorem canonical_execDcuSettleExpiry : (execDcuSettleExpiry s).Canonical := by
  unfold execDcuSettleExpiry
  split
  · exact .next h
  split
  · exact .next h
  split
  · exact .next (canonical_of_same (canonical_reachTime _ h) rfl rfl rfl)
  · exact .next h

theorem canonical_execElementMeasurementEnd (reading : Byte) :
    (execElementMeasurementEnd reading s).Canonical := by
  unfold execElementMeasurementEnd measured
  split
  · exact .next h
  split
  · split
    · exact .event (canonical_completeCheck _ h)
    · exact .next (canonical_of_same h rfl rfl rfl)
  · exact .next h

theorem canonical_execThermalSample (n : StationNo) (degrees : Int) :
    (execThermalSample n degrees s).Canonical := by
  unfold execThermalSample
  dsimp only
  split
  · split
    · exact .next (canonical_takeSample n _ _ (canonical_reachTime _ h))
    · exact .next (canonical_updStation n _ (canonical_reachTime _ h))
  · exact .next h
  · exact .next h

/-! ### Every command -/

theorem canonical_exec (c : Instr) : Answer.Canonical (exec c s) := by
  cases c with
  | hardwareReset => exact canonical_execHardwareReset h
  | configRomLoadEnd rom => exact canonical_execConfigRomLoadEnd h rom
  | engineReset w => exact canonical_execEngineReset h w
  | ringStart c w => exact canonical_execRingStart h c w
  | ringStop c w => exact canonical_execRingStop h c w
  | setAutoPollInterval w => exact canonical_execSetAutoPollInterval h w
  | setArbiterMode w => exact canonical_execSetArbiterMode h w
  | pollDemand w => exact canonical_execPollDemand h w
  | ringBaseWrite c v => exact canonical_execRingBaseWrite h c v
  | ringSizeWrite c v => exact canonical_execRingSizeWrite h c v
  | ringFetchIndexWrite c v => exact canonical_execRingFetchIndexWrite h c v
  | eventStatusClear v => exact canonical_execEventStatusClear h v
  | eventEnableWrite v => exact canonical_execEventEnableWrite h v
  | inspectionAddressWrite v => exact canonical_execInspectionAddressWrite h v
  | inspectionDataRead lanes => exact canonical_execInspectionDataRead h lanes
  | statusARead n lanes => exact canonical_execStatusARead h n lanes
  | registerWriteIgnored o lanes v => exact canonical_execRegisterWriteIgnored h o lanes v
  | hold n => exact canonical_stationCommand h n 1 (kept_hold s n)
  | resume n => exact canonical_stationCommand h n 2 (kept_resume s n)
  | flush n => exact canonical_stationCommand h n 3 (kept_flush s n)
  | wake n => exact canonical_stationCommand h n 4 (kept_wake s n)
  | park n => exact canonical_stationCommand h n 5 (kept_park s n)
  | stationCommandBadCode n v => exact canonical_execStationCommandBadCode h n v
  | descriptorFetchEnd c bytes => exact canonical_execDescriptorFetchEnd h c bytes
  | define => exact canonical_execDefine h
  | amend => exact canonical_execAmend h
  | retire => exact canonical_execRetire h
  | query => exact canonical_execQuery h
  | setProfile bytes => exact canonical_execSetProfile h bytes
  | setLimits => exact canonical_execSetLimits h
  | calibrate => exact canonical_execCalibrate h
  | dotcheck => exact canonical_execDotcheck h
  | bodyBurstEnd bytes => exact canonical_execBodyBurstEnd h bytes
  | labelDataTransferEnd n bytes => exact canonical_execLabelDataTransferEnd h n bytes
  | completionWriteEnd c => exact canonical_execCompletionWriteEnd h c
  | transferBusError c => exact canonical_execTransferBusError h c
  | autoPollExpiry c => exact canonical_execAutoPollExpiry h c
  | composerFieldStep => exact canonical_execComposerFieldStep h
  | composerComplete => exact canonical_execComposerComplete h
  | markedHeadFinish n => exact canonical_execMarkedHeadFinish h n
  | triggerLevelChange n high => exact canonical_execTriggerLevelChange h n high
  | triggerArrival n => exact canonical_execTriggerArrival h n
  | lastStartExpiry n k => exact canonical_execLastStartExpiry h n k
  | deadlineExpiry n k => exact canonical_execDeadlineExpiry h n k
  | linePeriodExpiry n => exact canonical_execLinePeriodExpiry h n
  | strobeSubphaseEnd n => exact canonical_execStrobeSubphaseEnd h n
  | gapEdge n => exact canonical_execGapEdge h n
  | mediaPresentFall n active => exact canonical_execMediaPresentFall h n active
  | applied n => exact canonical_execApplied h n
  | applyTimeout n => exact canonical_execApplyTimeout h n
  | headOpenActive n => exact canonical_execHeadOpenActive h n
  | headOpenInactive n => exact canonical_execHeadOpenInactive h n
  | parkTimerExpiry n => exact canonical_execParkTimerExpiry h n
  | wakeSettleExpiry n => exact canonical_execWakeSettleExpiry h n
  | dcuSettleExpiry => exact canonical_execDcuSettleExpiry h
  | elementMeasurementEnd reading => exact canonical_execElementMeasurementEnd h reading
  | thermalSample n degrees => exact canonical_execThermalSample h n degrees

end

/-- Settles O3: the clock's tick leaves memory and table alone, and each command keeps their form. -/
theorem canonicalKept : Obligations.CanonicalKept := by
  intro s t h hstep
  unfold step at hstep
  split at hstep
  · cases hstep
    exact State.canonical_of_same h rfl rfl rfl
  · next c rest _ =>
    have popped : State.canonical { s with pending := rest } = true :=
      State.canonical_of_same h rfl rfl rfl
    exact canonical_exec popped c t hstep

end Sys2Proof.Machine
end

section
/-! The Block Pool (R32, R35). -/

namespace Sys2Proof.Machine

theorem State.allocate_of_le {s : State} {count : Nat} (h : count ≤ s.free.length) :
    s.allocate count = some (s.free.take count, { s with free := s.free.drop count }) := if_pos h

theorem State.allocate_of_lt {s : State} {count : Nat} (h : s.free.length < count) :
    s.allocate count = none := if_neg (by omega)

/-- Settles O59: the two branches of an allocation, and a freeing. -/
theorem poolAllocatesWhole : Obligations.PoolAllocatesWhole := by
  refine ⟨fun s count h => ⟨_, _, State.allocate_of_le h, ?_, ?_, rfl⟩,
    fun s count h => State.allocate_of_lt h, fun s blocks => rfl⟩
  · simpa using h
  · exact List.take_append_drop count s.free

end Sys2Proof.Machine
end

section
/-! The layout of TEXT and RULE fields, and the string of a field (R30, R46, R47, R50, R62 to R65, R117, R118,
R122). -/

namespace Sys2Proof.Machine

/-! ### Contents and pinned bodies (R30, R105) -/

theorem State.content_of_block {s : State} {blocks : List Nat} {i b : Nat}
    (h : blocks[i / 256]? = some b) :
    s.content blocks i = (s.readByte (256 * b + i % 256)).toNat := by
  simp [content, contentAddress?, Config.blockBytes, blockAddress, h, Nat.mul_comm]

theorem State.content_of_no_block {s : State} {blocks : List Nat} {i : Nat}
    (h : blocks[i / 256]? = none) : s.content blocks i = 0 := by
  simp [content, contentAddress?, Config.blockBytes, h]

theorem State.versionContent_of_current {s : State} {h : Nat} {c : Body}
    (current : (s.record h).current = some c) :
    s.versionContent h c.version = s.content c.blocks := by
  simp only [versionContent, versionBody?, current, if_true]

theorem State.versionContent_of_prior {s : State} {h : Nat} {c b : Body}
    (current : (s.record h).current = some c) (prior : (s.record h).prior = some b)
    (newer : c.version ≠ b.version) : s.versionContent h b.version = s.content b.blocks := by
  have found : s.versionBody? h b.version = some b := by
    simp only [versionBody?, current, prior, if_neg newer, Option.filter_some, beq_self_eq_true,
      if_true]
  simp only [versionContent, found]

/-- The place that a search for a handle finds is the first at which it stands. -/
theorem findIdx_handle_eq_iff {l : List (Nat × Nat)} {h k v : Nat} (hk : l[k]? = some (h, v)) :
    (l.findIdx fun p => p.1 == h) = k ↔ ∀ j w, j < k → l[j]? ≠ some (h, w) := by
  obtain ⟨hlt, hget⟩ := List.getElem?_eq_some_iff.mp hk
  rw [List.findIdx_eq hlt, hget]
  constructor
  · rintro ⟨-, earlier⟩ j w hj here
    obtain ⟨_, e⟩ := List.getElem?_eq_some_iff.mp here
    simpa [e] using earlier j hj
  · refine fun first => ⟨beq_self_eq_true h, fun j hj => beq_false_of_ne fun e => ?_⟩
    exact first j _ hj (List.getElem?_eq_some_iff.mpr ⟨by omega, Prod.ext e rfl⟩)

/-- A handle's place among the pinned bodies is the first behind the form's at which it stands. -/
theorem pinnedPosition_eq_some_iff {l : Label} {h k v : Nat} :
    pinnedPosition l h = some (k, v) ↔ 1 ≤ k ∧ l.pinned[k]? = some (h, v) ∧
      ∀ j w, 1 ≤ j → j < k → l.pinned[j]? ≠ some (h, w) := by
  have behind : ∀ i : Nat, l.pinned[i + 1]? = (l.pinned.drop 1)[i]? := fun i => by
    rw [List.getElem?_drop, Nat.add_comm]
  have first : ∀ i, (∀ j w, 1 ≤ j → j < i + 1 → l.pinned[j]? ≠ some (h, w)) ↔
      ∀ j w, j < i → (l.pinned.drop 1)[j]? ≠ some (h, w) := by
    refine fun i => ⟨fun before j w hj => ?_, fun before j w h1 hj => ?_⟩
    · rw [← behind]
      exact before (j + 1) w (by omega) (by omega)
    · obtain ⟨j, rfl⟩ : ∃ i, j = i + 1 := ⟨j - 1, by omega⟩
      rw [behind]
      exact before j w (by omega)
  constructor
  · intro found
    simp only [pinnedPosition, Option.map_eq_some_iff, behind, Prod.mk.injEq] at found
    obtain ⟨⟨g, _⟩, here, rfl, rfl⟩ := found
    obtain ⟨hlt, hget⟩ := List.getElem?_eq_some_iff.mp here
    have handle := List.findIdx_getElem (w := hlt)
    rw [hget] at handle
    obtain rfl : g = h := eq_of_beq handle
    exact ⟨by omega, by rw [behind, here], (first _).mpr ((findIdx_handle_eq_iff here).mp rfl)⟩
  · rintro ⟨positive, here, before⟩
    obtain ⟨i, rfl⟩ : ∃ i, k = i + 1 := ⟨k - 1, by omega⟩
    have place := (findIdx_handle_eq_iff (behind i ▸ here)).mpr ((first i).mp before)
    simp only [pinnedPosition, place, here, Option.map_some]

/-! ### The visible box (R42, R122) -/

/-- An interval that begins at a dot or line of the form is cut at its far edge. -/
theorem clipInterval_natCast (a n limit : Nat) :
    clipInterval a n limit = (a, min n (limit - a)) := by
  unfold clipInterval
  refine Prod.ext ?_ ?_
  · change (max (a : Int) 0).toNat = a
    omega
  · change (min ((a : Int) + n) limit - max (a : Int) 0).toNat = min n (limit - a)
    omega

section

variable {f : FormSize} {left top dots lines : Nat}

theorem visibleBox_of_outside (h : f.width ≤ left ∨ f.length ≤ top) :
    visibleBox f ⟨left, top, dots, lines⟩ = none := by
  simp only [visibleBox, clipInterval_natCast]
  exact if_pos (by omega)

theorem boxClipped_of_outside (h : f.width ≤ left ∨ f.length ≤ top) :
    boxClipped f ⟨left, top, dots, lines⟩ = true := by
  simp only [boxClipped, visibleBox_of_outside h]

variable (hd : 0 < dots) (hl : 0 < lines) (hx : left < f.width) (hy : top < f.length)

include hd hl hx hy

theorem visibleBox_of_inside : visibleBox f ⟨left, top, dots, lines⟩ =
    some (left, top, min dots (f.width - left), min lines (f.length - top)) := by
  simp only [visibleBox, clipInterval_natCast]
  exact if_neg (by omega)

theorem boxClipped_of_inside : boxClipped f ⟨left, top, dots, lines⟩ =
    decide (f.width < left + dots ∨ f.length < top + lines) := by
  simp only [boxClipped, visibleBox_of_inside hd hl hx hy, ← Bool.decide_or, decide_eq_decide]
  omega

end

/-! ### RULE (R50) -/

theorem ruleBox_eq (fld : Field) (rot90 : Bool) : ruleBox fld rot90 =
    ⟨fld.x, fld.y, if rot90 then fld.ruleHeight else fld.ruleWidth,
      if rot90 then fld.ruleWidth else fld.ruleHeight⟩ := by
  cases rot90 <;> rfl

/-! ### TEXT (R48, R62 to R65) -/

theorem glyphFor_of_code {rd : Reader} {c : Nat} (h : ∃ g ∈ fontGlyphs rd, g.code = c) :
    ∃ g ∈ fontGlyphs rd, g.code = c ∧ glyphFor rd c = some (g, false) := by
  obtain ⟨g₀, mem₀, code₀⟩ := h
  obtain ⟨g, found⟩ := Option.isSome_iff_exists.mp
    (List.find?_isSome.mpr ⟨g₀, mem₀, beq_iff_eq.mpr code₀⟩ :
      ((fontGlyphs rd).find? fun g => g.code == c).isSome = true)
  have code := List.find?_some found
  exact ⟨g, List.mem_of_find?_eq_some found, eq_of_beq code, by simp only [glyphFor, found]⟩

theorem glyphFor_of_substitute {rd : Reader} {c : Nat} (unlisted : ∀ g ∈ fontGlyphs rd, g.code ≠ c)
    (h : ∃ g ∈ fontGlyphs rd, g.code = fontSubstitute rd) :
    ∃ g ∈ fontGlyphs rd, g.code = fontSubstitute rd ∧ glyphFor rd c = some (g, true) := by
  have missing : ((fontGlyphs rd).find? fun g => g.code == c) = none :=
    List.find?_eq_none.mpr fun g mem => by simpa using unlisted g mem
  obtain ⟨g, mem, code, found⟩ := glyphFor_of_code h
  refine ⟨g, mem, code, ?_⟩
  cases sub : (fontGlyphs rd).find? fun g => g.code == fontSubstitute rd with
  | none => simp [glyphFor, sub] at found
  | some x =>
    have : x = g := by simpa [glyphFor, sub] using found
    simp [glyphFor, missing, sub, this]

theorem glyphBox_eq (x y : Nat) (rot90 : Bool) (height pen : Nat) (g : Glyph) :
    glyphBox x y rot90 height pen g =
      ⟨(if rot90 then x else x + pen : Nat), (if rot90 then y + pen else y : Nat),
        if rot90 then height else g.width, if rot90 then g.width else height⟩ := by
  cases rot90 <;> rfl

/-- A character's cell goes before the rest of the string, laid out from the pen moved on (R63). -/
theorem layText_cons {rd : Reader} {c x y pen : Nat} {g : Glyph} {sub rot90 : Bool} {b : Box}
    (glyph : glyphFor rd c = some (g, sub))
    (cell : glyphBox x y rot90 (fontHeight rd) pen g = b) (f : FormSize) (body : Nat)
    (cs : List Nat) :
    layText rd f body x y rot90 pen (c :: cs) =
      ((glyphElement f body rot90 (fontHeight rd) g b).toList
          ++ (layText rd f body x y rot90 (pen + g.advance) cs).1,
        { Warnings.none with clipped := boxClipped f b, substituted := sub }.or
          (layText rd f body x y rot90 (pen + g.advance) cs).2) := by
  subst cell
  rw [layText, glyph]

section

variable {f : FormSize} {left top dots lines : Nat} (body : Nat) (rot90 : Bool) (height : Nat)
  (g : Glyph)

theorem glyphElement_of_outside (h : f.width ≤ left ∨ f.length ≤ top) :
    glyphElement f body rot90 height g ⟨left, top, dots, lines⟩ = none := by
  rw [glyphElement, visibleBox_of_outside h, Option.map_none]

theorem glyphElement_of_inside (hd : 0 < dots) (hl : 0 < lines) (hx : left < f.width)
    (hy : top < f.length) :
    glyphElement f body rot90 height g ⟨left, top, dots, lines⟩ = some
      { kind := .glyph, left := left, top := top, dots := min dots (f.width - left),
        lines := min lines (f.length - top), glyphBody := body, bitmap := g.bitmap,
        width := g.width, height := height, rot90 := rot90, cellTop := top, cellLeft := left } := by
  rw [glyphElement, visibleBox_of_inside hd hl hx hy]
  rfl

end

/-! ### A field of a label (R117) -/

section

variable {s : State} {n : StationNo} {l : Label} {i : Nat}

theorem State.layField_of_rule (kind : (formField (s.formContent l) i).kind = some .rule) :
    s.layField n l i = layRuleField ⟨formWidth (s.formContent l), formLength (s.formContent l)⟩
      (formField (s.formContent l) i) ((formField (s.formContent l) i).rot90.getD false) := by
  simp only [layField, kind]

theorem State.layField_of_text {k v : Nat}
    (kind : (formField (s.formContent l) i).kind = some .text)
    (place : pinnedPosition l (formField (s.formContent l) i).drawHandle = some (k, v)) :
    s.layField n l i =
      layTextField (s.versionContent (formField (s.formContent l) i).drawHandle v)
        ⟨formWidth (s.formContent l), formLength (s.formContent l)⟩ k
        (formField (s.formContent l) i) ((formField (s.formContent l) i).rot90.getD false)
        (s.fieldString l (formField (s.formContent l) i)) := by
  simp only [layField, kind, pinnedContent, place, Option.map_some, Option.getD_some]

theorem State.layField_of_barcode {k v : Nat}
    (kind : (formField (s.formContent l) i).kind = some .barcode)
    (place : pinnedPosition l (formField (s.formContent l) i).drawHandle = some (k, v)) :
    s.layField n l i =
      layBarcodeField (s.versionContent (formField (s.formContent l) i).drawHandle v)
        ⟨formWidth (s.formContent l), formLength (s.formContent l)⟩ (s.station n)
        (s.station n).margin l.dotAvoid (formField (s.formContent l) i)
        ((formField (s.formContent l) i).rot90.getD false)
        (s.fieldString l (formField (s.formContent l) i)) := by
  simp only [layField, kind, pinnedContent, place]

variable {fld : Field}

theorem State.fieldString_of_constant (source : fld.source = some .constant) :
    s.fieldString l fld = fld.constText.take fld.constLength := by
  simp only [fieldString, source]

theorem State.fieldString_of_slot {off len : Nat} (source : fld.source = some .slot)
    (slot : l.slots[fld.slot]? = some (off, len)) :
    s.fieldString l fld = (List.range len).map fun j => s.content l.dataBlocks (off + j) := by
  simp only [fieldString, source, slotBytes, slot]

theorem State.fieldString_of_counter {pre rest : List (Nat × List Byte)} {v : List Byte}
    (source : fld.source = some .counter) (drawn : l.drawn = pre ++ (fld.counterHandle, v) :: rest)
    (first : ∀ x ∈ pre, x.1 ≠ fld.counterHandle) :
    s.fieldString l fld = v.map fun b => b.toNat := by
  have found : (l.drawn.find? fun p => p.1 == fld.counterHandle) = some (fld.counterHandle, v) :=
    List.find?_eq_some_iff_append.mpr
      ⟨beq_self_eq_true _, pre, rest, drawn, fun x hx => by simpa using first x hx⟩
  simp only [fieldString, source, found]

end

/-- R50: a rectangle that begins inside the form is cut at its far edges. -/
theorem layRuleField_of_inside {f : FormSize} {fld : Field} {rot90 : Bool} {w h : Nat}
    (hw : w = if rot90 then fld.ruleHeight else fld.ruleWidth)
    (hh : h = if rot90 then fld.ruleWidth else fld.ruleHeight) (w0 : 0 < w) (h0 : 0 < h)
    (hx : fld.x < f.width) (hy : fld.y < f.length) :
    layRuleField f fld rot90 = .placed
      [{ kind := .rule, top := fld.y, left := fld.x, lines := min h (f.length - fld.y),
         dots := min w (f.width - fld.x), glyphBody := 0, bitmap := 0, width := 0, height := 0,
         rot90 := false, cellTop := 0, cellLeft := 0 }]
      (clippedIf (decide (f.width < fld.x + w ∨ f.length < fld.y + h))) none := by
  rw [layRuleField, ruleBox_eq, ← hw, ← hh, boxClipped_of_inside w0 h0 hx hy, plainElement,
    visibleBox_of_inside w0 h0 hx hy]
  rfl

/-- Settles O44: each part by the rule of the function it speaks of; a cell is whole, cut or dropped as its box lies
on the form. -/
theorem fieldsLaidOut : Obligations.FieldsLaidOut := by
  refine ⟨fun s blocks i => ?_, fun s h v c current => ⟨?_, ?_⟩, fun s l => ⟨rfl, rfl, rfl⟩,
    fun s n l i => ⟨State.layField_of_rule, fun k v => State.layField_of_text,
      fun k v => State.layField_of_barcode, State.fieldString_of_constant,
      fun off len => State.fieldString_of_slot, fun pre v rest => State.fieldString_of_counter⟩,
    fun size f rot w h => layRuleField_of_inside, fun rd size body f rot cs => ⟨?_, rfl⟩,
    fun l h k v => pinnedPosition_eq_some_iff, fun t p profile => ?_, rfl, fun b => rfl,
    fun a b => rfl, fun rd c => ⟨glyphFor_of_code, glyphFor_of_substitute⟩,
    fun rd size body x y pen c rot cs g sub left top dots lines glyph hleft htop hdots hlines hd hl =>
      ?_⟩
  · cases block : blocks[i / 256]? with
    | none => exact State.content_of_no_block block
    | some b => exact State.content_of_block block
  · rintro rfl
    exact State.versionContent_of_current current
  · rintro b prior newer rfl
    exact State.versionContent_of_prior current prior newer
  · simp [layTextField, layText, Warnings.or, Warnings.none, clippedIf]
  · simp only [Station.margin, profile]
  · have cell : glyphBox x y rot (fontHeight rd) pen g = ⟨left, top, dots, lines⟩ := by
      rw [glyphBox_eq, ← hleft, ← htop, ← hdots, ← hlines]
    rw [layText_cons glyph cell]
    refine ⟨fun hx hy => ?_, fun hx hy cut => ?_, fun outside => ?_⟩
    · rw [glyphElement_of_inside body rot _ g hd hl (by omega) (by omega),
        boxClipped_of_inside hd hl (by omega) (by omega), Nat.min_eq_left (by omega),
        Nat.min_eq_left (by omega), decide_eq_false (by omega)]
      rfl
    · rw [glyphElement_of_inside body rot _ g hd hl hx hy, boxClipped_of_inside hd hl hx hy,
        decide_eq_true cut]
      rfl
    · rw [glyphElement_of_outside body rot _ g outside, boxClipped_of_outside outside]
      rfl

end Sys2Proof.Machine
end

section
/-! The passes of a validation (R54 to R57, R61, R69, R76): a list of checks, and a scan over the items of a body
that names the first one at fault. -/

namespace Sys2Proof.Machine

/-! ### Checks in a row -/

/-- Two checks in a row that name the same index are one. -/
theorem firstFault_merge (a b : Bool) (i : Nat) (l : List (Bool × Nat)) :
    firstFault ((a, i) :: (b, i) :: l) = firstFault ((a || b, i) :: l) := by
  cases a <;> rfl

/-- The outcome of a check: the index it names, unless what it asks for holds. -/
def faultUnless (p : Prop) [Decidable p] (i : Nat) : Option Nat := if p then none else some i

theorem faultUnless_of_holds {p : Prop} [Decidable p] {i : Nat} (h : p) : faultUnless p i = none :=
  if_pos h

theorem faultUnless_of_fails {p : Prop} [Decidable p] {i : Nat} (h : ¬p) :
    faultUnless p i = some i := if_neg h

theorem firstFault_cons {p : Prop} [Decidable p] {fault : Bool} (h : fault = false ↔ p) (i : Nat)
    (l : List (Bool × Nat)) : firstFault ((fault, i) :: l) = (faultUnless p i).or (firstFault l) := by
  cases fault with
  | false => rw [faultUnless_of_holds (h.mp rfl), Option.none_or, firstFault, if_neg (by decide)]
  | true =>
    rw [faultUnless_of_fails fun holds => Bool.noConfusion (h.mpr holds), Option.some_or, firstFault,
      if_pos rfl]

theorem firstFault_singleton {p : Prop} [Decidable p] {fault : Bool} (h : fault = false ↔ p)
    (i : Nat) : firstFault [(fault, i)] = faultUnless p i := by
  rw [firstFault_cons h, firstFault, Option.or_none]

theorem within_iff {lo hi v : Nat} : within lo hi v = true ↔ lo ≤ v ∧ v ≤ hi := by
  simp only [within, Bool.and_eq_true, decide_eq_true_eq]

/-- Widths and weights are read up to the most that a body may hold; within that, all that it counts. -/
theorem all_range_min_iff {n most : Nat} (h : n ≤ most) (p : Nat → Bool) (f : Nat → Nat) :
    ((List.range (min n most)).map f).all p = true ↔ ∀ j, j < n → p (f j) = true := by
  simp only [Nat.min_eq_left h, List.all_map, List.all_eq_true, List.mem_range, Function.comp_apply]

/-- Weights pass where their count does and each of them is in range. -/
theorem weights_pass_iff {n most top : Nat} {f : Nat → Nat} :
    (!within 1 most n || !((List.range (min n most)).map f).all (within 1 top)) = false ↔
      1 ≤ n ∧ n ≤ most ∧ ∀ j, j < n → 1 ≤ f j ∧ f j ≤ top := by
  rw [Bool.or_eq_false_iff, Bool.not_eq_false', Bool.not_eq_false', within_iff, and_assoc]
  refine and_congr_right fun _ => and_congr_right fun few => ?_
  simp only [all_range_min_iff few, within_iff]

theorem getD_map_range {n j : Nat} (h : j < n) (f : Nat → Nat) :
    ((List.range n).map f).getD j 0 = f j := by
  simp [List.getD_eq_getElem?_getD, h]

/-! ### A scan that stops at the first item at fault -/

/-- The outcome of a pass over n items: the first that does not pass, if there is one. -/
structure FirstBad (n : Nat) (ok : Nat → Prop) (outcome : Option Nat) : Prop where
  stops : ∀ i, i < n → (∀ j, j < i → ok j) → ¬ok i → outcome = some i
  passes : (∀ i, i < n → ok i) → outcome = none

/-- A scan, given as what it answers from each item on: it stops at an item at fault, and behind the last. -/
theorem FirstBad.of_scan {n : Nat} {ok : Nat → Prop} [DecidablePred ok] {scan : Nat → Option Nat}
    (step : ∀ k, k < n → scan k = if ok k then scan (k + 1) else some k) (stop : scan n = none) :
    FirstBad n ok (scan 0) := by
  have reach : ∀ i, i ≤ n → (∀ j, j < i → ok j) → scan 0 = scan i := by
    intro i
    induction i with
    | zero => exact fun _ _ => rfl
    | succ i ih =>
      intro hi before
      rw [ih (by omega) fun j hj => before j (by omega), step i (by omega),
        if_pos (before i (by omega))]
  refine ⟨fun i hi before fault => ?_, fun all => ?_⟩
  · rw [reach i (by omega) before, step i hi, if_neg fault]
  · rw [reach n (Nat.le_refl n) all, stop]

theorem drop_range_of_lt {k n : Nat} (h : k < n) :
    (List.range n).drop k = k :: (List.range n).drop (k + 1) := by
  rw [List.drop_eq_getElem_cons (by simpa using h), List.getElem_range]

theorem drop_map_range {α : Type} {k n : Nat} (h : k < n) (f : Nat → α) :
    ((List.range n).map f).drop k = f k :: ((List.range n).map f).drop (k + 1) := by
  simp only [← List.map_drop, drop_range_of_lt h, List.map_cons]

theorem drop_map_range_all {α : Type} (n : Nat) (f : Nat → α) :
    ((List.range n).map f).drop n = [] := by
  simp

/-- The codes of the first k items, the last of them first, as a pass that looks for a code twice collects them. -/
def codesBefore (code : Nat → Nat) (k : Nat) : List Nat := ((List.range k).map code).reverse

theorem codesBefore_succ (code : Nat → Nat) (k : Nat) :
    codesBefore code (k + 1) = code k :: codesBefore code k := by
  simp [codesBefore, List.range_succ]

theorem contains_codesBefore {code : Nat → Nat} {k c : Nat} :
    (codesBefore code k).contains c = true ↔ ∃ j, j < k ∧ code j = c := by
  simp [codesBefore]

/-! ### FORM header (R54) -/

theorem formHeaderFault?_eq (rd : Reader) (len : Nat) :
    formHeaderFault? rd len = faultUnless (formHeaderOk rd len) idxHeader := by
  simp only [formHeaderFault?, firstFault_merge]
  refine firstFault_singleton ?_ _
  simp [within_iff, and_assoc]

/-! ### Field pass (R55, R56) -/

/-- R55: the checks on one field are what a field must hold. -/
theorem Field.faulty_eq_false_iff {f : Field} {width length : Nat} :
    f.faulty width length = false ↔ fieldItemsOk f width length := by
  rcases kind : f.kind with _ | (_ | _ | _) <;>
    simp [faulty, sourced, fieldItemsOk, kind, within_iff, Option.isSome_iff_ne_none, and_assoc]

/-- Handles added one by one to the empty list. -/
def handleSet (l : List Nat) : List Nat := l.foldl addHandle []

theorem handleSet_concat (l : List Nat) (h : Nat) : handleSet (l ++ [h]) = addHandle (handleSet l) h := by
  simp only [handleSet, List.foldl_append, List.foldl_cons, List.foldl_nil]

theorem mem_addHandle {l : List Nat} {h g : Nat} : g ∈ addHandle l h ↔ g ∈ l ∨ g = h := by
  unfold addHandle
  split
  next listed =>
    have : h ∈ l := by simpa using listed
    exact ⟨Or.inl, fun e => e.elim id fun e => e ▸ this⟩
  next => simp only [List.mem_append, List.mem_singleton]

theorem mem_handleSet {l : List Nat} {g : Nat} : g ∈ handleSet l ↔ g ∈ l := by
  induction l using List.reverseRecOn with
  | nil => rfl
  | append_singleton l h ih =>
    rw [handleSet_concat, mem_addHandle, ih, List.mem_append, List.mem_singleton]

theorem handleSet_concat_of_mem {l : List Nat} {h : Nat} (listed : h ∈ l) :
    handleSet (l ++ [h]) = handleSet l := by
  rw [handleSet_concat, addHandle, if_pos (List.contains_iff_mem.mpr (mem_handleSet.mpr listed))]

theorem handleSet_concat_of_not_mem {l : List Nat} {h : Nat} (new : h ∉ l) :
    handleSet (l ++ [h]) = handleSet l ++ [h] := by
  rw [handleSet_concat, addHandle, if_neg fun listed =>
    new (mem_handleSet.mp (List.contains_iff_mem.mp listed))]

/-- R52: the handles stand in the order of their first appearance. -/
theorem handleSet_pairwise (l : List Nat) :
    (handleSet l).Pairwise fun a b => l.idxOf a < l.idxOf b := by
  induction l using List.reverseRecOn with
  | nil => exact List.Pairwise.nil
  | append_singleton l h ih =>
    have kept : (handleSet l).Pairwise fun a b => (l ++ [h]).idxOf a < (l ++ [h]).idxOf b := by
      refine ih.imp_of_mem fun ha hb earlier => ?_
      rwa [List.idxOf_append_of_mem (mem_handleSet.mp ha),
        List.idxOf_append_of_mem (mem_handleSet.mp hb)]
    by_cases listed : h ∈ l
    · rwa [handleSet_concat_of_mem listed]
    · rw [handleSet_concat_of_not_mem listed]
      refine List.pairwise_append.mpr ⟨kept, List.pairwise_singleton _ _, fun a ha b hb => ?_⟩
      obtain rfl := List.mem_singleton.mp hb
      have ha := mem_handleSet.mp ha
      rw [List.idxOf_append_of_mem ha, List.idxOf_append_of_notMem listed]
      exact Nat.lt_add_right _ (List.idxOf_lt_length_of_mem ha)

theorem handleSet_nodup (l : List Nat) : (handleSet l).Nodup :=
  (handleSet_pairwise l).imp fun earlier e => absurd (e ▸ earlier) (Nat.lt_irrefl _)

theorem length_handleSet (l : List Nat) : (handleSet l).length = l.dedup.length :=
  ((List.perm_ext_iff_of_nodup (handleSet_nodup l) (List.nodup_dedup l)).mpr fun a => by
    rw [mem_handleSet, List.mem_dedup]).length_eq

/-- All handles that fields name, in field order, as often as they are named. -/
abbrev namedHandles (fields : List Field) : List Nat :=
  (fields.map fun f => f.handles.map fun p => p.1).flatten

theorem referenceList_eq (fields : List Field) :
    referenceList fields = handleSet (namedHandles fields) := by
  simp only [referenceList, handleSet, List.foldl_flatten, List.foldl_map]

/-- The running counts of the field pass behind some fields (R56). -/
def countsBehind (fields : List Field) : FieldCounts := fields.foldl FieldCounts.take ⟨0, [], []⟩

theorem countsBehind_concat (fields : List Field) (f : Field) :
    countsBehind (fields ++ [f]) = (countsBehind fields).take f := by
  rw [countsBehind, List.foldl_concat, countsBehind]

/-- The running counts are those of the fields as a whole. -/
theorem countsBehind_eq (fields : List Field) : countsBehind fields =
    ⟨fields.countP fun f => f.kind == some .barcode,
      handleSet ((fields.filter fun f => f.sourced && f.source == some .counter).map fun f =>
        f.counterHandle),
      handleSet (namedHandles fields)⟩ := by
  induction fields using List.reverseRecOn with
  | nil => rfl
  | append_singleton fields f ih =>
    simp only [countsBehind_concat, ih, FieldCounts.take, List.countP_append, List.filter_append,
      List.map_append, namedHandles, List.flatten_append, FieldCounts.mk.injEq]
    refine ⟨?_, ?_, ?_⟩
    · by_cases barcode : f.kind = some .barcode <;> simp [barcode]
    · cases counted : f.sourced && f.source == some .counter <;> simp [counted, handleSet_concat]
    · simp [handleSet, List.foldl_map]

theorem countsBehind_over_iff (fields : List Field) :
    (countsBehind fields).over = false ↔ fieldLimitsOk fields := by
  simp only [countsBehind_eq, FieldCounts.over, length_handleSet, fieldLimitsOk,
    Bool.or_eq_false_iff, decide_eq_false_iff_not, Nat.not_lt, and_assoc]

theorem fieldPass_cons (width length i : Nat) (c : FieldCounts) (f : Field) (fs : List Field) :
    fieldPass width length i c (f :: fs) =
      if f.faulty width length = false ∧ (c.take f).over = false then
        fieldPass width length (i + 1) (c.take f) fs
      else some i := by
  cases faulty : f.faulty width length <;> cases past : (c.take f).over <;>
    simp [fieldPass, faulty, past]

theorem take_formFields_succ {rd : Reader} {k : Nat} (h : k < formFieldCount rd) :
    (formFields rd).take (k + 1) = (formFields rd).take k ++ [formField rd k] := by
  simp [formFields, List.take_add_one, h]

theorem drop_formFields {rd : Reader} {k : Nat} (h : k < formFieldCount rd) :
    (formFields rd).drop k = formField rd k :: (formFields rd).drop (k + 1) :=
  drop_map_range h (formField rd)

theorem drop_formFields_all (rd : Reader) : (formFields rd).drop (formFieldCount rd) = [] :=
  drop_map_range_all _ _

/-- From field k on, the field pass has the counts of the fields before it. -/
def fieldScan (rd : Reader) (k : Nat) : Option Nat :=
  fieldPass (formWidth rd) (formLength rd) k (countsBehind ((formFields rd).take k))
    ((formFields rd).drop k)

theorem fieldScan_eq {rd : Reader} {k : Nat} (h : k < formFieldCount rd) :
    fieldScan rd k = if formFieldOk rd k then fieldScan rd (k + 1) else some k := by
  have counts : countsBehind ((formFields rd).take (k + 1)) =
      (countsBehind ((formFields rd).take k)).take (formField rd k) := by
    rw [take_formFields_succ h, countsBehind_concat]
  unfold fieldScan
  rw [drop_formFields h, fieldPass_cons, ← counts]
  exact if_congr (and_congr Field.faulty_eq_false_iff (countsBehind_over_iff _)) rfl rfl

theorem fieldPass_firstBad (rd : Reader) : FirstBad (formFieldCount rd) (formFieldOk rd)
    (fieldPass (formWidth rd) (formLength rd) 0 ⟨0, [], []⟩ (formFields rd)) :=
  FirstBad.of_scan (scan := fieldScan rd) (fun _ => fieldScan_eq)
    (by rw [fieldScan, drop_formFields_all, fieldPass])

/-! ### Reference pass (R57) -/

theorem State.names_iff {s : State} {h : Nat} {k : Kind} : s.names h k = true ↔
    h ≤ 1023 ∧ (s.record h).state = .active ∧ (s.record h).kind = some k := by
  simp only [names, Bool.and_eq_true, decide_eq_true_eq, beq_iff_eq, and_assoc]

/-- From field k on, the reference pass. -/
def referenceScan (s : State) (rd : Reader) (k : Nat) : Option Nat :=
  referencePass s.names k ((formFields rd).drop k)

theorem referenceScan_eq {s : State} {rd : Reader} {k : Nat} (h : k < formFieldCount rd) :
    referenceScan s rd k =
      if s.formHandlesOk rd k then referenceScan s rd (k + 1) else some k := by
  unfold referenceScan
  rw [drop_formFields h, referencePass]
  exact if_congr (by simp only [List.all_eq_true, State.names_iff]) rfl rfl

theorem referencePass_firstBad (s : State) (rd : Reader) :
    FirstBad (formFieldCount rd) (s.formHandlesOk rd) (referencePass s.names 0 (formFields rd)) :=
  FirstBad.of_scan (scan := referenceScan s rd) (fun _ => referenceScan_eq)
    (by rw [referenceScan, drop_formFields_all, referencePass])

/-! ### FORM (R54 to R57) -/

theorem validateForm_eq (names : Nat → Kind → Bool) (rd : Reader) (len : Nat) :
    validateForm names rd len =
      (((faultUnless (formHeaderOk rd len) idxHeader).or
          (fieldPass (formWidth rd) (formLength rd) 0 ⟨0, [], []⟩ (formFields rd))).map
        fun i => (Status.badBody, i)).or
      ((referencePass names 0 (formFields rd)).map fun i => (Status.badRef, i)) := by
  rw [validateForm, formHeaderFault?_eq]
  cases faultUnless (formHeaderOk rd len) idxHeader <;>
    cases fieldPass (formWidth rd) (formLength rd) 0 ⟨0, [], []⟩ (formFields rd) <;> rfl

/-! ### FONT (R61) -/

/-- From glyph k on, the glyph pass has the codes of the glyphs before it. -/
def glyphScan (rd : Reader) (len k : Nat) : Option Nat :=
  glyphPass (16 + 8 * fontCount rd) (fontHeight rd) len k
    (codesBefore (fun j => (fontGlyph rd j).code) k) ((fontGlyphs rd).drop k)

theorem glyphScan_eq {rd : Reader} {len k : Nat} (h : k < fontCount rd) :
    glyphScan rd len k = if fontGlyphOk rd len k then glyphScan rd len (k + 1) else some k := by
  unfold glyphScan fontGlyphs
  rw [drop_map_range h, glyphPass, codesBefore_succ, ← ite_not]
  refine if_congr ?_ rfl rfl
  simp only [contains_codesBefore, not_or, Nat.not_lt, not_exists, not_and]
  exact Iff.rfl

theorem glyphPass_firstBad (rd : Reader) (len : Nat) :
    FirstBad (fontCount rd) (fontGlyphOk rd len)
      (glyphPass (16 + 8 * fontCount rd) (fontHeight rd) len 0 [] (fontGlyphs rd)) :=
  FirstBad.of_scan (scan := glyphScan rd len) (fun _ => glyphScan_eq)
    (by rw [glyphScan, fontGlyphs, drop_map_range_all, glyphPass])

/-- Some glyph of a FONT body has the substitute's code (R61). -/
abbrev fontSubstituteListed (rd : Reader) : Prop :=
  ∃ i, i < fontCount rd ∧ (fontGlyph rd i).code = fontSubstitute rd

theorem any_fontGlyphs_iff {rd : Reader} :
    ((fontGlyphs rd).any fun g => g.code == fontSubstitute rd) = true ↔ fontSubstituteListed rd := by
  simp [fontGlyphs]

theorem validateFont_eq (rd : Reader) (len : Nat) : validateFont rd len =
    (((faultUnless (fontHeaderOk rd len) idxHeader).or
        (glyphPass (16 + 8 * fontCount rd) (fontHeight rd) len 0 [] (fontGlyphs rd))).or
      (faultUnless (fontSubstituteListed rd) idxThird)).map fun i => (Status.badBody, i) := by
  simp only [validateFont, firstFault_merge]
  rw [firstFault_singleton (p := fontHeaderOk rd len) (by simp [within_iff, and_assoc])]
  cases faultUnless (fontHeaderOk rd len) idxHeader with
  | some i => rfl
  | none =>
    cases glyphPass (16 + 8 * fontCount rd) (fontHeight rd) len 0 [] (fontGlyphs rd) with
    | some i => rfl
    | none =>
      simp only [any_fontGlyphs_iff, Option.none_or, faultUnless]
      split <;> rfl

/-! ### SYMBOLOGY (R69) -/

theorem patternOk_iff {rd : Reader} {o lo hi parity : Nat} (h : hi ≤ 12) :
    patternOk rd o lo hi parity = true ↔ patternGood rd o lo hi parity := by
  simp only [patternOk, patternAt, patternGood, Bool.and_eq_true, within_iff, beq_iff_eq, and_assoc]
  refine and_congr_right fun _ => and_congr_right fun most => and_congr_right fun _ => ?_
  simp only [all_range_min_iff (Nat.le_trans most h), within_iff]

theorem not_patternOk_iff {rd : Reader} {o lo hi parity : Nat} (h : hi ≤ 12) :
    (!patternOk rd o lo hi parity) = false ↔ patternGood rd o lo hi parity := by
  rw [Bool.not_eq_false', patternOk_iff h]

/-- From entry k on, the map pass has the codes of the entries before it. -/
def mapScan (rd : Reader) (k : Nat) : Option Nat :=
  mapPass rd k (codesBefore (fun j => (symEntry rd j).code) k) ((List.range (symCount rd)).drop k)

theorem mapScan_eq {rd : Reader} {k : Nat} (h : k < symCount rd) :
    mapScan rd k = if symEntryOk rd k then mapScan rd (k + 1) else some k := by
  unfold mapScan
  rw [drop_range_of_lt h, mapPass, codesBefore_succ, ← ite_not]
  refine if_congr ?_ rfl rfl
  simp only [contains_codesBefore, not_or, Nat.not_lt, Bool.not_eq_false,
    patternOk_iff (Nat.le_refl 12), not_exists, not_and]
  exact Iff.rfl

theorem mapPass_firstBad (rd : Reader) : FirstBad (symCount rd) (symEntryOk rd)
    (mapPass rd 0 [] (List.range (symCount rd))) :=
  FirstBad.of_scan (scan := mapScan rd) (fun _ => mapScan_eq)
    (by rw [mapScan, List.drop_of_length_le (by simp), mapPass])

theorem symWeights_pass_iff {rd : Reader} :
    (!within 1 8 (symWeightCount rd) || !(symWeights rd).all (within 1 99)) = false ↔
      1 ≤ symWeightCount rd ∧ symWeightCount rd ≤ 8 ∧
      ∀ j, j < symWeightCount rd → 1 ≤ rd (8 + j) ∧ rd (8 + j) ≤ 99 := weights_pass_iff

/-- With a modulus, each value below it is that of a map entry (R69). -/
abbrev symCovered (rd : Reader) : Prop :=
  rd 4 = 1 → ∀ v, v < symM rd → ∃ i, i < symCount rd ∧ (symEntry rd i).value = v

theorem uncovered_eq_false_iff {rd : Reader} :
    (symModulus rd && !(List.range (symM rd)).all fun v =>
      (symEntries rd).any fun e => e.value == v) = false ↔ symCovered rd := by
  simp [symModulus, symEntries]

theorem validateSymbology_eq (rd : Reader) (len : Nat) : validateSymbology rd len =
    ((((faultUnless (symHeaderOk rd len) idxHeader).or
          ((faultUnless (patternGood rd 16 2 12 0) idxThird).or
            (faultUnless (patternGood rd 29 3 11 1) idxStop))).or
        (mapPass rd 0 [] (List.range (symCount rd)))).or
      (faultUnless (symCovered rd) idxCoverage)).map fun i => (Status.badBody, i) := by
  simp only [validateSymbology, firstFault_merge]
  rw [firstFault_cons (p := symHeaderOk rd len), firstFault_cons (not_patternOk_iff (by omega)),
    firstFault_singleton (not_patternOk_iff (by omega))]
  · cases (faultUnless (symHeaderOk rd len) idxHeader).or
        ((faultUnless (patternGood rd 16 2 12 0) idxThird).or
          (faultUnless (patternGood rd 29 3 11 1) idxStop)) with
    | some i => rfl
    | none =>
      cases mapPass rd 0 [] (List.range (symCount rd)) with
      | some i => rfl
      | none =>
        simp only [← Bool.not_eq_false, uncovered_eq_false_iff, Option.none_or, faultUnless, ite_not]
        split <;> rfl
  · simp only [Bool.or_eq_false_iff, Bool.and_eq_false_imp, Bool.and_eq_true, decide_eq_false_iff_not,
      Bool.not_eq_false', symModulus, symCycle, ↓symWeights_pass_iff, within_iff, beq_iff_eq,
      Nat.not_lt, Nat.zero_le, true_and, and_imp, imp_and, and_assoc,
      symHeaderOk]

/-! ### COUNTER (R76) -/

theorem ctrWeights_pass_iff {rd : Reader} :
    (!within 1 4 (ctrWeightCount rd) || !(ctrWeights rd).all (within 1 9)) = false ↔
      1 ≤ ctrWeightCount rd ∧ ctrWeightCount rd ≤ 4 ∧
      ∀ j, j < ctrWeightCount rd → 1 ≤ rd (5 + j) ∧ rd (5 + j) ≤ 9 := weights_pass_iff

theorem validateCounter_eq (rd : Reader) (len : Nat) : validateCounter rd len =
    (faultUnless (counterOk rd len) idxHeader).map fun i => (Status.badBody, i) := by
  simp only [validateCounter, firstFault_merge]
  refine congrArg _ (firstFault_singleton ?_ _)
  simp only [Bool.or_eq_false_iff, Bool.and_eq_false_imp, decide_eq_false_iff_not, Bool.not_eq_false',
    ctrWeighted, ↓ctrWeights_pass_iff, within_iff, beq_iff_eq, beq_eq_false_iff_ne, Nat.not_lt,
    Nat.not_le, List.any_eq_false, List.mem_range, Bool.or_eq_true, decide_eq_true_eq, not_or,
    Nat.zero_le, true_and, and_assoc]

/-! ### What each body gives -/

section

variable {s : State} {rd : Reader} {len i : Nat}

theorem validate_form_of_header (fault : ¬formHeaderOk rd len) :
    s.validate .form rd len = some (.badBody, idxHeader) := by
  rw [State.validate, validateForm_eq, faultUnless_of_fails fault]
  rfl

theorem validate_form_of_field (header : formHeaderOk rd len) (hi : i < formFieldCount rd)
    (before : ∀ j, j < i → formFieldOk rd j) (fault : ¬formFieldOk rd i) :
    s.validate .form rd len = some (.badBody, i) := by
  rw [State.validate, validateForm_eq, faultUnless_of_holds header,
    (fieldPass_firstBad rd).stops i hi before fault]
  rfl

theorem validate_form_of_handles (header : formHeaderOk rd len)
    (fields : ∀ j, j < formFieldCount rd → formFieldOk rd j) (hi : i < formFieldCount rd)
    (before : ∀ j, j < i → s.formHandlesOk rd j) (fault : ¬s.formHandlesOk rd i) :
    s.validate .form rd len = some (.badRef, i) := by
  rw [State.validate, validateForm_eq, faultUnless_of_holds header,
    (fieldPass_firstBad rd).passes fields, (referencePass_firstBad s rd).stops i hi before fault]
  rfl

theorem validate_form_passes (header : formHeaderOk rd len)
    (fields : ∀ j, j < formFieldCount rd → formFieldOk rd j)
    (handles : ∀ j, j < formFieldCount rd → s.formHandlesOk rd j) :
    s.validate .form rd len = none := by
  rw [State.validate, validateForm_eq, faultUnless_of_holds header,
    (fieldPass_firstBad rd).passes fields, (referencePass_firstBad s rd).passes handles]
  rfl

theorem validate_font_of_header (fault : ¬fontHeaderOk rd len) :
    s.validate .font rd len = some (.badBody, idxHeader) := by
  rw [State.validate, validateFont_eq, faultUnless_of_fails fault]
  rfl

theorem validate_font_of_glyph (header : fontHeaderOk rd len) (hi : i < fontCount rd)
    (before : ∀ j, j < i → fontGlyphOk rd len j) (fault : ¬fontGlyphOk rd len i) :
    s.validate .font rd len = some (.badBody, i) := by
  rw [State.validate, validateFont_eq, faultUnless_of_holds header,
    (glyphPass_firstBad rd len).stops i hi before fault]
  rfl

theorem validate_font_of_glyphs (header : fontHeaderOk rd len)
    (glyphs : ∀ j, j < fontCount rd → fontGlyphOk rd len j) : s.validate .font rd len =
      (faultUnless (fontSubstituteListed rd) idxThird).map fun i => (Status.badBody, i) := by
  rw [State.validate, validateFont_eq, faultUnless_of_holds header,
    (glyphPass_firstBad rd len).passes glyphs]
  rfl

theorem validate_symbology_of_header (fault : ¬symHeaderOk rd len) :
    s.validate .symbology rd len = some (.badBody, idxHeader) := by
  rw [State.validate, validateSymbology_eq, faultUnless_of_fails fault]
  rfl

theorem validate_symbology_of_start (header : symHeaderOk rd len)
    (fault : ¬patternGood rd 16 2 12 0) :
    s.validate .symbology rd len = some (.badBody, idxThird) := by
  rw [State.validate, validateSymbology_eq, faultUnless_of_holds header, faultUnless_of_fails fault]
  rfl

theorem validate_symbology_of_stop (header : symHeaderOk rd len) (start : patternGood rd 16 2 12 0)
    (fault : ¬patternGood rd 29 3 11 1) :
    s.validate .symbology rd len = some (.badBody, idxStop) := by
  rw [State.validate, validateSymbology_eq, faultUnless_of_holds header, faultUnless_of_holds start,
    faultUnless_of_fails fault]
  rfl

section

variable (header : symHeaderOk rd len) (start : patternGood rd 16 2 12 0)
  (stop : patternGood rd 29 3 11 1)

include header start stop

theorem validate_symbology_of_entry (hi : i < symCount rd) (before : ∀ j, j < i → symEntryOk rd j)
    (fault : ¬symEntryOk rd i) : s.validate .symbology rd len = some (.badBody, i) := by
  rw [State.validate, validateSymbology_eq, faultUnless_of_holds header, faultUnless_of_holds start,
    faultUnless_of_holds stop, (mapPass_firstBad rd).stops i hi before fault]
  rfl

theorem validate_symbology_of_map (map : ∀ j, j < symCount rd → symEntryOk rd j) :
    s.validate .symbology rd len =
      (faultUnless (symCovered rd) idxCoverage).map fun i => (Status.badBody, i) := by
  rw [State.validate, validateSymbology_eq, faultUnless_of_holds header, faultUnless_of_holds start,
    faultUnless_of_holds stop, (mapPass_firstBad rd).passes map]
  rfl

end

end

end Sys2Proof.Machine
end

section
/-! The items of FORM, FONT, SYMBOLOGY and COUNTER bodies (R41, R44, R59, R66, R75, R211, R212), and the settled
statement. -/

namespace Sys2Proof.Machine

theorem le32_eq (rd : Reader) (i : Nat) :
    le32 rd i = rd i + 256 * rd (i + 1) + 65536 * rd (i + 2) + 16777216 * rd (i + 3) := by
  simp only [le32, le16, Nat.add_assoc, Nat.reduceAdd]
  omega

section

variable (rd : Reader) (i : Nat)

theorem formField_kind_iff : ((formField rd i).kind = some .text ↔ rd (fieldOffset i) = 1) ∧
    ((formField rd i).kind = some .barcode ↔ rd (fieldOffset i) = 2) ∧
    ((formField rd i).kind = some .rule ↔ rd (fieldOffset i) = 3) := by
  rcases code : rd (fieldOffset i) with _ | _ | _ | _ | v <;> simp [formField, code]

theorem formField_rot90_iff :
    ((formField rd i).rot90 = some false ↔ rd (fieldOffset i + 1) = 0) ∧
    ((formField rd i).rot90 = some true ↔ rd (fieldOffset i + 1) = 1) := by
  rcases code : rd (fieldOffset i + 1) with _ | _ | v <;> simp [formField, code]

theorem formField_source_iff :
    ((formField rd i).source = some .constant ↔ rd (fieldOffset i + 6) = 1) ∧
    ((formField rd i).source = some .slot ↔ rd (fieldOffset i + 6) = 2) ∧
    ((formField rd i).source = some .counter ↔ rd (fieldOffset i + 6) = 3) := by
  rcases code : rd (fieldOffset i + 6) with _ | _ | _ | _ | v <;> simp [formField, code]

theorem getD_constText {j : Nat} (h : j < 32) :
    (formField rd i).constText.getD j 0 = rd (fieldOffset i + 32 + j) :=
  getD_map_range h fun j => rd (fieldOffset i + 32 + j)

theorem fontGlyph_eq : fontGlyph rd i = ⟨rd (16 + 8 * i), rd (16 + 8 * i + 1), rd (16 + 8 * i + 2),
    rd (16 + 8 * i + 4) + 256 * rd (16 + 8 * i + 5) + 65536 * rd (16 + 8 * i + 6)
      + 16777216 * rd (16 + 8 * i + 7)⟩ := by
  rw [fontGlyph, le32_eq]

end

section

variable {n most : Nat} (h : n ≤ most) (f : Nat → Nat)

include h

theorem length_map_range_min : ((List.range (min n most)).map f).length = n := by
  rw [List.length_map, List.length_range, Nat.min_eq_left h]

theorem getD_map_range_min {j : Nat} (hj : j < n) :
    ((List.range (min n most)).map f).getD j 0 = f j := by
  rw [Nat.min_eq_left h, getD_map_range hj]

end

/-- R212: two decimal digits to a byte, least significant first. -/
theorem bcd_eq_sum (rd : Reader) (o k : Nat) : bcd rd o k = ((List.range k).map fun j =>
    (rd (o + j) % 16 + 10 * (rd (o + j) / 16)) * 100 ^ j).sum := by
  induction k generalizing o with
  | zero => rfl
  | succ k ih =>
    rw [bcd, ih, List.range_succ_eq_map, List.map_cons, List.sum_cons, List.map_map,
      ← List.sum_map_mul_left]
    simp [Function.comp_def, Nat.pow_succ, Nat.add_assoc, Nat.add_comm 1, Nat.mul_comm, Nat.mul_left_comm]

/-- R52, R57: the handles of a field, with the kinds they must name. -/
theorem handles_of_text {f : Field} (kind : f.kind = some .text) : f.handles =
    (f.drawHandle, .font) ::
      if f.source = some .counter then [(f.counterHandle, .counter)] else [] := by
  simp only [Field.handles, kind]

theorem handles_of_barcode {f : Field} (kind : f.kind = some .barcode) : f.handles =
    (f.drawHandle, .symbology) ::
      if f.source = some .counter then [(f.counterHandle, .counter)] else [] := by
  simp only [Field.handles, kind]

theorem handles_of_rule {f : Field} (kind : f.kind = some .rule) : f.handles = [] := by
  simp only [Field.handles, kind]

theorem bodyReferences_form (rd : Reader) : bodyReferences .form rd =
    handleSet (namedHandles (formFields rd)) := by
  rw [bodyReferences, if_pos rfl, referenceList_eq]

/-- Settles O38: kind by kind, each pass by the first item at fault; then the items and the references. -/
theorem bodiesValidated : Obligations.BodiesValidated := by
  refine ⟨fun s rd len => ⟨validate_form_of_header, fun i => validate_form_of_field,
      fun header fields => ⟨fun i => validate_form_of_handles header fields,
        validate_form_passes header fields⟩⟩,
    fun s rd len => ⟨validate_font_of_header, fun i => validate_font_of_glyph,
      fun header glyphs => ⟨fun listed => ?_, fun unlisted => ?_⟩⟩,
    fun s rd len => ⟨validate_symbology_of_header, validate_symbology_of_start,
      validate_symbology_of_stop, fun header start stop =>
        ⟨fun i => validate_symbology_of_entry header start stop,
          fun map => ⟨fun covered => ?_, fun v modulus hv unvalued => ?_⟩⟩⟩,
    fun s rd len => ⟨fun ok => ?_, fun fault => ?_⟩,
    fun rd => ⟨rfl, rfl, rfl, rfl, ?_⟩,
    fun rd => ⟨rfl, rfl, rfl, ?_⟩,
    fun rd => ⟨rfl, rfl, rfl, rfl, beq_iff_eq, rfl, beq_iff_eq, rfl,
      fun few => ⟨length_map_range_min few _, fun j => getD_map_range_min few _⟩, rfl, rfl, ?_,
      fun o few => ⟨length_map_range_min few _, fun j => getD_map_range_min few _⟩⟩,
    fun rd => ⟨rfl, beq_iff_eq, beq_iff_eq, beq_iff_eq, rfl,
      fun few => ⟨length_map_range_min few _, fun j => getD_map_range_min few _⟩, ?_⟩,
    fun rd => ⟨rfl, rfl, rfl⟩, fun f => ⟨?_, ?_, ?_, ?_, handles_of_rule⟩, ?_,
    fun rd k other => if_neg other⟩
  · rw [validate_font_of_glyphs header glyphs, faultUnless_of_holds listed]
    rfl
  · rw [validate_font_of_glyphs header glyphs,
      faultUnless_of_fails fun ⟨i, hi, code⟩ => unlisted i hi code]
    rfl
  · rw [validate_symbology_of_map header start stop map, faultUnless_of_holds covered]
    rfl
  · have uncovered : ¬symCovered rd := fun covered =>
      let ⟨i, hi, value⟩ := covered modulus v hv
      unvalued i hi value
    rw [validate_symbology_of_map header start stop map, faultUnless_of_fails uncovered]
    rfl
  · rw [State.validate, validateCounter_eq, faultUnless_of_holds ok]
    rfl
  · rw [State.validate, validateCounter_eq, faultUnless_of_fails fault]
    rfl
  · rintro i _ _ rfl rfl
    obtain ⟨text, barcode, rule⟩ := formField_kind_iff rd i
    obtain ⟨normal, rotated⟩ := formField_rot90_iff rd i
    obtain ⟨constant, slot, counter⟩ := formField_source_iff rd i
    exact ⟨text, barcode, rule, normal, rotated, rfl, rfl, constant, slot, counter, rfl, rfl, rfl,
      rfl, rfl, rfl, rfl, rfl, rfl, rfl, List.length_map .., fun j => getD_constText rd i⟩
  · rintro i _ rfl
    exact fontGlyph_eq rd i
  · rintro i _ rfl
    rfl
  · intro digits sum
    have digits_eq : ∀ o k, bcd rd o k = digits o k := fun o k => by rw [bcd_eq_sum, sum]
    exact ⟨digits_eq 16 6, digits_eq 22 6, digits_eq 28 6, digits_eq 34 3⟩
  · exact fun kind plain => by rw [handles_of_text kind, if_neg plain]
  · exact fun kind counter => by rw [handles_of_text kind, if_pos counter]
  · exact fun kind plain => by rw [handles_of_barcode kind, if_neg plain]
  · exact fun kind counter => by rw [handles_of_barcode kind, if_pos counter]
  · rintro rd _ _ rfl rfl
    rw [bodyReferences_form]
    exact ⟨handleSet_nodup _, fun h => mem_handleSet, handleSet_pairwise _⟩

end Sys2Proof.Machine
end

section
/-! Sums over values by weights, the decimal digits of a number, and the draw of a counter (R71, R77 to R79,
R212). -/

namespace Sys2Proof.Machine

/-! ### Sums by a cycle of weights (R71, R77) -/

/-- Each value meets the weight of its place, which starts over behind the last. -/
theorem cycleSum_eq (weights : List Nat) (i : Nat) (vs : List Nat) :
    cycleSum weights i vs = ((List.range vs.length).map fun j =>
      vs.getD j 0 * weights.getD ((i + j) % weights.length) 0).sum := by
  induction vs generalizing i with
  | nil => rfl
  | cons v vs ih =>
    rw [cycleSum, ih, List.length_cons, List.range_succ_eq_map, List.map_cons, List.sum_cons,
      List.map_map]
    simp [Function.comp_def, Nat.add_assoc, Nat.add_comm 1]

/-! ### The drawn string (R77) -/

theorem digitsRev_eq (k n : Nat) :
    digitsRev k n = (List.range k).map fun j => n / 10 ^ j % 10 := by
  induction k generalizing n with
  | zero => rfl
  | succ k ih =>
    rw [digitsRev, ih, List.range_succ_eq_map, List.map_cons, List.map_map, Nat.pow_zero, Nat.div_one]
    simp only [Function.comp_def, Nat.succ_eq_add_one, Nat.pow_succ', Nat.div_div_eq_div_mul]

/-- The number of a drawn string: its digits from the leftmost on, as characters. -/
def drawNumber (rd : Reader) : List Byte :=
  (digitsRev (ctrDigits rd) (ctrValue rd)).reverse.map fun d => byte (0x30 + d)

theorem length_drawNumber (rd : Reader) : (drawNumber rd).length = ctrDigits rd := by
  simp [drawNumber, digitsRev_eq]

theorem getD_drawNumber {rd : Reader} {j : Nat} (h : j < ctrDigits rd) :
    (drawNumber rd).getD j 0
      = byte (0x30 + ctrValue rd / 10 ^ (ctrDigits rd - 1 - j) % 10) := by
  simp [drawNumber, digitsRev_eq, List.getD_eq_getElem?_getD, h]

/-- The check digit: what the weighted sum lacks to the next multiple of ten. -/
def drawCheck (rd : Reader) : Byte :=
  byte (0x30 + (10 - ((List.range (ctrDigits rd)).map fun j => ctrValue rd / 10 ^ j % 10
    * (ctrWeights rd).getD (j % (ctrWeights rd).length) 0).sum % 10) % 10)

theorem drawString_eq (rd : Reader) :
    drawString rd = drawNumber rd ++ if ctrWeighted rd then [drawCheck rd] else [] := by
  have sum : cycleSum (ctrWeights rd) 0 (digitsRev (ctrDigits rd) (ctrValue rd)) =
      ((List.range (ctrDigits rd)).map fun j => ctrValue rd / 10 ^ j % 10
        * (ctrWeights rd).getD (j % (ctrWeights rd).length) 0).sum := by
    rw [cycleSum_eq, digitsRev_eq, List.length_map, List.length_range]
    congr 1
    refine List.map_congr_left fun j hj => ?_
    rw [getD_map_range (List.mem_range.mp hj), Nat.zero_add]
  simp only [drawString, sum]
  split
  · rfl
  · rw [List.append_nil]
    rfl

theorem length_drawString (rd : Reader) :
    (drawString rd).length = ctrDigits rd + if ctrWeighted rd then 1 else 0 := by
  rw [drawString_eq, List.length_append, length_drawNumber]
  split <;> rfl

theorem getD_drawString_digit {rd : Reader} {j : Nat} (h : j < ctrDigits rd) :
    (drawString rd).getD j 0
      = byte (0x30 + ctrValue rd / 10 ^ (ctrDigits rd - 1 - j) % 10) := by
  rw [drawString_eq, List.getD_append _ _ _ _ (by rwa [length_drawNumber]), getD_drawNumber h]

theorem getD_drawString_check {rd : Reader} (weighted : ctrWeighted rd = true) :
    (drawString rd).getD (ctrDigits rd) 0 = drawCheck rd := by
  rw [drawString_eq, if_pos weighted, List.getD_append_right _ _ _ _ (by rw [length_drawNumber]),
    length_drawNumber, Nat.sub_self]
  rfl

/-! ### The value and the flag written (R78, R212) -/

theorem bcdBytes_eq (k n : Nat) : bcdBytes k n = (List.range k).map fun j =>
    byte (n / 100 ^ j % 10 + 16 * (n / 100 ^ j / 10 % 10)) := by
  induction k generalizing n with
  | zero => rfl
  | succ k ih =>
    rw [bcdBytes, ih, List.range_succ_eq_map, List.map_cons, List.map_map, Nat.pow_zero, Nat.div_one]
    simp only [Function.comp_def, Nat.succ_eq_add_one, Nat.pow_succ', Nat.div_div_eq_div_mul]

theorem length_bcdBytes (k n : Nat) : (bcdBytes k n).length = k := by
  rw [bcdBytes_eq, List.length_map, List.length_range]

theorem getD_bcdBytes {j k : Nat} (n : Nat) (h : j < k) : (bcdBytes k n).getD j 0 =
    byte (n / 100 ^ j % 10 + 16 * (n / 100 ^ j / 10 % 10)) := by
  simp [bcdBytes_eq, List.getD_eq_getElem?_getD, h]

/-- A value and an exhausted flag stand in the block that carries a counter's body. -/
def State.writeDraw (s : State) (blk : Nat) (a : Nat × Bool) : State :=
  (s.writeBytes (256 * blk + 16) (bcdBytes 6 a.1)).writeByte (256 * blk + 2) (byte (flagAt a.2 0))

section

variable (s : State) (blk : Nat) (a : Nat × Bool)

theorem State.writeDraw_rest : s.writeDraw blk a =
    { s with memory := (s.writeDraw blk a).memory, elements := (s.writeDraw blk a).elements } := by
  unfold writeDraw
  rw [writeBytes_rest]
  rfl

@[simp] theorem State.record_writeDraw (g : Nat) : (s.writeDraw blk a).record g = s.record g := by
  rw [writeDraw_rest]
  simp only [record]

@[simp] theorem State.writeDraw_free : (s.writeDraw blk a).free = s.free := by rw [writeDraw_rest]

@[simp] theorem State.writeDraw_eventStatus : (s.writeDraw blk a).eventStatus = s.eventStatus := by
  rw [writeDraw_rest]

theorem State.readByte_writeDraw_outside {x : Nat} (flag : x ≠ 256 * blk + 2)
    (value : x < 256 * blk + 16 ∨ 256 * blk + 22 ≤ x) :
    (s.writeDraw blk a).readByte x = s.readByte x := by
  rw [writeDraw, readByte_writeByte_ne _ _ flag,
    readByte_writeBytes_outside _ _ (by rw [length_bcdBytes]; omega)]

variable {s} (hc : s.canonical = true)

include hc

theorem State.canonical_writeDraw : (s.writeDraw blk a).canonical = true :=
  canonical_writeByte _ _ (canonical_writeBytes _ _ hc)

theorem State.readByte_writeDraw_flag :
    (s.writeDraw blk a).readByte (256 * blk + 2) = if a.2 then 1 else 0 := by
  rw [writeDraw, readByte_writeByte_same _ _ (canonical_writeBytes _ _ hc)]
  cases a.2 <;> rfl

theorem State.readByte_writeDraw_value {j : Nat} (hj : j < 6) :
    (s.writeDraw blk a).readByte (256 * blk + 16 + j)
      = byte (a.1 / 100 ^ j % 10 + 16 * (a.1 / 100 ^ j / 10 % 10)) := by
  rw [writeDraw, readByte_writeByte_ne _ _ (by omega),
    readByte_writeBytes_inside _ hc _ (by rwa [length_bcdBytes]), getD_bcdBytes _ hj]

end

/-- R78: a draw of a counter whose body begins in a block of the pool. -/
theorem State.drawOne_eq {s : State} {h blk : Nat} {b : Body}
    (current : (s.record h).current = some b) (block : b.blocks[0]? = some blk) :
    s.drawOne h = ((s.writeDraw blk (drawAdvance (s.content b.blocks))).unpinCounter h,
      drawString (s.content b.blocks)) := by
  have value (v : Nat) : s.writeContents b.blocks 16 (bcdBytes 6 v)
      = s.writeBytes (256 * blk + 16) (bcdBytes 6 v) :=
    writeContents_block block _ s 16 (by rw [length_bcdBytes]; decide)
  have flag (t : State) (x : Byte) :
      t.writeContent b.blocks 2 x = t.writeByte (256 * blk + 2) x :=
    writeContents_block block [x] t 2 (by simp)
  simp only [drawOne, current, value, flag, writeDraw]

/-! ### A pin released (R6, R12, R13) -/

@[simp] theorem State.setRecord_eventStatus (s : State) (h : Nat) (r : Record) :
    (s.setRecord h r).eventStatus = s.eventStatus := rfl

theorem State.raised_raise_recordFreed (s : State) : (s.raise .recordFreed).raised .recordFreed = true := by
  simp [raised, Cause.bit]

theorem State.freeIfRetired_of_kept {s : State} {h : Nat}
    (kept : (s.record h).state ≠ .retiring ∨ 0 < (s.record h).pins) : s.freeIfRetired h = s :=
  if_neg fun ⟨retiring, unpinned⟩ => kept.elim (fun other => other retiring) (by omega)

theorem State.freeIfRetired_of_unpinned {s : State} {h : Nat}
    (retiring : (s.record h).state = .retiring) (unpinned : (s.record h).pins = 0) :
    s.freeIfRetired h = (s.freeRecord h).raise .recordFreed := if_pos ⟨retiring, unpinned⟩

/-- A record with one pin on its current body released. -/
def Record.unpinned (r : Record) (b : Body) : Record :=
  { r with current := some { b with pins := b.pins - 1 } }

theorem Record.pins_unpinned (r : Record) (b : Body) :
    (r.unpinned b).pins = b.pins - 1 + bodyPins r.prior := Record.pins_eq _

theorem State.sameMemory_freeIfRetired (s : State) (h : Nat) : s.SameMemory (s.freeIfRetired h) := by
  unfold freeIfRetired
  obtain ⟨_, _, freed⟩ := tableWork_freeRecord s h
  dsimp only
  split
  · rw [freed]
    exact fun _ => rfl
  · exact fun _ => rfl

theorem State.sameMemory_unpinCounter (s : State) (h : Nat) : s.SameMemory (s.unpinCounter h) := by
  unfold unpinCounter
  dsimp only
  split
  · exact sameMemory_freeIfRetired _ h
  · exact fun _ => rfl

section

variable {s : State} {h : Nat} {b : Body} (hc : s.canonical = true)
  (current : (s.record h).current = some b)

include current

theorem State.unpinCounter_of_current :
    s.unpinCounter h = (s.setRecord h ((s.record h).unpinned b)).freeIfRetired h := by
  simp only [unpinCounter, current, Record.unpinned]

include hc

/-- R12: the counter's body loses one pin, where that frees nothing. -/
theorem State.unpinCounter_of_kept
    (kept : (s.record h).state ≠ .retiring ∨ 0 < b.pins - 1 + bodyPins (s.record h).prior) :
    s.unpinCounter h = s.setRecord h ((s.record h).unpinned b) := by
  rw [unpinCounter_of_current current, freeIfRetired_of_kept]
  rwa [record_setRecord_canonical h _ hc, Record.pins_unpinned]

/-- R13: the last pin of a RETIRING record frees it. -/
theorem State.unpinCounter_of_last (retiring : (s.record h).state = .retiring)
    (last : b.pins - 1 + bodyPins (s.record h).prior = 0) :
    (s.unpinCounter h).record h = Record.empty ∧ (s.unpinCounter h).raised .recordFreed = true ∧
      (s.unpinCounter h).free
        = s.free ++ b.blocks ++ ((s.record h).prior.elim [] fun x => x.blocks) := by
  have written := record_setRecord_canonical h ((s.record h).unpinned b) hc
  have freed : s.unpinCounter h
      = ((s.setRecord h ((s.record h).unpinned b)).freeRecord h).raise .recordFreed := by
    rw [unpinCounter_of_current current, freeIfRetired_of_unpinned]
    · rw [written]
      exact retiring
    · rw [written, Record.pins_unpinned, last]
  rw [freed]
  refine ⟨record_freeRecord_same (canonical_setRecord h _ hc) h, raised_raise_recordFreed _, ?_⟩
  exact (freeRecord_free _ h).trans (by rw [written]; rfl)

end

/-- Settles O60: the string digit by digit; the draw writes its bytes and then releases the pin, which leaves
record memory as written. -/
theorem counterDraw : Obligations.CounterDraw := by
  refine ⟨fun rd _ _ _ => ⟨length_drawString rd, fun j => getD_drawString_digit, getD_drawString_check⟩,
    fun rd => rfl, fun s h blk b canonical current block => ?_⟩
  rw [State.drawOne_eq current block]
  dsimp only
  generalize drawAdvance (s.content b.blocks) = a
  have memory := (s.writeDraw blk a).sameMemory_unpinCounter h
  have canonical' := State.canonical_writeDraw blk a canonical
  have same := s.record_writeDraw blk a
  have current' : ((s.writeDraw blk a).record h).current = some b := by rw [same, current]
  refine ⟨rfl, fun j hj => ?_, ?_, fun x flag value => ?_, fun kept => ?_, fun retiring last => ?_⟩
  · rw [memory, State.readByte_writeDraw_value blk a canonical hj]
  · rw [memory, State.readByte_writeDraw_flag blk a canonical]
  · rw [memory, s.readByte_writeDraw_outside blk a flag value]
  · rw [State.unpinCounter_of_kept canonical' current' (by rwa [same]), same]
    refine ⟨State.record_setRecord_canonical h _ canonical', fun g other => ?_, ?_, ?_⟩
    · rw [State.record_setRecord_ne _ _ other, same]
    · rw [State.setRecord_free, s.writeDraw_free]
    · rw [State.setRecord_eventStatus, s.writeDraw_eventStatus]
  · have freed := State.unpinCounter_of_last canonical' current' (by rwa [same]) (by rwa [same])
    rwa [same, s.writeDraw_free] at freed

end Sys2Proof.Machine
end

section
/-! BARCODE: the symbol of a string, its check value and the marks of its bars (R67, R70 to R73, R122). -/

namespace Sys2Proof.Machine

/-! ### The data characters of a string (R68, R70) -/

section

variable {rd : Reader}

theorem entryFor_of_listed {c : Nat} (listed : ∃ e ∈ symEntries rd, e.code = c) :
    ∃ e ∈ symEntries rd, e.code = c ∧ entryFor rd c = some e := by
  obtain ⟨e₀, mem₀, code₀⟩ := listed
  obtain ⟨e, found⟩ := Option.isSome_iff_exists.mp
    (List.find?_isSome.mpr ⟨e₀, mem₀, beq_iff_eq.mpr code₀⟩ : (entryFor rd c).isSome = true)
  have code := List.find?_some found
  exact ⟨e, List.mem_of_find?_eq_some found, eq_of_beq code, found⟩

theorem entryFor_of_unlisted {c : Nat} (unlisted : ∀ e ∈ symEntries rd, e.code ≠ c) :
    entryFor rd c = none :=
  List.find?_eq_none.mpr fun e mem => by simpa using unlisted e mem

/-- A string of listed codes has a data character for each of them. -/
theorem dataCharacters_of_listed {cs : List Nat}
    (listed : ∀ c ∈ cs, ∃ e ∈ symEntries rd, e.code = c) :
    ∃ es, es.map (fun e => e.code) = cs ∧ (∀ e ∈ es, e ∈ symEntries rd) ∧
      dataCharacters rd cs = some es := by
  induction cs with
  | nil => exact ⟨[], rfl, List.forall_mem_nil _, rfl⟩
  | cons c cs ih =>
    obtain ⟨here, behind⟩ := List.forall_mem_cons.mp listed
    obtain ⟨e, mem, code, entry⟩ := entryFor_of_listed here
    obtain ⟨es, codes, mems, rest⟩ := ih behind
    exact ⟨e :: es, by rw [List.map_cons, code, codes], List.forall_mem_cons.mpr ⟨mem, mems⟩,
      by simp only [dataCharacters, entry, rest]⟩

theorem dataCharacters_of_unlisted {cs : List Nat}
    (unlisted : ∃ c ∈ cs, ∀ e ∈ symEntries rd, e.code ≠ c) : dataCharacters rd cs = none := by
  induction cs with
  | nil => simp at unlisted
  | cons c cs ih =>
    obtain ⟨x, mem, other⟩ := unlisted
    rcases List.mem_cons.mp mem with rfl | behind
    · simp only [dataCharacters, entryFor_of_unlisted other]
    · simp only [dataCharacters, ih ⟨x, behind, other⟩]
      cases entryFor rd c <;> rfl

end

/-! ### The check value (R71) -/

theorem positionSum_eq (i : Nat) (vs : List Nat) :
    positionSum i vs = ((List.range vs.length).map fun j => vs.getD j 0 * (j + i)).sum := by
  induction vs generalizing i with
  | nil => rfl
  | cons v vs ih =>
    rw [positionSum, ih, List.length_cons, List.range_succ_eq_map, List.map_cons, List.sum_cons,
      List.map_map]
    simp [Function.comp_def, Nat.add_assoc, Nat.add_comm 1]

theorem checkValue_position {rd : Reader} (position : symCycle rd = false) (vs : List Nat) :
    checkValue rd vs
      = ((List.range vs.length).map fun i => vs.getD i 0 * (i + 1)).sum % symM rd := by
  rw [checkValue, position, if_neg Bool.false_ne_true, positionSum_eq]

theorem checkValue_cycle {rd : Reader} (cycle : symCycle rd = true) (vs : List Nat) :
    checkValue rd vs = ((List.range vs.length).map fun i => vs.reverse.getD i 0 *
      (symWeights rd).getD (i % (symWeights rd).length) 0).sum % symM rd := by
  simp only [checkValue, cycle, if_true, cycleSum_eq, List.length_reverse, Nat.zero_add]

/-! ### The bars of a symbol (R67, R72) -/

theorem symbolWidths_of_unchecked {rd : Reader} (unchecked : symModulus rd = false)
    (es : List MapEntry) :
    symbolWidths rd es = symStart rd ++ (es.map fun e => e.pattern).flatten ++ symStop rd := by
  simp [symbolWidths, checkCharacter, unchecked]

theorem symbolWidths_of_check {rd : Reader} {es : List MapEntry} {c : MapEntry}
    (modulus : symModulus rd = true)
    (check : (symEntries rd).find? (fun e => e.value == checkValue rd (es.map fun e => e.value))
      = some c) :
    symbolWidths rd es
      = symStart rd ++ (es.map fun e => e.pattern).flatten ++ c.pattern ++ symStop rd := by
  simp only [symbolWidths, checkCharacter, modulus, if_true, check]

/-- The bars of a row begin at its first module or behind, each where the one before it has ended. -/
theorem barsFrom_ordered (bar : Bool) (m : Nat) (ws : List Nat) :
    (∀ b ∈ barsFrom bar m ws, m ≤ b.1) ∧
      (barsFrom bar m ws).Pairwise fun a b => a.1 + a.2 ≤ b.1 := by
  induction ws generalizing bar m with
  | nil => cases bar <;> exact ⟨List.forall_mem_nil _, .nil⟩
  | cons w ws ih =>
    obtain ⟨behind, ordered⟩ := ih (!bar) (m + w)
    cases bar with
    | true =>
      exact ⟨List.forall_mem_cons.mpr ⟨le_refl m, fun b mem => by have := behind b mem; omega⟩,
        List.pairwise_cons.mpr ⟨behind, ordered⟩⟩
    | false => exact ⟨fun b mem => by have := behind b mem; omega, ordered⟩

theorem symbolOf_bars_pairwise (rd : Reader) (es : List MapEntry) :
    (symbolOf rd es).bars.Pairwise fun a b => a.1 + a.2 ≤ b.1 :=
  (barsFrom_ordered true _ _).2

/-! ### The mark of a bar (R72, R73, R122) -/

/-- The element entry of a bar with its visible box. -/
def barElement (left top dots lines : Nat) : Element :=
  { kind := .bar, top := top, left := left, lines := lines, dots := dots, glyphBody := 0,
    bitmap := 0, width := 0, height := 0, rot90 := false, cellTop := 0, cellLeft := 0 }

section

variable {size : FormSize} {f : Field} {shift : Int} {m w : Nat}

section

variable {first last : Int} (tall : 0 < f.barHeight)
  (hfirst : first = max ((f.x : Int) + shift + (m * f.moduleDots : Nat)) 0)
  (hlast : last = min ((f.x : Int) + shift + (m * f.moduleDots : Nat) + (w * f.moduleDots : Nat))
    size.width)

include tall hfirst hlast

theorem visibleBox_barBox : visibleBox size (barBox f false shift (m, w)) =
    if last ≤ first ∨ size.length ≤ f.y then none
    else some (first.toNat, f.y, (last - first).toNat, min f.barHeight (size.length - f.y)) := by
  have dots : clipInterval ((f.x : Int) + shift + (m * f.moduleDots : Nat)) (w * f.moduleDots)
      size.width = (first.toNat, (last - first).toNat) := by
    subst hfirst hlast
    rfl
  have outside : ((last - first).toNat = 0 ∨ min f.barHeight (size.length - f.y) = 0) ↔
      (last ≤ first ∨ size.length ≤ f.y) := by omega
  simp only [visibleBox, barBox, Bool.false_eq_true, if_false, dots, clipInterval_natCast, outside]

theorem plainElement_bar_of_visible (inside : first < last) (hy : f.y < size.length) :
    plainElement .bar size (barBox f false shift (m, w)) = some
      (barElement first.toNat f.y (last - first).toNat (min f.barHeight (size.length - f.y))) := by
  rw [plainElement, visibleBox_barBox tall hfirst hlast, if_neg (by omega)]
  rfl

theorem plainElement_bar_of_outside (outside : last ≤ first ∨ size.length ≤ f.y) :
    plainElement .bar size (barBox f false shift (m, w)) = none := by
  rw [plainElement, visibleBox_barBox tall hfirst hlast, if_pos outside, Option.map_none]

end

theorem plainElement_bar_of_inside {left : Nat}
    (hleft : (f.x : Int) + shift + (m * f.moduleDots : Nat) = left) (wide : 0 < w * f.moduleDots)
    (tall : 0 < f.barHeight) (hx : left + w * f.moduleDots ≤ size.width)
    (hy : f.y + f.barHeight ≤ size.length) :
    plainElement .bar size (barBox f false shift (m, w)) = some
      (barElement left f.y (w * f.moduleDots) f.barHeight) := by
  have hfirst : (left : Int) = max ((f.x : Int) + shift + (m * f.moduleDots : Nat)) 0 := by omega
  have hlast : (left : Int) + (w * f.moduleDots : Nat) = min ((f.x : Int) + shift
      + (m * f.moduleDots : Nat) + (w * f.moduleDots : Nat)) size.width := by omega
  rw [plainElement_bar_of_visible tall hfirst hlast (by omega) (by omega), Int.toNat_natCast,
    add_sub_cancel_left, Int.toNat_natCast, Nat.min_eq_left (by omega)]

theorem barBox_rotated (f : Field) (shift : Int) (m w : Nat) : barBox f true shift (m, w) =
    ⟨f.x, (f.y + m * f.moduleDots : Nat), f.barHeight, w * f.moduleDots⟩ := rfl

theorem plainElement_rotated_of_outside
    (outside : size.width ≤ f.x ∨ size.length ≤ f.y + m * f.moduleDots) :
    plainElement .bar size (barBox f true shift (m, w)) = none := by
  rw [plainElement, barBox_rotated, visibleBox_of_outside outside, Option.map_none]

theorem plainElement_rotated_of_visible (wide : 0 < w * f.moduleDots) (tall : 0 < f.barHeight)
    (hx : f.x < size.width) (hy : f.y + m * f.moduleDots < size.length) :
    plainElement .bar size (barBox f true shift (m, w)) = some
      (barElement f.x (f.y + m * f.moduleDots) (min f.barHeight (size.width - f.x))
        (min (w * f.moduleDots) (size.length - (f.y + m * f.moduleDots)))) := by
  rw [plainElement, barBox_rotated, visibleBox_of_inside tall wide hx hy]
  rfl

theorem plainElement_rotated_of_inside (wide : 0 < w * f.moduleDots) (tall : 0 < f.barHeight)
    (hx : f.x + f.barHeight ≤ size.width)
    (hy : f.y + m * f.moduleDots + w * f.moduleDots ≤ size.length) :
    plainElement .bar size (barBox f true shift (m, w)) = some
      (barElement f.x (f.y + m * f.moduleDots) f.barHeight (w * f.moduleDots)) := by
  rw [plainElement_rotated_of_visible wide tall (by omega) (by omega), Nat.min_eq_left (by omega),
    Nat.min_eq_left (by omega)]

end

theorem symbolFits_iff {size : FormSize} {f : Field} {shift : Int} {total : Nat} :
    symbolFits size f false shift total = true ↔ 0 ≤ (f.x : Int) + shift ∧
      (f.x : Int) + shift + (total * f.moduleDots : Nat) ≤ size.width ∧
      f.y + f.barHeight ≤ size.length := by
  simp only [symbolFits, Bool.false_eq_true, if_false, Bool.and_eq_true, decide_eq_true_eq,
    and_assoc]

theorem symbolFits_rotated_iff {size : FormSize} {f : Field} {shift : Int} {total : Nat} :
    symbolFits size f true shift total = true ↔
      f.y + total * f.moduleDots ≤ size.length ∧ f.x + f.barHeight ≤ size.width := by
  simp only [symbolFits, if_true, Bool.and_eq_true, decide_eq_true_eq]

/-! ### The field as laid out (R70, R119) -/

section

variable {rd : Reader} {f : Field} {cs : List Nat} (size : FormSize) (t : Station) (margin : Nat)
  (avoid rot : Bool)

theorem layBarcodeField_of_rejected
    (bad : f.maxChars < cs.length ∨ cs.length < symMin rd ∨ symMax rd < cs.length ∨
      ∃ c ∈ cs, ∀ e ∈ symEntries rd, e.code ≠ c) :
    layBarcodeField rd size t margin avoid f rot cs = .rejected := by
  have rejected : stringRejected rd f.maxChars cs = true := by
    simp only [stringRejected, Bool.or_eq_true, decide_eq_true_eq, or_assoc]
    exact bad.imp_right (Or.imp_right (Or.imp_right fun unlisted => by
      rw [dataCharacters_of_unlisted unlisted]
      rfl))
  rw [layBarcodeField, if_pos rejected]

/-- The shift of a field and its DOTS_IN_BARS: the search's for one that qualifies, else none (R120). -/
def shiftOf (size : FormSize) (t : Station) (margin : Nat) (avoid : Bool) (f : Field) (rot : Bool)
    (bars : List (Nat × Nat)) : Int × Bool :=
  if !rot && avoid && decide (0 < f.maxShift) then chooseShift t margin size.width f bars
  else (0, false)

theorem layBarcodeField_of_characters {es : List MapEntry} (most : cs.length ≤ f.maxChars)
    (least : symMin rd ≤ cs.length) (top : cs.length ≤ symMax rd)
    (characters : dataCharacters rd cs = some es) :
    layBarcodeField rd size t margin avoid f rot cs =
      let pick := shiftOf size t margin avoid f rot (symbolOf rd es).bars
      .placed ((symbolOf rd es).bars.filterMap fun b =>
          plainElement .bar size (barBox f rot pick.1 b))
        ((clippedIf (!symbolFits size f rot pick.1 (symbolOf rd es).total)).or (dotsInBarsIf pick.2))
        (some pick.1) := by
  have accepted : ¬stringRejected rd f.maxChars cs = true := by
    simp only [stringRejected, characters, Bool.or_eq_true, decide_eq_true_eq, Option.isNone_some,
      Bool.false_eq_true, or_false]
    omega
  simp only [layBarcodeField, if_neg accepted, characters]
  rfl

theorem shiftOf_of_qualifies (bars : List (Nat × Nat)) (straight : rot = false)
    (asked : avoid = true) (room : 0 < f.maxShift) :
    shiftOf size t margin avoid f rot bars = chooseShift t margin size.width f bars := by
  simp [shiftOf, straight, asked, room]

theorem shiftOf_of_not (bars : List (Nat × Nat))
    (other : rot = true ∨ avoid = false ∨ f.maxShift = 0) :
    shiftOf size t margin avoid f rot bars = (0, false) := by
  rcases other with rotated | unasked | fixed
  · simp [shiftOf, rotated]
  · simp [shiftOf, unasked]
  · simp [shiftOf, fixed]

end

end Sys2Proof.Machine
end

section
/-! Dot avoidance: the candidate shifts, the failed dots in bars and the choice among them (R120, R121, R182), and
the settled statement on BARCODE fields. -/

namespace Sys2Proof.Machine

/-! ### The candidates (R120) -/

/-- One more module of shift adds its two candidates at the end. -/
theorem candidateShifts_succ (m : Nat) :
    candidateShifts (m + 1) = candidateShifts m ++ [(m + 1 : Int), -(m + 1 : Int)] := by
  simp [candidateShifts, List.range_succ]

theorem length_candidateShifts (m : Nat) : (candidateShifts m).length = 2 * m + 1 := by
  induction m with
  | zero => rfl
  | succ m ih =>
    rw [candidateShifts_succ, List.length_append, ih]
    rfl

theorem getElem?_candidateShifts {m k : Nat} (h : k < m) :
    (candidateShifts m)[2 * k + 1]? = some (k + 1 : Int) ∧
      (candidateShifts m)[2 * k + 2]? = some (-(k + 1 : Int)) := by
  induction m with
  | zero => cases h
  | succ m ih =>
    have length := length_candidateShifts m
    rw [candidateShifts_succ]
    by_cases before : k < m
    · rw [List.getElem?_append_left (by omega), List.getElem?_append_left (by omega)]
      exact ih before
    · obtain rfl : k = m := by omega
      rw [List.getElem?_append_right (by omega), List.getElem?_append_right (by omega), length,
        Nat.sub_self, Nat.add_sub_add_left]
      exact ⟨rfl, rfl⟩

theorem shiftSkipped_iff {width : Nat} {f : Field} {bars : List (Nat × Nat)} {shift : Int} :
    shiftSkipped width f bars shift = true ↔ ∃ m w, (m, w) ∈ bars ∧
      ((f.x : Int) + shift + (m * f.moduleDots : Nat) < 0 ∨
        (width : Int) - 1 < (f.x : Int) + shift + ((m + w) * f.moduleDots : Nat) - 1) := by
  simp only [shiftSkipped, List.any_eq_true, Prod.exists, Bool.or_eq_true, decide_eq_true_eq]
  refine exists_congr fun m => exists_congr fun w => and_congr_right fun _ => ?_
  simp only [barSpan, Nat.add_mul]
  omega

/-! ### The choice (R121) -/

/-- An item of a list is the first of those with the least count. -/
def FirstLeast (count : Int → Nat) (l : List Int) (c : Int) : Prop :=
  ∃ pre rest, l = pre ++ c :: rest ∧ (∀ x ∈ pre, count c < count x) ∧
    ∀ x ∈ rest, count c ≤ count x

section

variable {count : Int → Nat} {b c d : Int} {cs : List Int}

theorem FirstLeast.of_head (least : ∀ x ∈ cs, count b ≤ count x) : FirstLeast count (b :: cs) b :=
  ⟨[], cs, rfl, List.forall_mem_nil _, least⟩

theorem FirstLeast.le {l : List Int} (h : FirstLeast count l d) {x : Int} (mem : x ∈ l) :
    count d ≤ count x := by
  obtain ⟨pre, rest, rfl, before, behind⟩ := h
  rcases List.mem_append.mp mem with mem | mem
  · exact (before x mem).le
  · exact (List.mem_cons.mp mem).elim (fun e => by rw [e]) (behind x)

/-- An item above one that stands behind it is passed over. -/
theorem FirstLeast.cons_greater {l : List Int} (h : FirstLeast count l d)
    (greater : count d < count b) : FirstLeast count (b :: l) d := by
  obtain ⟨pre, rest, rfl, before, behind⟩ := h
  exact ⟨b :: pre, rest, rfl, List.forall_mem_cons.mpr ⟨greater, before⟩, behind⟩

/-- An item that is not below one before it is passed over. -/
theorem FirstLeast.insert_second (h : FirstLeast count (b :: cs) d) (above : count b ≤ count c) :
    FirstLeast count (b :: c :: cs) d := by
  obtain ⟨pre, rest, list, before, behind⟩ := h
  cases pre with
  | nil =>
    obtain ⟨rfl, rfl⟩ := List.cons.inj list
    exact .of_head (List.forall_mem_cons.mpr ⟨above, behind⟩)
  | cons p pre =>
    obtain ⟨rfl, rfl⟩ := List.cons.inj list
    obtain ⟨first, before⟩ := List.forall_mem_cons.mp before
    exact ⟨b :: c :: pre, rest, rfl, List.forall_mem_cons.mpr
      ⟨first, List.forall_mem_cons.mpr ⟨first.trans_le above, before⟩⟩, behind⟩

/-- The search keeps the first least of what it holds and what is still to come. -/
theorem bestShift_firstLeast (count : Int → Nat) (b : Int) (cs : List Int) :
    ∃ d, bestShift count (some (b, count b)) cs = some (d, count d) ∧
      FirstLeast count (b :: cs) d := by
  induction cs generalizing b with
  | nil => exact ⟨b, rfl, .of_head (List.forall_mem_nil _)⟩
  | cons c cs ih =>
    rw [bestShift]
    split
    · next zero => exact ⟨b, rfl, .of_head fun x _ => by omega⟩
    · split
      · next less =>
        obtain ⟨d, found, least⟩ := ih c
        have below := least.le (List.mem_cons_self ..)
        exact ⟨d, found, least.cons_greater (by omega)⟩
      · next above =>
        obtain ⟨d, found, least⟩ := ih b
        exact ⟨d, found, least.insert_second (by omega)⟩

end

/-- The candidates that stay within the form (R120). -/
def keptShifts (width : Nat) (f : Field) (bars : List (Nat × Nat)) : List Int :=
  (candidateShifts f.maxShift).filter fun c => !shiftSkipped width f bars c

section

variable {t : Station} {margin width : Nat} {f : Field} {bars : List (Nat × Nat)}

theorem chooseShift_of_none_kept (empty : keptShifts width f bars = []) :
    chooseShift t margin width f bars = (0, decide (0 < failedInBars t margin width f bars 0)) := by
  rw [keptShifts] at empty
  simp only [chooseShift, empty, bestShift]

theorem chooseShift_of_kept (nonempty : keptShifts width f bars ≠ []) :
    ∃ d, chooseShift t margin width f bars
        = (d, decide (0 < failedInBars t margin width f bars d)) ∧
      FirstLeast (failedInBars t margin width f bars) (keptShifts width f bars) d := by
  obtain ⟨c, cs, kept⟩ := List.exists_cons_of_ne_nil nonempty
  obtain ⟨d, found, least⟩ := bestShift_firstLeast (failedInBars t margin width f bars) c cs
  refine ⟨d, ?_, kept ▸ least⟩
  rw [keptShifts] at kept
  simp only [chooseShift, kept, bestShift, found]

/-- R121: shift 0 where no candidate is left, and else the first candidate with the fewest failed dots. -/
theorem chooseShift_result {shift : Int} {warn : Bool}
    (chosen : chooseShift t margin width f bars = (shift, warn)) :
    warn = decide (0 < failedInBars t margin width f bars shift) ∧
      (keptShifts width f bars = [] → shift = 0) ∧
      (keptShifts width f bars ≠ [] →
        FirstLeast (failedInBars t margin width f bars) (keptShifts width f bars) shift) := by
  by_cases empty : keptShifts width f bars = []
  · obtain ⟨rfl, rfl⟩ := Prod.mk.inj ((chooseShift_of_none_kept empty).symm.trans chosen)
    exact ⟨rfl, fun _ => rfl, fun nonempty => absurd empty nonempty⟩
  · obtain ⟨d, found, least⟩ := chooseShift_of_kept (t := t) (margin := margin) empty
    obtain ⟨rfl, rfl⟩ := Prod.mk.inj (found.symm.trans chosen)
    exact ⟨rfl, fun none => absurd none empty, fun _ => least⟩

end

/-! ### The failed dots in bars (R120, R182) -/

theorem countP_range_eq_card (p : Nat → Bool) (n : Nat) :
    (List.range n).countP p = ((Finset.range n).filter fun x => p x = true).card := by
  rw [← Nat.count_eq_card_filter_range, Nat.count]
  simp

theorem countP_or_of_disjoint {α : Type} {p q : α → Bool} (l : List α)
    (apart : ∀ x, p x = true → q x = false) :
    l.countP (fun x => p x || q x) = l.countP p + l.countP q := by
  induction l with
  | nil => rfl
  | cons x l ih =>
    rw [List.countP_cons, List.countP_cons, List.countP_cons, ih]
    cases here : p x with
    | true => simp [apart x here, Nat.add_right_comm]
    | false => simp [Nat.add_assoc]

/-- What a family of disjoint properties covers is the sum of what each covers. -/
theorem sum_countP_of_disjoint {α β : Type} {p : β → α → Bool} {bs : List β} (l : List α)
    (apart : bs.Pairwise fun a b => ∀ x, p a x = true → p b x = false) :
    (bs.map fun b => l.countP (p b)).sum = l.countP fun x => bs.any fun b => p b x := by
  induction apart with
  | nil => simp
  | cons here _ ih =>
    simp only [List.map_cons, List.sum_cons, List.any_cons]
    rw [ih, countP_or_of_disjoint]
    intro x hx
    rw [List.any_eq_false]
    exact fun b mem => by rw [here b mem x hx]; exact Bool.false_ne_true

/-- A form dot lies under a bar at a shift. -/
def dotUnder (f : Field) (shift : Int) (b : Nat × Nat) (d : Nat) : Bool :=
  decide ((f.x : Int) + shift + (b.1 * f.moduleDots : Nat) ≤ d) &&
  decide ((d : Int) ≤ (f.x : Int) + shift + ((b.1 + b.2) * f.moduleDots : Nat) - 1)

/-- The map classes the head element of a form dot OPEN or SHORT. -/
def dotFailed (t : Station) (margin d : Nat) : Bool :=
  decide (d + margin < t.dotCount) &&
  decide ((t.map.getD (d + margin) (.good, 0)).1 ∈ [DotClass.open, .short])

theorem failedElement_eq (t : Station) (margin d : Nat) :
    t.failedElement (d + margin) = dotFailed t margin d := by
  unfold Station.failedElement dotFailed Station.mapEntry
  congr 1
  cases (t.map.getD (d + margin) (.good, 0)).1 <;> rfl

/-- Places counted from dot a on, as far as they lie inside the form, are form dots from a to a + n - 1. -/
theorem countP_places_eq (a : Int) (n width : Nat) (p : Nat → Bool) :
    ((List.range n).countP fun (j : Nat) =>
        decide (0 ≤ a + j) && decide (a + j < width) && p (a + j).toNat)
      = (List.range width).countP fun (d : Nat) =>
        decide (a ≤ d) && decide ((d : Int) ≤ a + n - 1) && p d := by
  have back (d : Nat) (low : a ≤ d) : a + ((d - a).toNat : Nat) = d := by omega
  rw [countP_range_eq_card, countP_range_eq_card]
  simp only [Bool.and_eq_true, decide_eq_true_eq]
  refine Finset.card_nbij' (fun j => (a + j).toNat) (fun d => (d - a).toNat)
    (fun j hj => ?_) (fun d hd => ?_) (fun j hj => ?_) (fun d hd => ?_)
  · obtain ⟨hj, ⟨low, high⟩, failed⟩ := Finset.mem_filter.mp hj
    rw [Finset.mem_range] at hj
    beta_reduce
    exact Finset.mem_filter.mpr ⟨Finset.mem_range.mpr (by omega), ⟨by omega, by omega⟩, failed⟩
  · obtain ⟨hd, ⟨low, high⟩, failed⟩ := Finset.mem_filter.mp hd
    rw [Finset.mem_range] at hd
    beta_reduce
    refine Finset.mem_filter.mpr ⟨Finset.mem_range.mpr (by omega), ?_⟩
    rw [back d low]
    exact ⟨⟨by omega, by omega⟩, failed⟩
  · obtain ⟨-, ⟨low, -⟩, -⟩ := Finset.mem_filter.mp hj
    dsimp only
    omega
  · obtain ⟨-, ⟨low, -⟩, -⟩ := Finset.mem_filter.mp hd
    dsimp only
    omega

section

variable (t : Station) (margin width : Nat) (f : Field) (shift : Int)

/-- R120: the places of a bar inside the form with a failed element are the failed form dots under it. -/
theorem failedInSpan_eq (b : Nat × Nat) : failedInSpan t margin width (barSpan f shift b) =
    (List.range width).countP fun d => dotUnder f shift b d && dotFailed t margin d := by
  rw [failedInSpan, ← List.countP_eq_length_filter]
  simp only [barSpan, failedElement_eq, dotUnder, Nat.add_mul, Nat.cast_add, ← add_assoc]
  exact countP_places_eq _ _ _ _

theorem failedInBars_eq_sum (bars : List (Nat × Nat)) : failedInBars t margin width f bars shift =
    (bars.map fun b => (List.range width).countP fun d =>
      dotUnder f shift b d && dotFailed t margin d).sum := by
  simp only [failedInBars, failedInSpan_eq]

variable {f shift}

/-- No dot lies under two bars of which one begins where the other has ended, or behind. -/
theorem dotUnder_disjoint {a b : Nat × Nat} (behind : a.1 + a.2 ≤ b.1) {d : Nat}
    (under : dotUnder f shift a d = true) : dotUnder f shift b d = false := by
  have scaled := Nat.mul_le_mul_right f.moduleDots behind
  simp only [dotUnder, Bool.and_eq_true, decide_eq_true_eq, Bool.and_eq_false_iff,
    decide_eq_false_iff_not] at under ⊢
  omega

theorem failedInBars_eq_countP {bars : List (Nat × Nat)}
    (ordered : bars.Pairwise fun a b => a.1 + a.2 ≤ b.1) :
    failedInBars t margin width f bars shift = (List.range width).countP fun d =>
      bars.any (fun b => dotUnder f shift b d) && dotFailed t margin d := by
  have apart : bars.Pairwise fun a b => ∀ d, (dotUnder f shift a d && dotFailed t margin d) = true →
      (dotUnder f shift b d && dotFailed t margin d) = false := by
    refine ordered.imp fun behind d failed => ?_
    rw [dotUnder_disjoint behind (Bool.and_elim_left failed), Bool.false_and]
  rw [failedInBars_eq_sum, sum_countP_of_disjoint _ apart]
  congr 1
  funext d
  rw [Bool.eq_iff_iff]
  simp only [List.any_eq_true, Bool.and_eq_true]
  exact ⟨fun ⟨b, mem, under, failed⟩ => ⟨⟨b, mem, under⟩, failed⟩,
    fun ⟨⟨b, mem, under⟩, failed⟩ => ⟨b, mem, under, failed⟩⟩

end

/-- Settles O45: a listed string has its data characters, and the field is laid out from their symbol; the marks, the
check value, the candidates and the counts follow by the rules of their functions. -/
theorem barcodesPlaced : Obligations.BarcodesPlaced := by
  refine ⟨fun rd size t margin avoid f rot cs =>
      ⟨layBarcodeField_of_rejected size t margin avoid rot, fun most least top listed => ?_⟩,
    fun rd es => ⟨rfl, rfl, fun unchecked => symbolWidths_of_unchecked unchecked es,
      fun c => symbolWidths_of_check⟩,
    fun m w g ws => ⟨rfl, rfl, rfl⟩,
    fun size f shift m w left => plainElement_bar_of_inside,
    fun size f shift m w => plainElement_rotated_of_inside,
    fun size f shift first last m w tall hfirst hlast =>
      ⟨plainElement_bar_of_visible tall hfirst hlast, plainElement_bar_of_outside tall hfirst hlast⟩,
    fun size f shift m w top wide tall htop => ?_,
    fun size f shift total => ⟨symbolFits_iff, symbolFits_rotated_iff⟩,
    fun t margin width f bars shift warn => chooseShift_result,
    fun rd vs => ⟨fun position => checkValue_position position vs,
      fun cycle => checkValue_cycle cycle vs⟩,
    fun width f bars shift => shiftSkipped_iff,
    fun t margin width f bars shift =>
      ⟨failedInBars_eq_sum t margin width f shift bars, failedInBars_eq_countP t margin width⟩,
    symbolOf_bars_pairwise,
    fun m => ⟨length_candidateShifts m, rfl, fun k => getElem?_candidateShifts⟩⟩
  · obtain ⟨es, codes, mems, characters⟩ := dataCharacters_of_listed listed
    refine ⟨es, _, _, codes, mems,
      layBarcodeField_of_characters size t margin avoid rot most least top characters, ?_, rfl, rfl,
      fun straight asked room => ?_, fun other => ?_⟩
    · exact Bool.or_false _
    · exact shiftOf_of_qualifies size t margin avoid rot _ straight asked room
    · rw [shiftOf_of_not size t margin avoid rot _ other]
      exact ⟨rfl, rfl⟩
  · subst htop
    exact ⟨plainElement_rotated_of_visible wide tall, plainElement_rotated_of_outside⟩

end Sys2Proof.Machine
end

section
/-! The end of an event at the channels and the BMA: what a request changes, when none is left to make, and what the
grant finds (R85, R87, R93, R94, R101, R102). -/

namespace Sys2Proof.Machine

/-! ### A channel's request, case by case -/

section

variable {ch : Channel} {full : Bool}

theorem Channel.request_of_transfer (asked : ch.xfer ≠ none) : ch.request full = ch := by
  rw [Channel.request, if_pos (Option.isSome_iff_ne_none.mpr asked)]

theorem Channel.request_of_pending (free : ch.xfer = none) (pending : ch.pendingCompletions ≠ []) :
    ch.request full = { ch with xfer := some .pendingCompletion } := by
  rw [Channel.request, if_neg (by simp [free]), if_pos pending]

theorem Channel.request_of_hand {h : Hand} (free : ch.xfer = none)
    (written : ch.pendingCompletions = []) (hand : ch.hand = some h) :
    ch.request full = { ch with xfer := h.work.transfer } := by
  simp [Channel.request, free, written, hand]

section

variable (free : ch.xfer = none) (written : ch.pendingCompletions = []) (empty : ch.hand = none)

include free written empty

theorem Channel.request_of_running (running : ch.state = .running) :
    ch.request full =
      if full then { ch with state := .full } else { ch with xfer := some .fetch, pollLatch := false } := by
  simp [Channel.request, free, written, empty, running]

theorem Channel.request_of_suspended (suspended : ch.state = .suspended) :
    ch.request full =
      if ch.refetchDue then { ch with xfer := some .fetch, pollLatch := false, refetchDue := false }
      else ch := by
  simp [Channel.request, free, written, empty, suspended]

end

theorem Channel.request_of_stopped (stopped : ch.state = .stopped) (empty : ch.hand = none)
    (written : ch.pendingCompletions = []) : ch.request full = ch := by
  simp [Channel.request, stopped, written, empty]

end

/-- A request touches the state, the transfer, the poll latch and the refetch alone; the state only where a RUNNING
channel without a descriptor in hand becomes FULL. -/
theorem Channel.request_eq (ch : Channel) (full : Bool) :
    ∃ state xfer latch due, ch.request full =
        { ch with state := state, xfer := xfer, pollLatch := latch, refetchDue := due } ∧
      (state = ch.state ∨ ch.state = .running ∧ state = .full ∧ ch.hand = none ∧ full = true) ∧
      (ch.pollLatch = false → latch = false) ∧ (ch.refetchDue = false → due = false) := by
  have same : ∀ x, { ch with xfer := x } = { ch with
      state := ch.state, xfer := x, pollLatch := ch.pollLatch, refetchDue := ch.refetchDue } :=
    fun _ => rfl
  unfold Channel.request
  split
  · exact ⟨_, _, _, _, same ch.xfer, .inl rfl, id, id⟩
  split
  · exact ⟨_, _, _, _, same _, .inl rfl, id, id⟩
  split
  · exact ⟨_, _, _, _, same _, .inl rfl, id, id⟩
  next empty =>
  split
  next running =>
    split
    · next held => exact ⟨_, _, _, _, rfl, .inr ⟨running, rfl, empty, held⟩, id, id⟩
    · exact ⟨_, _, _, _, rfl, .inl rfl, fun _ => rfl, id⟩
  · split
    · exact ⟨_, _, _, _, rfl, .inl rfl, fun _ => rfl, fun _ => rfl⟩
    · exact ⟨_, _, _, _, same ch.xfer, .inl rfl, id, id⟩
  · exact ⟨_, _, _, _, same ch.xfer, .inl rfl, id, id⟩
  · exact ⟨_, _, _, _, same ch.xfer, .inl rfl, id, id⟩

section

variable (ch : Channel) (full : Bool)

@[simp] theorem Channel.request_base : (ch.request full).base = ch.base := by
  obtain ⟨_, _, _, _, e, -⟩ := ch.request_eq full; rw [e]
@[simp] theorem Channel.request_size : (ch.request full).size = ch.size := by
  obtain ⟨_, _, _, _, e, -⟩ := ch.request_eq full; rw [e]
@[simp] theorem Channel.request_fetchIndex : (ch.request full).fetchIndex = ch.fetchIndex := by
  obtain ⟨_, _, _, _, e, -⟩ := ch.request_eq full; rw [e]
@[simp] theorem Channel.request_stopCause : (ch.request full).stopCause = ch.stopCause := by
  obtain ⟨_, _, _, _, e, -⟩ := ch.request_eq full; rw [e]
@[simp] theorem Channel.request_stopPending : (ch.request full).stopPending = ch.stopPending := by
  obtain ⟨_, _, _, _, e, -⟩ := ch.request_eq full; rw [e]
@[simp] theorem Channel.request_held : (ch.request full).held = ch.held := by
  obtain ⟨_, _, _, _, e, -⟩ := ch.request_eq full; rw [e]
@[simp] theorem Channel.request_pendingCompletions :
    (ch.request full).pendingCompletions = ch.pendingCompletions := by
  obtain ⟨_, _, _, _, e, -⟩ := ch.request_eq full; rw [e]
@[simp] theorem Channel.request_autoPollTimer :
    (ch.request full).autoPollTimer = ch.autoPollTimer := by
  obtain ⟨_, _, _, _, e, -⟩ := ch.request_eq full; rw [e]
@[simp] theorem Channel.request_failing : (ch.request full).failing = ch.failing := by
  obtain ⟨_, _, _, _, e, -⟩ := ch.request_eq full; rw [e]
@[simp] theorem Channel.request_written : (ch.request full).written = ch.written := by
  obtain ⟨_, _, _, _, e, -⟩ := ch.request_eq full; rw [e]

variable {ch full}

theorem Channel.request_pollLatch (h : ch.pollLatch = false) : (ch.request full).pollLatch = false := by
  obtain ⟨_, _, _, _, e, -, latch, -⟩ := ch.request_eq full
  rw [e]
  exact latch h

theorem Channel.request_refetchDue (h : ch.refetchDue = false) :
    (ch.request full).refetchDue = false := by
  obtain ⟨_, _, _, _, e, -, -, due⟩ := ch.request_eq full
  rw [e]
  exact due h

/-- The state changes only where a RUNNING channel without a descriptor in hand becomes FULL. -/
theorem Channel.request_state (h : ch.state ≠ .running ∨ ch.hand ≠ none) :
    (ch.request full).state = ch.state := by
  obtain ⟨_, _, _, _, e, same | ⟨running, -, empty, -⟩, -⟩ := ch.request_eq full
  · rw [e]
    exact same
  · exact (h.elim (· running) (· empty)).elim

end

/-! ### A channel with no request left to make -/

/-- A channel without a transfer has none to ask for (R85, R87, R93). -/
def Channel.Resting (ch : Channel) : Prop :=
  ch.xfer = none → ch.pendingCompletions = [] ∧ (∀ h, ch.hand = some h → h.work.transfer = none) ∧
    (ch.hand = none → ch.state ≠ .running ∧ (ch.state = .suspended → ch.refetchDue = false))

theorem Channel.resting_of_request {ch : Channel} {full : Bool} (e : ch.request full = ch) :
    ch.Resting := by
  intro free
  have same := congrArg Channel.xfer e
  have written : ch.pendingCompletions = [] := by
    by_contra pending
    rw [request_of_pending free pending, free] at same
    cases same
  refine ⟨written, fun h hand => ?_, fun empty => ⟨fun running => ?_, fun suspended => ?_⟩⟩
  · rw [request_of_hand free written hand, free] at same
    exact same
  · rw [request_of_running free written empty running] at e
    cases full
    · rw [← e] at free
      cases free
    · rw [← e] at running
      cases running
  · rw [request_of_suspended free written empty suspended, free] at same
    cases due : ch.refetchDue
    · rfl
    · rw [due] at same
      cases same

theorem Channel.request_of_resting {ch : Channel} (full : Bool) (r : ch.Resting) :
    ch.request full = ch := by
  by_cases free : ch.xfer = none
  · obtain ⟨written, work, fetch⟩ := r free
    cases hand : ch.hand with
    | some h => rw [request_of_hand free written hand, work h hand, ← free]
    | none =>
      obtain ⟨running, suspended⟩ := fetch hand
      cases state : ch.state with
      | stopped => exact request_of_stopped state hand written
      | running => exact absurd state running
      | suspended =>
        rw [request_of_suspended free written hand state, suspended state, if_neg Bool.false_ne_true]
      | full => simp [Channel.request, free, written, hand, state]
  · exact request_of_transfer free

/-- A request is made whole at once. -/
theorem Channel.resting_request (ch : Channel) (full : Bool) : (ch.request full).Resting := by
  by_cases free : ch.xfer = none
  swap
  · rw [request_of_transfer free]
    exact fun h => absurd h free
  by_cases written : ch.pendingCompletions = []
  swap
  · rw [request_of_pending free written]
    exact nofun
  cases hand : ch.hand with
  | some h =>
    rw [request_of_hand free written hand]
    refine fun none => ⟨written, fun g hg => ?_, fun empty => ?_⟩
    · cases hand.symm.trans hg
      exact none
    · cases hand.symm.trans empty
  | none =>
    cases state : ch.state with
    | stopped =>
      rw [request_of_stopped state hand written]
      exact fun _ => ⟨written, fun _ h => (nomatch hand.symm.trans h), fun _ => by simp [state]⟩
    | running =>
      rw [request_of_running free written hand state]
      cases full
      · exact nofun
      · exact fun _ => ⟨written, fun _ h => (nomatch hand.symm.trans h), fun _ => by simp⟩
    | suspended =>
      rw [request_of_suspended free written hand state]
      cases due : ch.refetchDue
      · exact fun _ => ⟨written, fun _ h => (nomatch hand.symm.trans h), fun _ => by simp [state, due]⟩
      · exact nofun
    | full =>
      have same : ch.request full = ch := by simp [Channel.request, free, written, hand, state]
      rw [same]
      exact fun _ => ⟨written, fun _ h => (nomatch hand.symm.trans h), fun _ => by simp [state]⟩

/-! ### The requests of the five channels -/

/-- The conditions of FULL read the queue of the station, and the held set and fetch index of the channel (R94). -/
theorem State.fullCondition_congr {s t : State} {c : Chan}
    (queue : ∀ n, c = .station n → (t.station n).queue = (s.station n).queue)
    (held : (t.chan c).held = (s.chan c).held) (index : (t.chan c).fetchIndex = (s.chan c).fetchIndex) :
    t.fullCondition c = s.fullCondition c := by
  cases c with
  | control => rfl
  | station n =>
    have held' : (t.rings.get n).held = (s.rings.get n).held := held
    have index' : (t.rings.get n).fetchIndex = (s.rings.get n).fetchIndex := index
    simp only [fullCondition, queue n rfl, held', index']

theorem State.chan_request (s : State) (c : Chan) :
    (s.request c).chan c = (s.chan c).request (s.fullCondition c) := chan_updChan ..

theorem State.chan_request_ne (s : State) {c d : Chan} (h : d ≠ c) :
    (s.request c).chan d = s.chan d := chan_updChan_ne s _ h

theorem State.fullCondition_request_ne (s : State) {c d : Chan} (h : d ≠ c) :
    (s.request c).fullCondition d = s.fullCondition d := by
  refine fullCondition_congr (fun n _ => ?_) ?_ ?_
  · exact congrArg Station.queue (station_updChan ..)
  · rw [chan_request_ne s h]
  · rw [chan_request_ne s h]

theorem State.chan_foldl_request (l : List Chan) (nodup : l.Nodup) :
    ∀ (s : State) (c : Chan), (l.foldl State.request s).chan c =
      if c ∈ l then (s.chan c).request (s.fullCondition c) else s.chan c := by
  induction l with
  | nil => intros; rfl
  | cons d l ih =>
    intro s c
    obtain ⟨fresh, nodup⟩ := List.nodup_cons.mp nodup
    rw [List.foldl_cons, ih nodup]
    by_cases e : c = d
    · subst e
      rw [if_neg fresh, if_pos (List.mem_cons_self ..), chan_request]
    · simp only [List.mem_cons, e, false_or, chan_request_ne s e, fullCondition_request_ne s e]

theorem State.grant_chan (s : State) (c : Chan) : s.grant.chan c = s.chan c := by
  obtain ⟨b, p, x, e⟩ := s.grant_eq
  rw [e]
  cases c <;> rfl

/-- The end of an event at a channel is the request it makes. -/
theorem State.chan_settleBus (s : State) (c : Chan) :
    s.settleBus.chan c = (s.chan c).request (s.fullCondition c) := by
  rw [settleBus, grant_chan, chan_foldl_request _ (by decide), if_pos (Chan.mem_all c)]

/-- The end of an event at the channels leaves all but the channels and the BMA. -/
theorem State.settleBus_eq (s : State) :
    s.settleBus = { s with
      control := s.settleBus.control, rings := s.settleBus.rings, bus := s.settleBus.bus,
      transfer := s.settleBus.transfer, pointer := s.settleBus.pointer } := by
  obtain ⟨_, _, _, _, _, -, e⟩ := busWork_settleBus s
  rw [e]

theorem State.station_settleBus (s : State) (n : StationNo) :
    s.settleBus.station n = s.station n := by
  rw [settleBus_eq]
  rfl

theorem State.fullCondition_settleBus (s : State) (c : Chan) :
    s.settleBus.fullCondition c = s.fullCondition c :=
  fullCondition_congr (fun n _ => by rw [station_settleBus]) (by rw [chan_settleBus, Channel.request_held])
    (by rw [chan_settleBus, Channel.request_fetchIndex])

/-! ### The BMA at rest -/

theorem Chan.mem_circleFrom (p c : Chan) : c ∈ circleFrom p := by
  rcases p with _ | ⟨_ | _ | _ | _⟩ <;> rcases c with _ | ⟨_ | _ | _ | _⟩ <;> decide

theorem State.waiting_iff {s : State} {c : Chan} : s.waiting c = true ↔ (s.chan c).xfer ≠ none :=
  Option.isSome_iff_ne_none

/-- In both modes a grant is found where a request waits (R102). -/
theorem State.arbitrate_eq_none_iff {s : State} :
    s.arbitrate = none ↔ ∀ c, (s.chan c).xfer = none := by
  have idle : ∀ c, (s.chan c).xfer = none ↔ s.waiting c = false := fun c => by
    rw [← Bool.not_eq_true, waiting_iff, not_not]
  simp only [idle]
  unfold arbitrate
  cases s.arbiter with
  | rotate =>
    simp only [List.find?_eq_none, Bool.not_eq_true]
    exact ⟨fun h c => h c (Chan.mem_circleFrom _ c), fun h c _ => h c⟩
  | labelsFirst =>
    dsimp only
    split
    · next c found =>
      have := List.find?_some found
      simp only [Bool.and_eq_true] at this
      simp only [reduceCtorEq, false_iff, not_forall, Bool.not_eq_false]
      exact ⟨c, this.2⟩
    · next absent =>
      have stations : ∀ c, c ≠ .control → s.waiting c = false := fun c hc => by
        simpa [hc] using List.find?_eq_none.mp absent c (Chan.mem_circleFrom _ c)
      constructor
      · intro none c
        by_cases e : c = .control
        · subst e
          by_contra waits
          rw [Bool.not_eq_false] at waits
          rw [if_pos waits] at none
          cases none
        · exact stations c e
      · intro all
        rw [all .control, if_neg Bool.false_ne_true]

/-- The BMA and the channels have nothing to do where every channel rests and no request waits beside a free bus. -/
theorem State.busQuiet_iff_resting {s : State} :
    s.busQuiet = true ↔
      (∀ c, (s.chan c).Resting) ∧ (s.bus = none → ∀ c, (s.chan c).xfer = none) := by
  have channel : ∀ c, s.request c = s ↔ (s.chan c).Resting := fun c => by
    constructor
    · intro e
      exact Channel.resting_of_request ((chan_request s c).symm.trans (congrArg (State.chan · c) e))
    · exact fun r => updChan_self (Channel.request_of_resting _ r)
  rw [busQuiet_iff, arbitrate_eq_none_iff]
  simp only [channel]
  refine and_congr_right fun _ => ?_
  cases s.bus <;> simp

/-- The end of an event leaves nothing to do at the channels and the BMA. -/
theorem State.busQuiet_settleBus (s : State) : s.settleBus.busQuiet = true := by
  rw [busQuiet_iff_resting]
  refine ⟨fun c => ?_, ?_⟩
  · rw [chan_settleBus]
    exact Channel.resting_request _ _
  · have free : ∀ x : State, x.grant.bus = none → ∀ c, (x.chan c).xfer = none := fun x => by
      unfold grant
      split
      · next granted => exact fun h => by simp [h] at granted
      · split
        · exact nofun
        · next none => exact fun _ => arbitrate_eq_none_iff.mp none
    intro h c
    rw [settleBus, grant_chan]
    exact free _ h c

end Sys2Proof.Machine
end

section
/-! When nothing is left to do at the stations, the Composer and the DCU, in the terms of the rules (R115, R136, R141,
R142, R157, R186); the items on which that depends. -/

namespace Sys2Proof.Machine

/-! ### A station at rest -/

/-- Every entry paired with a label has its last-start time (R136). -/
def Station.Paired (t : Station) : Prop :=
  ∀ (k : Nat) (e : Trigger) (l : Label), t.triggers[k]? = some e → t.eligible[k]? = some l →
    e.lastStart ≠ none

/-- The start test has nothing to start or to dispose of (R141, R142). -/
def Station.Waits (t : Station) : Prop :=
  ∀ l, t.queue.head? = some l → t.state = .idle → l.mark = none → t.headServed = true →
    l.state ≠ .ready ∧ l.state ≠ .failed

/-- The station is IDLE with an empty queue and a park delay (R157). -/
def Station.Parks (t : Station) : Prop :=
  ∃ p, t.profile = some p ∧ t.state = .idle ∧ t.queue = [] ∧ p.parkDelay ≠ 0

/-- What newPair? finds is a paired entry without a last-start time, with its label. -/
theorem Station.newPair?_eq_some {t : Station} {k : Nat} {e : Trigger} {l : Label}
    (h : t.newPair? = some (k, e, l)) :
    t.triggers[k]? = some e ∧ t.eligible[k]? = some l ∧ e.lastStart = none := by
  have mem := List.mem_of_mem_head? h
  simp only [List.mem_filterMap] at mem
  obtain ⟨j, -, found⟩ := mem
  split at found
  · next trigger label =>
    split at found
    · next unset =>
      simp only [Option.some.injEq, Prod.mk.injEq] at found
      obtain ⟨rfl, rfl, rfl⟩ := found
      exact ⟨trigger, label, Option.isNone_iff_eq_none.mp unset⟩
    · cases found
  · cases found

theorem Station.newPair?_eq_none_iff {t : Station} : t.newPair? = none ↔ t.Paired := by
  constructor
  · intro none k e l trigger label unset
    rw [newPair?, List.head?_eq_none_iff, List.filterMap_eq_nil_iff] at none
    have here := none k (List.mem_range.mpr (List.getElem?_eq_some_iff.mp trigger).1)
    simp [trigger, label, unset] at here
  · intro paired
    by_contra some
    obtain ⟨⟨k, e, l⟩, found⟩ := Option.ne_none_iff_exists'.mp some
    obtain ⟨trigger, label, unset⟩ := newPair?_eq_some found
    exact paired k e l trigger label unset

/-- In both modes the head is served only with a profile present. -/
theorem Station.profile_of_headServed {t : Station} (h : t.headServed = true) : t.profile ≠ none := by
  intro none
  simp [headServed, mode?, none] at h

theorem State.startTest_eq_wait_iff {s : State} {n : StationNo} :
    s.startTest n = .wait ↔ (s.station n).Waits := by
  unfold startTest Station.Waits
  dsimp only
  cases (s.station n).queue.head? with
  | none => simp
  | some l =>
    simp only [Option.some.injEq, forall_eq']
    split
    · next out =>
      simp only [true_iff]
      intro idle unmarked served
      rcases out with h | h | h
      · exact absurd idle h
      · simp [unmarked] at h
      · simp [served] at h
    · next into =>
      simp only [not_or, not_not, Bool.not_eq_false, Option.not_isSome_iff_eq_none] at into
      obtain ⟨idle, unmarked, served⟩ := into
      simp only [idle, unmarked, served, forall_true_left]
      cases l.state with
      | ready =>
        obtain ⟨p, profile⟩ := Option.ne_none_iff_exists'.mp (Station.profile_of_headServed served)
        rw [profile]
        dsimp only
        split <;> simp
      | _ => simp

/-- The park timer is up to date where it runs at exactly the stations that are to park (R157). -/
theorem Station.parkTimerAt_eq_iff {t : Station} {clock : Word} :
    t.parkTimerAt clock = t.parkTimer ↔ (t.parkTimer.isSome = true ↔ t.Parks) := by
  unfold parkTimerAt Parks
  cases t.profile with
  | none => cases t.parkTimer <;> simp
  | some p =>
    simp only [Option.some.injEq, exists_eq_left']
    split
    · next parks => cases t.parkTimer <;> simp [parks]
    · next stays => cases t.parkTimer <;> simp [stays]

/-- Nothing is left to do at a station. -/
structure Station.Rests (t : Station) : Prop where
  paired : t.Paired
  waits : t.Waits
  parks : t.parkTimer.isSome = true ↔ t.Parks

/-! ### The Composer's choice (R115) -/

/-- The step of a search over the stations for the best of what they have, the first on equal terms. -/
def bestStep {β : Type} (has : StationNo → Option β) (less : β → β → Prop) [DecidableRel less]
    (best : Option (StationNo × β)) (n : StationNo) : Option (StationNo × β) :=
  match has n, best with
  | some t, some (b, u) => if less t u then some (n, t) else some (b, u)
  | some t, none => some (n, t)
  | none, b => b

section

variable {β : Type} (has : StationNo → Option β) (less : β → β → Prop) [DecidableRel less]

theorem bestStep_of_none {n : StationNo} (h : has n = none) (best : Option (StationNo × β)) :
    bestStep has less best n = best := by
  cases best <;> simp [bestStep, h]

theorem bestStep_of_some {n : StationNo} {t : β} (h : has n = some t)
    (best : Option (StationNo × β)) :
    bestStep has less best n = some (n, t) ∨
      best ≠ none ∧ bestStep has less best n = best := by
  rcases best with _ | ⟨b, u⟩
  · exact .inl (by simp [bestStep, h])
  · simp only [bestStep, h]
    split <;> simp

/-- The search finds none only where no station has what it looks for, and otherwise a station that has it. -/
theorem foldl_bestStep (l : List StationNo) :
    ∀ best, (l.foldl (bestStep has less) best = none → best = none ∧ ∀ n ∈ l, has n = none) ∧
      ∀ p, l.foldl (bestStep has less) best = some p → best = some p ∨ has p.1 ≠ none := by
  induction l with
  | nil => exact fun best => ⟨fun h => ⟨h, by simp⟩, fun p h => .inl h⟩
  | cons n l ih =>
    intro best
    rw [List.foldl_cons]
    obtain ⟨absent, found⟩ := ih (bestStep has less best n)
    cases hn : has n with
    | none =>
      rw [bestStep_of_none has less hn] at absent found ⊢
      exact ⟨fun h => ⟨(absent h).1, List.forall_mem_cons.mpr ⟨hn, (absent h).2⟩⟩, found⟩
    | some t =>
      rcases bestStep_of_some has less hn best with own | ⟨some, same⟩
      · rw [own] at absent found ⊢
        refine ⟨fun h => (nomatch (absent h).1), fun p h => .inr ?_⟩
        rcases found p h with here | there
        · cases here
          simp [hn]
        · exact there
      · rw [same] at absent found ⊢
        exact ⟨fun h => absurd (absent h).1 some, found⟩

end

theorem State.oldestStation?_eq (s : State) : s.oldestStation? =
    (StationNo.all.foldl (bestStep (fun n => (s.station n).candidate?.map fun l => l.stamp.getD 0)
      (· < ·)) none).map fun p => p.1 := by
  unfold oldestStation?
  congr 2
  funext best n
  simp only [bestStep]
  cases (s.station n).candidate? <;> cases best <;> rfl

theorem State.urgentStation?_eq (s : State) : s.urgentStation? =
    (StationNo.all.foldl (bestStep (fun n => (s.station n).urgentTime?)
      fun t u => earlier t u = true) none).map fun p => p.1 := by
  unfold urgentStation?
  congr 2
  funext best n
  simp only [bestStep]
  cases (s.station n).urgentTime? <;> cases best <;> rfl

theorem State.oldestStation?_spec (s : State) :
    (s.oldestStation? = none → ∀ n, (s.station n).candidate? = none) ∧
    ∀ n, s.oldestStation? = some n → (s.station n).candidate? ≠ none := by
  obtain ⟨absent, found⟩ := foldl_bestStep
    (fun n => (s.station n).candidate?.map fun l => l.stamp.getD 0) (· < ·) StationNo.all none
  rw [oldestStation?_eq]
  refine ⟨fun h n => ?_, fun n h => ?_⟩
  · have none := (absent (Option.map_eq_none_iff.mp h)).2 n (StationNo.mem_all n)
    exact Option.map_eq_none_iff.mp none
  · obtain ⟨p, hp, rfl⟩ := Option.map_eq_some_iff.mp h
    exact fun none => (found p hp).resolve_left nofun (by rw [none]; rfl)

theorem Station.candidate?_of_urgent {t : Station} (h : t.urgentTime? ≠ none) : t.candidate? ≠ none := by
  intro none
  simp [urgentTime?, none] at h

theorem State.urgentStation?_some {s : State} {n : StationNo} (h : s.urgentStation? = some n) :
    (s.station n).candidate? ≠ none := by
  obtain ⟨-, found⟩ := foldl_bestStep (fun n => (s.station n).urgentTime?)
    (fun t u => earlier t u = true) StationNo.all none
  rw [urgentStation?_eq] at h
  obtain ⟨p, hp, rfl⟩ := Option.map_eq_some_iff.mp h
  exact Station.candidate?_of_urgent ((found p hp).resolve_left nofun)

/-- The Composer takes the candidate of a station that has one. -/
theorem State.candidate?_of_pick {s : State} {n : StationNo} (h : s.composerPick? = some n) :
    (s.station n).candidate? ≠ none := by
  rcases Option.or_eq_some_iff.mp h with urgent | ⟨-, oldest⟩
  · exact urgentStation?_some urgent
  · exact s.oldestStation?_spec.2 n oldest

theorem State.composerPick?_eq_none_iff {s : State} :
    s.composerPick? = none ↔ ∀ n, (s.station n).candidate? = none := by
  constructor
  · exact fun h => s.oldestStation?_spec.1 (Option.or_eq_none_iff.mp h).2
  · intro none
    by_contra some
    obtain ⟨n, pick⟩ := Option.ne_none_iff_exists'.mp some
    exact candidate?_of_pick pick (none n)

/-! ### The whole -/

/-- A station in IDLE or PARKED, where a pending check may be taken up (R186). -/
def StationState.checkable (st : StationState) : Bool := st == .idle || st == .parked

theorem State.serviceStation?_eq_none_iff {s : State} : s.serviceStation? = none ↔
    (s.check.isSome = true ∨
      ∀ n, s.checkPending.get n = true → (s.station n).state.checkable = false) := by
  unfold serviceStation?
  split
  · next busy => simp [busy]
  · next free =>
    rw [or_iff_right free, List.find?_eq_none]
    refine ⟨fun h n asked => ?_, fun h n _ => ?_⟩
    · simpa [checkEligible, asked, StationState.checkable] using h n (StationNo.mem_all n)
    · cases asked : s.checkPending.get n
      · simp [checkEligible, asked]
      · simpa [checkEligible, asked, StationState.checkable] using h n asked

theorem State.quiet_iff_rests {s : State} :
    s.quiet = true ↔ (∀ n, (s.station n).Rests) ∧
      (s.composer.isSome = true ∨ ∀ n, (s.station n).candidate? = none) ∧
      (s.check.isSome = true ∨
        ∀ n, s.checkPending.get n = true → (s.station n).state.checkable = false) := by
  rw [quiet_iff, composerPick?_eq_none_iff, serviceStation?_eq_none_iff]
  refine and_congr_left fun _ => forall_congr' fun n => ?_
  rw [Station.newPair?_eq_none_iff, startTest_eq_wait_iff, Station.parkTimerAt_eq_iff]
  exact ⟨fun ⟨h, k, l⟩ => ⟨h, k, l⟩, fun ⟨h, k, l⟩ => ⟨h, k, l⟩⟩

/-! ### What rest depends on -/

/-- The items of a station on which it depends whether something is left to do there are the same. -/
structure Station.SameRest (a b : Station) : Prop where
  state : b.state = a.state
  profile : b.profile = a.profile
  triggers : b.triggers = a.triggers
  queue : b.queue = a.queue
  parkTimer : b.parkTimer = a.parkTimer

theorem Station.SameRest.refl (a : Station) : a.SameRest a := ⟨rfl, rfl, rfl, rfl, rfl⟩

theorem Station.SameRest.trans {a b c : Station} (h : a.SameRest b) (k : b.SameRest c) :
    a.SameRest c :=
  ⟨k.state.trans h.state, k.profile.trans h.profile, k.triggers.trans h.triggers,
    k.queue.trans h.queue, k.parkTimer.trans h.parkTimer⟩

theorem Station.SameRest.rests {a b : Station} (h : a.SameRest b) (r : a.Rests) : b.Rests := by
  refine ⟨?_, ?_, ?_⟩
  · simpa only [Paired, eligible, h.triggers, h.queue] using r.paired
  · simpa only [Waits, headServed, mode?, h.state, h.profile, h.triggers, h.queue] using r.waits
  · simpa only [Parks, h.state, h.profile, h.queue, h.parkTimer] using r.parks

/-- The items on which it depends whether something is left to do at the stations, the Composer and the DCU are the
same; a label in composition and a check may go on. -/
structure State.SameRest (s t : State) : Prop where
  stations : ∀ n, (s.station n).SameRest (t.station n)
  composer : t.composer.isSome = s.composer.isSome
  check : t.check.isSome = s.check.isSome
  checkPending : t.checkPending = s.checkPending

theorem State.SameRest.refl (s : State) : s.SameRest s := ⟨fun _ => .refl _, rfl, rfl, rfl⟩

theorem State.SameRest.trans {s t u : State} (h : s.SameRest t) (k : t.SameRest u) : s.SameRest u :=
  ⟨fun n => (h.stations n).trans (k.stations n), k.composer.trans h.composer,
    k.check.trans h.check, k.checkPending.trans h.checkPending⟩

theorem State.SameLanes.sameRest {s t : State} (h : s.SameLanes t) : s.SameRest t := by
  obtain ⟨stations, composer, -, check, checkPending, -⟩ := h
  refine ⟨fun n => ?_, by rw [composer], by rw [check], checkPending⟩
  rw [State.station, State.station, stations]
  exact .refl _

theorem State.SameRest.quiet {s t : State} (h : s.SameRest t) (q : s.quiet = true) :
    t.quiet = true := by
  obtain ⟨rests, composer, check⟩ := quiet_iff_rests.mp q
  refine quiet_iff_rests.mpr ⟨fun n => (h.stations n).rests (rests n), ?_, ?_⟩
  · simpa only [h.composer, Station.candidate?, (h.stations _).queue] using composer
  · simpa only [h.check, h.checkPending, (h.stations _).state] using check

theorem State.sameRest_updStation (s : State) (n : StationNo) {f : Station → Station}
    (h : (s.station n).SameRest (f (s.station n))) : s.SameRest (s.updStation n f) := by
  refine ⟨fun m => ?_, rfl, rfl, rfl⟩
  by_cases e : m = n
  · subst e
    rw [station_updStation]
    exact h
  · rw [station_updStation_ne s f e]
    exact .refl _

end Sys2Proof.Machine
end

section
/-! What the work at the end of an event touches of channels, stations, Composer and DCU: the release of pins and
the draws, the labels that leave a queue, and the work of one lane. -/

namespace Sys2Proof.Machine

/-! ### Work on the records, the pool and record memory -/

/-- The second state differs from the first in records, pool, record memory and event causes alone, and no record has
come to hold a loading body. -/
structure State.StoreWork (s t : State) : Prop where
  eq : ∃ table free events memory elements, t = { s with
    table := table, free := free, eventStatus := events, memory := memory, elements := elements }
  canonical : s.canonical = true → t.canonical = true
  unloaded : s.canonical = true → ∀ h, (s.record h).loading = none → (t.record h).loading = none

namespace State.StoreWork

theorem refl (s : State) : s.StoreWork s := ⟨⟨_, _, _, _, _, rfl⟩, id, fun _ _ h => h⟩

theorem trans {s t u : State} (h : s.StoreWork t) (k : t.StoreWork u) : s.StoreWork u := by
  refine ⟨?_, fun c => k.canonical (h.canonical c),
    fun c g none => k.unloaded (h.canonical c) g (h.unloaded c g none)⟩
  obtain ⟨_, _, _, _, _, rfl⟩ := h.eq
  obtain ⟨_, _, _, _, _, rfl⟩ := k.eq
  exact ⟨_, _, _, _, _, rfl⟩

theorem sameLanes {s t : State} (h : s.StoreWork t) : s.SameLanes t := by
  obtain ⟨_, _, _, _, _, rfl⟩ := h.eq
  exact .refl s

theorem station {s t : State} (h : s.StoreWork t) (n : StationNo) : t.station n = s.station n := by
  obtain ⟨_, _, _, _, _, rfl⟩ := h.eq
  rfl

theorem chan {s t : State} (h : s.StoreWork t) (c : Chan) : t.chan c = s.chan c := by
  obtain ⟨_, _, _, _, _, rfl⟩ := h.eq
  cases c <;> rfl

end State.StoreWork

namespace State

theorem storeWork_setRecord (s : State) (h : Nat) {r : Record}
    (unloaded : (s.record h).loading = none → r.loading = none) : s.StoreWork (s.setRecord h r) := by
  refine ⟨⟨_, _, _, _, _, rfl⟩, canonical_setRecord h r, fun c g none => ?_⟩
  rw [record_setRecord h r c]
  split
  · next e => exact unloaded (e ▸ none)
  · exact none

theorem storeWork_freeBlocks (s : State) (bl : List Nat) : s.StoreWork (s.freeBlocks bl) :=
  ⟨⟨_, _, _, _, _, rfl⟩, canonical_freeBlocks bl, fun _ _ h => h⟩

theorem storeWork_raise (s : State) (e : Cause) : s.StoreWork (s.raise e) :=
  ⟨⟨_, _, _, _, _, rfl⟩, (kept_raise s e).canonical, fun _ _ h => h⟩

theorem storeWork_lowerReferrers (hs : List Nat) :
    ∀ s : State, s.StoreWork (s.lowerReferrers hs) := by
  induction hs with
  | nil => exact .refl
  | cons h hs ih => exact fun s => (storeWork_setRecord s h (by exact id)).trans (ih _)

theorem storeWork_freeBody (s : State) (b : Body) : s.StoreWork (s.freeBody b) :=
  (storeWork_freeBlocks ..).trans (storeWork_lowerReferrers ..)

theorem storeWork_freeBody? (s : State) (b : Option Body) : s.StoreWork (s.freeBody? b) := by
  cases b with
  | none => exact .refl s
  | some b => exact storeWork_freeBody s b

theorem storeWork_freeIfRetired (s : State) (h : Nat) : s.StoreWork (s.freeIfRetired h) := by
  unfold freeIfRetired
  dsimp only
  split
  · exact (((storeWork_setRecord s h fun _ => rfl).trans (storeWork_freeBody? ..)).trans
      (storeWork_freeBody? ..)).trans (storeWork_raise ..)
  · exact .refl s

theorem storeWork_unpinBody (s : State) (h v : Nat) : s.StoreWork (s.unpinBody h v) := by
  unfold unpinBody
  dsimp only
  split
  · split
    · exact (storeWork_setRecord s h (by exact id)).trans (storeWork_freeIfRetired ..)
    · split
      · split
        · split
          · exact ((storeWork_setRecord s h (by exact id)).trans (storeWork_freeBody ..)).trans
              (storeWork_freeIfRetired ..)
          · exact storeWork_setRecord s h id
        · exact .refl s
      · exact .refl s
  · exact .refl s

theorem storeWork_unpinCounter (s : State) (h : Nat) : s.StoreWork (s.unpinCounter h) := by
  unfold unpinCounter
  dsimp only
  split
  · exact (storeWork_setRecord s h (by exact id)).trans (storeWork_freeIfRetired ..)
  · exact .refl s

theorem storeWork_unpinBodies (l : List (Nat × Nat)) : ∀ s : State, s.StoreWork (s.unpinBodies l) := by
  induction l with
  | nil => exact .refl
  | cons p l ih => exact fun s => (storeWork_unpinBody ..).trans (ih _)

theorem storeWork_unpinCounters (l : List Nat) : ∀ s : State, s.StoreWork (s.unpinCounters l) := by
  induction l with
  | nil => exact .refl
  | cons h l ih => exact fun s => (storeWork_unpinCounter ..).trans (ih _)

theorem storeWork_releasePins (s : State) (l : Label) : s.StoreWork (s.releasePins l) :=
  (storeWork_unpinBodies ..).trans (storeWork_unpinCounters ..)

theorem storeWork_writeContent (s : State) (bl : List Nat) (i : Nat) (b : Byte) :
    s.StoreWork (s.writeContent bl i b) := by
  have c := (kept_writeContent s bl i b).canonical
  revert c
  unfold writeContent
  split
  · exact fun c => ⟨⟨_, _, _, _, _, rfl⟩, c, fun _ _ h => h⟩
  · exact fun _ => .refl s

theorem storeWork_writeContents (bl : List Nat) (bs : List Byte) :
    ∀ (s : State) (i : Nat), s.StoreWork (s.writeContents bl i bs) := by
  induction bs with
  | nil => exact fun s _ => .refl s
  | cons b bs ih => exact fun s i => (storeWork_writeContent s bl i b).trans (ih _ _)

theorem storeWork_drawOne (s : State) (h : Nat) : s.StoreWork (s.drawOne h).1 := by
  unfold drawOne
  split
  · exact .refl s
  · exact ((storeWork_writeContents ..).trans (storeWork_writeContent ..)).trans
      (storeWork_unpinCounter ..)

theorem storeWork_drawAll (hs : List Nat) : ∀ s : State, s.StoreWork (s.drawAll hs).1 := by
  induction hs with
  | nil => exact .refl
  | cons h hs ih => exact fun s => (storeWork_drawOne s h).trans (ih _)

end State

/-! ### What the end of an event spares -/

/-- What the work at the end of an event leaves of the channels, of the labels being fetched and of the records: a
channel gets completions to write and nothing else, and no record comes to hold a loading body. -/
structure State.Spares (s t : State) : Prop where
  chan : ∀ c, ∃ ps, t.chan c =
    { s.chan c with pendingCompletions := (s.chan c).pendingCompletions ++ ps }
  fetching : ∀ n, (t.station n).fetching = (s.station n).fetching
  canonical : s.canonical = true → t.canonical = true
  unloaded : s.canonical = true → ∀ h, (s.record h).loading = none → (t.record h).loading = none

namespace State.Spares

theorem refl (s : State) : s.Spares s :=
  ⟨fun c => ⟨[], by rw [List.append_nil]⟩, fun _ => rfl, id, fun _ _ h => h⟩

theorem trans {s t u : State} (h : s.Spares t) (k : t.Spares u) : s.Spares u := by
  refine ⟨fun c => ?_, fun n => (k.fetching n).trans (h.fetching n),
    fun c => k.canonical (h.canonical c),
    fun c g none => k.unloaded (h.canonical c) g (h.unloaded c g none)⟩
  obtain ⟨ps, hps⟩ := h.chan c
  obtain ⟨qs, hqs⟩ := k.chan c
  exact ⟨ps ++ qs, by rw [hqs, hps, List.append_assoc]⟩

theorem of_storeWork {s t : State} (h : s.StoreWork t) : s.Spares t :=
  ⟨fun c => ⟨[], by rw [h.chan, List.append_nil]⟩, fun n => by rw [h.station], h.canonical, h.unloaded⟩

/-- What changes neither channels nor stations nor records nor record memory. -/
theorem of_same {s t : State} (control : t.control = s.control) (rings : t.rings = s.rings)
    (stations : t.stations = s.stations) (memory : t.memory = s.memory)
    (elements : t.elements = s.elements) (table : t.table = s.table) : s.Spares t := by
  refine ⟨fun c => ⟨[], ?_⟩, fun n => by rw [State.station, State.station, stations],
    fun c => canonical_of_same c memory elements table,
    fun _ h none => by rw [State.record, table]; exact none⟩
  cases c <;> simp [State.chan, control, rings]

theorem foldl {β : Type} {f : State → β → State} (h : ∀ s b, State.Spares s (f s b)) (l : List β) :
    ∀ s : State, s.Spares (l.foldl f s) := by
  induction l with
  | nil => exact .refl
  | cons b l ih => exact fun s => (h s b).trans (ih _)

end State.Spares

theorem State.spares_updStation (s : State) (n : StationNo) {f : Station → Station}
    (h : (f (s.station n)).fetching = (s.station n).fetching) : s.Spares (s.updStation n f) := by
  refine ⟨fun c => ⟨[], by rw [chan_updStation, List.append_nil]⟩, fun m => ?_,
    canonical_updStation n f, fun _ _ none => none⟩
  by_cases e : m = n
  · subst e
    rw [station_updStation]
    exact h
  · rw [station_updStation_ne s f e]

theorem State.spares_addCompletion (s : State) (n : StationNo) (p : Completion) :
    s.Spares (s.updChan (.station n) fun ch =>
      { ch with pendingCompletions := ch.pendingCompletions ++ [p] }) := by
  refine ⟨fun c => ?_, fun m => by rw [station_updChan], canonical_updChan _ _, fun _ h none => ?_⟩
  · by_cases e : c = .station n
    · subst e
      exact ⟨[p], by rw [chan_updChan]⟩
    · exact ⟨[], by rw [chan_updChan_ne s _ e, List.append_nil]⟩
  · rw [State.record, updChan_table]
    exact none

/-! ### The work of one lane -/

/-- What the work of a lane at the end of an event does to its station: labels leave the queue or lose their turn to
be composed, and the station enters neither IDLE nor PARKED. -/
structure Station.Worked (a b : Station) : Prop where
  candidates : b.queue.countP Label.mayCompose ≤ a.queue.countP Label.mayCompose
  length : b.queue.length ≤ a.queue.length
  state : b.state.checkable = true → b.state = a.state

theorem Station.Worked.refl (a : Station) : a.Worked a := ⟨le_refl _, le_refl _, fun _ => rfl⟩

theorem Station.Worked.trans {a b c : Station} (h : a.Worked b) (k : b.Worked c) : a.Worked c :=
  ⟨k.candidates.trans h.candidates, k.length.trans h.length,
    fun e => (k.state e).trans (h.state (by rw [← k.state e]; exact e))⟩

/-- The same queue and state. -/
theorem Station.Worked.of_same {a b : Station} (queue : b.queue = a.queue) (state : b.state = a.state) :
    a.Worked b := ⟨by rw [queue], by rw [queue], fun _ => state⟩

/-- What the work of station n's lane at the end of an event does. -/
structure State.LaneWork (n : StationNo) (s t : State) : Prop extends State.Spares s t where
  others : ∀ m, m ≠ n → t.station m = s.station m
  station : (s.station n).Worked (t.station n)
  composer : t.composer = s.composer
  check : t.check = s.check
  checkPending : t.checkPending = s.checkPending

namespace State.LaneWork

variable {n : StationNo} {s t u : State}

theorem refl (s : State) : s.LaneWork n s := ⟨.refl s, fun _ _ => rfl, .refl _, rfl, rfl, rfl⟩

theorem trans (h : s.LaneWork n t) (k : t.LaneWork n u) : s.LaneWork n u :=
  ⟨h.toSpares.trans k.toSpares, fun m e => (k.others m e).trans (h.others m e),
    h.station.trans k.station, k.composer.trans h.composer, k.check.trans h.check,
    k.checkPending.trans h.checkPending⟩

theorem of_storeWork (h : s.StoreWork t) : s.LaneWork n t := by
  obtain ⟨stations, composer, -, check, checkPending, -⟩ := h.sameLanes
  exact ⟨.of_storeWork h, fun m _ => h.station m, by rw [h.station]; exact .refl _, composer, check,
    checkPending⟩

end State.LaneWork

namespace State

theorem laneWork_updStation (s : State) (n : StationNo) {f : Station → Station}
    (fetching : (f (s.station n)).fetching = (s.station n).fetching)
    (work : (s.station n).Worked (f (s.station n))) : s.LaneWork n (s.updStation n f) :=
  ⟨spares_updStation s n fetching, fun _ e => station_updStation_ne s f e,
    by rw [station_updStation]; exact work, rfl, rfl, rfl⟩

/-- An update of a station that leaves its labels and its state. -/
theorem laneWork_updStation_of_same (s : State) (n : StationNo) {f : Station → Station}
    (fetching : (f (s.station n)).fetching = (s.station n).fetching)
    (queue : (f (s.station n)).queue = (s.station n).queue)
    (state : (f (s.station n)).state = (s.station n).state) : s.LaneWork n (s.updStation n f) :=
  laneWork_updStation s n fetching (.of_same queue state)

theorem laneWork_addCompletion (s : State) (n : StationNo) (p : Completion) :
    s.LaneWork n (s.updChan (.station n) fun ch =>
      { ch with pendingCompletions := ch.pendingCompletions ++ [p] }) :=
  ⟨spares_addCompletion s n p, fun _ _ => station_updChan .., by rw [station_updChan]; exact .refl _,
    updChan_composer .., updChan_check .., updChan_checkPending ..⟩

theorem countP_map_le {f : Label → Label} (h : ∀ l, (f l).mayCompose = true → l.mayCompose = true)
    (q : List Label) : (q.map f).countP Label.mayCompose ≤ q.countP Label.mayCompose := by
  rw [List.countP_map]
  exact List.countP_mono_left fun l _ => h l

theorem laneWork_updLabel (s : State) (n : StationNo) (ctx : Nat) {f : Label → Label}
    (h : ∀ l, (f l).mayCompose = true → l.mayCompose = true) : s.LaneWork n (s.updLabel n ctx f) := by
  refine laneWork_updStation s n rfl ⟨countP_map_le (fun l => ?_) _, (List.length_map _).le, fun _ => rfl⟩
  split
  · exact h l
  · exact id

theorem laneWork_finishHead (s : State) (n : StationNo) (st : Status) :
    s.LaneWork n (s.finishHead n st) := by
  unfold finishHead
  split
  · exact .refl s
  · next l rest queue =>
    refine (LaneWork.trans ?_ (.of_storeWork ((storeWork_freeBlocks ..).trans
      (storeWork_releasePins ..)))).trans (laneWork_addCompletion ..)
    refine laneWork_updStation s n rfl ⟨?_, ?_, fun _ => rfl⟩
    · rw [queue, List.countP_cons]
      exact Nat.le_add_right ..
    · rw [queue]
      exact Nat.le_succ _

theorem laneWork_abandon (s : State) (n : StationNo) (ctx : Nat) (st : Status) :
    s.LaneWork n (s.abandon n ctx st) := by
  unfold abandon
  split
  · exact .refl s
  · split
    · exact .refl s
    · split
      · exact laneWork_finishHead ..
      · exact laneWork_updLabel s n ctx fun l h => by simp [Label.mayCompose] at h

theorem laneWork_skipOne (s : State) (n : StationNo) : s.LaneWork n (s.skipOne n) := by
  unfold skipOne
  split
  · split
    · exact laneWork_abandon ..
    · exact .refl s
  · exact .refl s

theorem laneWork_skipMany (n : StationNo) (k : Nat) : ∀ s : State, s.LaneWork n (s.skipMany n k) := by
  induction k with
  | zero => exact .refl
  | succ k ih => exact fun s => (laneWork_skipOne s n).trans (ih _)

theorem laneWork_skipPending (s : State) (n : StationNo) : s.LaneWork n (s.skipPending n) :=
  (laneWork_updStation_of_same s n rfl rfl rfl).trans (laneWork_skipMany ..)

/-- The station enters a state other than IDLE and PARKED. -/
theorem laneWork_enter (s : State) (n : StationNo) {st : StationState} (h : st.checkable = false) :
    s.LaneWork n (s.enter n st) :=
  laneWork_updStation s n rfl ⟨le_refl _, le_refl _, fun e => nomatch h.symm.trans e⟩

theorem laneWork_enterFault (s : State) (n : StationNo) (c : FaultCause) :
    s.LaneWork n (s.enterFault n c) :=
  (((laneWork_enter s n rfl).trans (laneWork_updStation_of_same _ n rfl rfl rfl)).trans
    (.of_storeWork (storeWork_raise ..))).trans (laneWork_skipPending ..)

theorem laneWork_finishWorking (s : State) (n : StationNo) (st : Status) :
    s.LaneWork n (s.finishWorking n st) := by
  unfold finishWorking
  split
  · exact laneWork_finishHead ..
  · exact .refl s

theorem laneWork_mediaFault (s : State) (n : StationNo) : s.LaneWork n (s.mediaFault n) :=
  ((laneWork_finishWorking ..).trans (laneWork_updStation_of_same _ n rfl rfl rfl)).trans
    (laneWork_enterFault ..)

theorem laneWork_setFeed (s : State) (n : StationNo) (k : LineKind) (p : Nat) :
    s.LaneWork n (s.setFeed n k p) := laneWork_updStation_of_same s n rfl rfl rfl

theorem laneWork_stepMotor (s : State) (n : StationNo) : s.LaneWork n (s.stepMotor n) :=
  laneWork_updStation_of_same s n rfl rfl rfl

theorem laneWork_firePrinted (s : State) (n : StationNo) : s.LaneWork n (s.firePrinted n) := by
  unfold firePrinted
  dsimp only
  split
  · exact (laneWork_updStation_of_same s n rfl rfl rfl).trans (laneWork_setFeed ..)
  · exact laneWork_setFeed ..

theorem laneWork_beginPrinting (s : State) (n : StationNo) (k : LineKind) :
    s.LaneWork n (s.beginPrinting n k) := by
  unfold beginPrinting
  dsimp only
  split
  · exact laneWork_updStation_of_same s n rfl rfl rfl
  split
  · exact laneWork_mediaFault ..
  split
  · exact laneWork_mediaFault ..
  cases k with
  | printed => exact (laneWork_stepMotor ..).trans (laneWork_firePrinted ..)
  | leading | peel | eject | calibrate => exact (laneWork_stepMotor ..).trans (laneWork_setFeed ..)

/-- The begin of a print before its first line: the oldest entry leaves and the label is PRINTING (R143). -/
def takeHead (s : State) (n : StationNo) (l : Label) : State :=
  ((s.enter n .printing).updStation n fun t =>
    { t with triggers := t.triggers.drop 1,
             printDeadline := ((s.station n).triggers.head?).map fun e => e.deadline,
             drive := some Drive.initial }).updLabel n l.ctx fun l => { l with state := .printing }

/-- The print start is its head taken and then its first line. -/
theorem printStart_eq (s : State) (n : StationNo) (l : Label) :
    s.printStart n l = ((s.takeHead n l).resetUnregistered n).beginPrinting n
      (if (s.station n).aligned then .printed else .leading) := by
  unfold printStart
  dsimp only
  split <;> rfl

theorem laneWork_takeHead (s : State) (n : StationNo) (l : Label) : s.LaneWork n (s.takeHead n l) :=
  ((laneWork_enter s n rfl).trans (laneWork_updStation_of_same _ n rfl rfl rfl)).trans
    (laneWork_updLabel _ n _ fun l h => by simp [Label.mayCompose] at h)

theorem laneWork_printStart (s : State) (n : StationNo) (l : Label) :
    s.LaneWork n (s.printStart n l) := by
  rw [printStart_eq]
  exact ((laneWork_takeHead ..).trans (laneWork_updStation_of_same _ n rfl rfl rfl)).trans
    (laneWork_beginPrinting ..)

/-- The start test disposes of the head with a status (R141, R142). -/
def disposeHead (s : State) (n : StationNo) (st : Status) : State :=
  (s.updStation n fun t => { t with triggers := t.triggers.drop 1 }).finishHead n st

theorem laneWork_disposeHead (s : State) (n : StationNo) (st : Status) :
    s.LaneWork n (s.disposeHead n st) :=
  (laneWork_updStation_of_same s n rfl rfl rfl).trans (laneWork_finishHead ..)

theorem laneWork_startLoop (n : StationNo) (r : Nat) :
    ∀ s : State, s.LaneWork n (State.startLoop n r s) := by
  induction r with
  | zero => exact .refl
  | succ r ih =>
    intro s
    unfold startLoop
    split
    · exact .refl s
    · exact laneWork_printStart ..
    · exact (laneWork_disposeHead ..).trans (ih _)

theorem laneWork_expireEntry (s : State) (n : StationNo) (k : Nat) (l : Label) :
    s.LaneWork n (s.expireEntry n k l) := by
  have dropped : s.LaneWork n (s.dropTrigger n k) := laneWork_updStation_of_same s n rfl rfl rfl
  unfold expireEntry
  dsimp only
  split
  · exact dropped.trans (laneWork_finishHead ..)
  · exact dropped.trans (laneWork_abandon ..)

theorem laneWork_pair (n : StationNo) (r : Nat) : ∀ s : State, s.LaneWork n (State.pair n r s) := by
  induction r with
  | zero => exact .refl
  | succ r ih =>
    intro s
    unfold pair
    split
    · exact .refl s
    · dsimp only
      split
      · exact (laneWork_expireEntry ..).trans (ih _)
      · exact (laneWork_updStation_of_same s n rfl rfl rfl).trans (ih _)

end State

end Sys2Proof.Machine
end

section
/-! The end of an event comes to rest: its rounds are enough for pairing, the Composer's choice, the start tests, the
service test and the park timers, and no later part undoes an earlier one (R115, R136, R141, R142, R157, R186). -/

namespace Sys2Proof.Machine

/-! ### Folds over the stations -/

/-- What each round reaches at its own station, and no round loses, holds in the end at every station. -/
theorem foldl_reaches {f : State → StationNo → State} {P : StationNo → State → Prop}
    (reach : ∀ s n, P n (f s n)) (keep : ∀ s m n, P n s → P n (f s m)) (l : List StationNo) :
    ∀ s, ∀ n ∈ l, P n (l.foldl f s) := by
  have kept : ∀ (l : List StationNo) s n, P n s → P n (l.foldl f s) := fun l => by
    induction l with
    | nil => exact fun _ _ h => h
    | cons m l ih => exact fun s n h => ih _ n (keep s m n h)
  induction l with
  | nil => exact fun _ _ h => nomatch h
  | cons m l ih =>
    intro s n mem
    rcases List.mem_cons.mp mem with rfl | mem
    · exact kept l _ n (reach s n)
    · exact ih _ n mem

theorem foldl_keeps {f : State → StationNo → State} {P : State → Prop}
    (keep : ∀ s n, P s → P (f s n)) (l : List StationNo) : ∀ s, P s → P (l.foldl f s) := by
  induction l with
  | nil => exact fun _ h => h
  | cons m l ih => exact fun s h => ih _ (keep s m h)

/-! ### The station after a label has left or was marked -/

namespace State

theorem station_finishHead (s : State) (n : StationNo) (st : Status) :
    (s.finishHead n st).station n = { s.station n with queue := (s.station n).queue.tail } := by
  unfold finishHead
  split
  · next empty => rw [empty, List.tail_nil, ← empty]
  · next l rest queue =>
    rw [station_updChan, ((storeWork_freeBlocks ..).trans (storeWork_releasePins ..)).station,
      station_updStation, queue, List.tail_cons]

theorem station_abandon (s : State) (n : StationNo) (ctx : Nat) (st : Status) :
    ∃ q, (s.abandon n ctx st).station n = { s.station n with queue := q } := by
  unfold abandon
  split
  · exact ⟨_, rfl⟩
  · split
    · exact ⟨_, rfl⟩
    · split
      · exact ⟨_, station_finishHead ..⟩
      · exact ⟨_, station_updStation ..⟩

theorem station_skipOne (s : State) (n : StationNo) :
    ∃ q, (s.skipOne n).station n = { s.station n with queue := q } := by
  unfold skipOne
  split
  · split
    · exact station_abandon ..
    · exact ⟨_, rfl⟩
  · exact ⟨_, rfl⟩

theorem station_skipMany (n : StationNo) (k : Nat) :
    ∀ s : State, ∃ q, (s.skipMany n k).station n = { s.station n with queue := q } := by
  induction k with
  | zero => exact fun s => ⟨_, rfl⟩
  | succ k ih =>
    intro s
    obtain ⟨_, here⟩ := station_skipOne s n
    obtain ⟨q, rest⟩ := ih (s.skipOne n)
    exact ⟨q, rest.trans (by rw [here])⟩

/-- In FAULT no entry is pending. -/
theorem station_enterFault (s : State) (n : StationNo) (c : FaultCause) :
    ((s.enterFault n c).station n).state = .fault ∧ ((s.enterFault n c).station n).triggers = [] := by
  obtain ⟨q, e⟩ := station_skipMany n (((((s.enter n .fault).updStation n fun t =>
    { t with faultCause := c, holdPending := false }).raise (.stationFault n)).station n).triggers.length)
    ((((s.enter n .fault).updStation n fun t =>
      { t with faultCause := c, holdPending := false }).raise (.stationFault n)).updStation n fun t =>
        { t with triggers := [] })
  unfold enterFault skipPending
  dsimp only
  rw [e]
  simp [enter, Station.enter]

/-- A line of PRINTING begins, or the station is in FAULT without a pending entry. -/
theorem station_beginPrinting (s : State) (n : StationNo) (k : LineKind) :
    (((s.beginPrinting n k).station n).state = .fault ∧ ((s.beginPrinting n k).station n).triggers = []) ∨
      ((s.beginPrinting n k).station n).state = (s.station n).state ∧
        ((s.beginPrinting n k).station n).triggers = (s.station n).triggers ∧
        ((s.beginPrinting n k).station n).queue = (s.station n).queue := by
  unfold beginPrinting
  dsimp only
  split
  · exact .inr (by simp)
  split
  · exact .inl (station_enterFault ..)
  split
  · exact .inl (station_enterFault ..)
  · refine .inr ?_
    cases k with
    | printed =>
      dsimp only [firePrinted]
      split <;> simp [stepMotor, setFeed]
    | leading | peel | eject | calibrate => simp [stepMotor, setFeed]

/-! ### Pairing (R136) -/

end State

/-- What is left to do at most to pair the entries of a station: each round sets a last-start time or removes an
entry. -/
def Station.unpaired (t : Station) : Nat :=
  t.triggers.length + t.triggers.countP fun e => e.lastStart.isNone

theorem Station.unpaired_le (t : Station) : t.unpaired ≤ t.pairRounds := by
  have := List.countP_le_length (p := fun e : Trigger => e.lastStart.isNone) (l := t.triggers)
  unfold unpaired pairRounds
  omega

theorem Station.paired_of_no_triggers {t : Station} (h : t.triggers = []) : t.Paired := by
  intro k e l trigger
  rw [h] at trigger
  cases trigger

/-- Where entries leave from the front, and with each an eligible label, those that stay paired were paired. -/
theorem Station.Paired.of_drop {a b : Station} (h : a.Paired) {j : Nat}
    (triggers : b.triggers = a.triggers.drop j) (length : b.eligible.length + j ≤ a.eligible.length) :
    b.Paired := by
  intro k e l trigger label
  rw [triggers, List.getElem?_drop] at trigger
  have inside := (List.getElem?_eq_some_iff.mp label).1
  exact h (j + k) e _ trigger (List.getElem?_eq_getElem (by omega))

namespace State

theorem triggers_expireEntry (s : State) (n : StationNo) (k : Nat) (l : Label) :
    ((s.expireEntry n k l).station n).triggers = (s.station n).triggers.eraseIdx k := by
  unfold expireEntry
  dsimp only
  split
  · rw [station_finishHead]
    simp [dropTrigger]
  · obtain ⟨q, e⟩ := station_abandon (s.dropTrigger n k) n l.ctx .late
    rw [e]
    simp [dropTrigger]

theorem paired_pair (n : StationNo) (r : Nat) : ∀ s : State, (s.station n).unpaired ≤ r →
    ((State.pair n r s).station n).Paired := by
  induction r with
  | zero =>
    intro s done
    have none : (s.station n).triggers.length = 0 := by
      unfold Station.unpaired at done
      omega
    exact Station.paired_of_no_triggers (List.length_eq_zero_iff.mp none)
  | succ r ih =>
    intro s work
    unfold pair
    split
    · next none => exact Station.newPair?_eq_none_iff.mp none
    · next k e l found =>
      obtain ⟨trigger, -, unset⟩ := Station.newPair?_eq_some found
      obtain ⟨inside, here⟩ := List.getElem?_eq_some_iff.mp trigger
      dsimp only
      split
      · refine ih _ ?_
        have fewer := List.length_eraseIdx_of_lt inside
        have rest := (List.eraseIdx_sublist (s.station n).triggers k).countP_le
          (p := fun e => e.lastStart.isNone)
        unfold Station.unpaired at work ⊢
        rw [triggers_expireEntry]
        omega
      · refine ih _ ?_
        have pos : 0 < (s.station n).triggers.countP fun e => e.lastStart.isNone :=
          List.countP_pos_iff.mpr ⟨e, List.mem_of_getElem? trigger, by simp [unset]⟩
        unfold Station.unpaired at work ⊢
        rw [station_updStation]
        simp only [List.length_set, List.countP_set inside, here, unset, Option.isNone_none,
          Option.isNone_some, if_true, Bool.false_eq_true, if_false]
        omega

theorem laneWork_pairStation (s : State) (n : StationNo) : s.LaneWork n (s.pairStation n) :=
  laneWork_pair ..

theorem paired_pairAll (s : State) (n : StationNo) : (s.pairAll.station n).Paired := by
  have reach : ∀ (s : State) n, ((s.pairStation n).station n).Paired := fun s n =>
    paired_pair n _ s (Station.unpaired_le _)
  refine foldl_reaches (P := fun n s => (s.station n).Paired) reach (fun s m n h => ?_) _ s n
    (StationNo.mem_all n)
  by_cases e : n = m
  · exact e ▸ reach s n
  · rw [(laneWork_pairStation s m).others n e]
    exact h

/-! ### The Composer's choice (R115, R116) -/

/-- What the Composer's choice does to the stations: labels change their state and keep their pairing. -/
structure ChoiceWork (s t : State) : Prop extends State.Spares s t where
  stations : ∀ n, ∃ g : Label → Label, (∀ l, (g l).eligible = l.eligible) ∧
    (∀ l, (g l).mayCompose = true → l.mayCompose = true) ∧
    t.station n = { s.station n with queue := (s.station n).queue.map g }
  check : t.check = s.check
  checkPending : t.checkPending = s.checkPending

theorem ChoiceWork.refl (s : State) : s.ChoiceWork s :=
  ⟨.refl s, fun n => ⟨id, fun _ => rfl, fun _ => id, by rw [List.map_id]⟩, rfl, rfl⟩

theorem ChoiceWork.trans {s t u : State} (h : s.ChoiceWork t) (k : t.ChoiceWork u) :
    s.ChoiceWork u := by
  refine ⟨h.toSpares.trans k.toSpares, fun n => ?_, k.check.trans h.check,
    k.checkPending.trans h.checkPending⟩
  obtain ⟨g, eligible, fewer, here⟩ := h.stations n
  obtain ⟨g', eligible', fewer', there⟩ := k.stations n
  refine ⟨g' ∘ g, fun l => (eligible' _).trans (eligible l), fun l m => fewer l (fewer' _ m), ?_⟩
  rw [there, here, List.map_map]

theorem ChoiceWork.paired {s t : State} (h : s.ChoiceWork t) {n : StationNo}
    (p : (s.station n).Paired) : (t.station n).Paired := by
  obtain ⟨g, eligible, -, e⟩ := h.stations n
  have same : Label.eligible ∘ g = Label.eligible := funext eligible
  refine p.of_drop (j := 0) (by rw [e]; rfl) (le_of_eq ?_)
  rw [e]
  simp only [Station.eligible, List.filter_map, List.length_map, same, add_zero]

/-- The labels that may be candidates. -/
def candidates (s : State) : Nat :=
  (StationNo.all.map fun n => (s.station n).queue.countP Label.mayCompose).sum

theorem candidates_lt_choiceRounds (s : State) : s.candidates < s.choiceRounds :=
  Nat.lt_succ_of_le (List.sum_le_sum fun _ _ => List.countP_le_length)

/-- The label the Composer takes and those of its number at its station, COMPOSING or FAILED. -/
theorem choiceWork_updCandidate {s x : State} (work : s.StoreWork x) {n : StationNo} {ctx : Nat}
    {f : Label → Label} (eligible : ∀ l, l.mayCompose = true → (f l).eligible = true)
    (taken : ∀ l, (f l).mayCompose = false) (composer : Option Job) :
    s.ChoiceWork { x.updCandidate n ctx f with composer := composer } := by
  have lane : x.LaneWork n (x.updCandidate n ctx f) := by
    refine laneWork_updLabel x n ctx fun l h => ?_
    split at h
    · simp [taken] at h
    · exact h
  refine ⟨((Spares.of_storeWork work).trans lane.toSpares).trans (.of_same rfl rfl rfl rfl rfl rfl),
    fun m => ?_, ?_, ?_⟩
  · by_cases e : m = n
    · subst e
      refine ⟨fun l => if l.ctx = ctx then (if l.mayCompose then f l else l) else l, fun l => ?_,
        fun l h => ?_, ?_⟩
      · dsimp only
        split
        · split
          · next may =>
            rw [eligible l may]
            simp only [Label.mayCompose, Bool.and_eq_true, beq_iff_eq] at may
            simp [Label.eligible, may, LabelState.unstarted]
          · rfl
        · rfl
      · dsimp only at h
        split at h
        · split at h
          · next may => exact may
          · exact h
        · exact h
      · rw [← work.station]
        exact (rfl : _ = (x.updCandidate m ctx f).station m).trans (station_updStation ..)
    · exact ⟨id, fun _ => rfl, fun _ => id, by
        rw [List.map_id, ← work.station]
        exact lane.others m e⟩
  · obtain ⟨-, -, -, check, -, -⟩ := work.sameLanes
    exact check
  · obtain ⟨-, -, -, -, checkPending, -⟩ := work.sameLanes
    exact checkPending

theorem choiceWork_composerTake (s : State) (n : StationNo) (l : Label) :
    s.ChoiceWork (s.composerTake n l) := by
  have eligible : ∀ l : Label, l.mayCompose = true → l.mark = none := fun l h => by
    simpa [Label.mayCompose] using (Bool.and_elim_right h)
  unfold composerTake
  split
  · exact choiceWork_updCandidate (.refl s)
      (fun l h => by simp [Label.eligible, LabelState.unstarted, eligible l h])
      (fun l => by simp [Label.mayCompose]) s.composer
  · exact choiceWork_updCandidate (storeWork_drawAll ..)
      (fun l h => by simp [Label.eligible, LabelState.unstarted, eligible l h])
      (fun l => by simp [Label.mayCompose]) _

/-- A label taken is no candidate any more. -/
theorem countP_updCandidate_lt {s : State} {n : StationNo} {l : Label} {f : Label → Label}
    (candidate : (s.station n).candidate? = some l) (taken : ∀ l, (f l).mayCompose = false) :
    ((s.updCandidate n l.ctx f).station n).queue.countP Label.mayCompose <
      (s.station n).queue.countP Label.mayCompose := by
  have mem := List.mem_of_find?_eq_some candidate
  have may : l.mayCompose = true := List.find?_some candidate
  obtain ⟨before, after, queue⟩ := List.append_of_mem mem
  have fewer : ∀ q : List Label,
      (q.map fun x => if x.ctx = l.ctx then (if x.mayCompose then f x else x) else x).countP
        Label.mayCompose ≤ q.countP Label.mayCompose := countP_map_le fun x h => by
    split at h
    · split at h
      · next may => exact may
      · exact h
    · exact h
  have b := fewer before
  have a := fewer after
  simp only [updCandidate, updLabel, station_updStation, queue, List.map_append, List.map_cons,
    List.countP_append, List.countP_cons, may, if_true, taken, Bool.false_eq_true, if_false]
  omega

theorem candidates_composerTake {s : State} {n : StationNo} {l : Label}
    (candidate : (s.station n).candidate? = some l) :
    (s.composerTake n l).candidates < s.candidates := by
  have work := choiceWork_composerTake s n l
  refine List.sum_lt_sum _ _ (fun m _ => ?_) ⟨n, StationNo.mem_all n, ?_⟩
  · obtain ⟨g, -, fewer, e⟩ := work.stations m
    rw [e]
    exact countP_map_le fewer _
  · unfold composerTake
    split
    · exact countP_updCandidate_lt candidate fun l => by simp [Label.mayCompose]
    · have drawn := (storeWork_drawAll l.counterPins s).station n
      rw [← drawn] at candidate ⊢
      exact countP_updCandidate_lt candidate fun l => by simp [Label.mayCompose]

/-- The Composer is BUSY or has no candidate. -/
def Chosen (s : State) : Prop :=
  s.composer.isSome = true ∨ ∀ n, (s.station n).candidate? = none

theorem choiceWork_composerChoose (k : Nat) :
    ∀ s : State, s.ChoiceWork (State.composerChoose k s) := by
  induction k with
  | zero => exact .refl
  | succ k ih =>
    intro s
    unfold composerChoose
    split
    · exact .refl s
    split
    · exact .refl s
    split
    · exact .refl s
    · exact (choiceWork_composerTake ..).trans (ih _)

theorem chosen_composerChoose (k : Nat) :
    ∀ s : State, s.candidates < k → (State.composerChoose k s).Chosen := by
  induction k with
  | zero => exact fun s h => absurd h (Nat.not_lt_zero _)
  | succ k ih =>
    intro s enough
    unfold composerChoose
    split
    · next busy => exact .inl busy
    split
    · next none => exact .inr (composerPick?_eq_none_iff.mp none)
    next n pick =>
    split
    · next none => exact absurd none (candidate?_of_pick pick)
    · next l candidate =>
      have fewer := candidates_composerTake candidate
      exact ih _ (by omega)

theorem choiceWork_chooseLabels (s : State) : s.ChoiceWork s.chooseLabels :=
  choiceWork_composerChoose ..

theorem chosen_chooseLabels (s : State) : s.chooseLabels.Chosen :=
  chosen_composerChoose _ s s.candidates_lt_choiceRounds

/-! ### The start test (R141, R142) -/

/-- What the start test starts or disposes of is an eligible label at the head. -/
theorem head_of_startTest {s : State} {n : StationNo} (h : s.startTest n ≠ .wait) :
    ∃ l rest, (s.station n).queue = l :: rest ∧ l.eligible = true ∧
      ∀ l', s.startTest n = .start l' → l' = l := by
  unfold startTest at h ⊢
  dsimp only at h ⊢
  cases queue : (s.station n).queue with
  | nil => simp [queue] at h
  | cons l rest =>
    simp only [queue, List.head?_cons] at h ⊢
    split at h
    · exact absurd rfl h
    next into =>
    have unmarked : l.mark = none := by
      simp only [not_or, Option.not_isSome_iff_eq_none] at into
      exact into.2.1
    refine ⟨l, rest, rfl, ?_, ?_⟩
    · cases state : l.state <;> simp_all [Label.eligible, LabelState.unstarted]
    · rw [if_neg into]
      intro l'
      cases l.state with
      | ready =>
        cases (s.station n).profile with
        | none => exact nofun
        | some p =>
          dsimp only
          split
          · exact nofun
          · intro same
            injection same with same
            exact same.symm
      | _ => exact nofun

theorem eligible_cons {l : Label} {rest : List Label} (h : l.eligible = true) (t : Station)
    (queue : t.queue = l :: rest) : t.eligible.length = (rest.filter Label.eligible).length + 1 := by
  rw [Station.eligible, queue, List.filter_cons_of_pos h, List.length_cons]

theorem paired_disposeHead {s : State} {n : StationNo} {st : Status}
    (served : s.startTest n ≠ .wait) (p : (s.station n).Paired) :
    ((s.disposeHead n st).station n).Paired := by
  obtain ⟨l, rest, queue, eligible, -⟩ := head_of_startTest served
  have after : (s.disposeHead n st).station n = { s.station n with
      triggers := (s.station n).triggers.drop 1, queue := rest } := by
    rw [disposeHead, station_finishHead, station_updStation]
    simp [queue]
  rw [after]
  refine p.of_drop (j := 1) rfl ?_
  rw [eligible_cons eligible _ queue]
  rfl

/-- The head taken for printing leaves the pairing with its entry. -/
theorem station_takeHead (s : State) (n : StationNo) (l : Label) :
    ((s.takeHead n l).station n).state = .printing ∧
      ((s.takeHead n l).station n).triggers = (s.station n).triggers.drop 1 ∧
      ((s.takeHead n l).station n).queue = (s.station n).queue.map fun x =>
        if x.ctx = l.ctx then { x with state := .printing } else x := by
  simp [takeHead, updLabel, enter, Station.enter]

theorem paired_takeHead {s : State} {n : StationNo} {l : Label} (start : s.startTest n = .start l)
    (p : (s.station n).Paired) : ((s.takeHead n l).station n).Paired := by
  obtain ⟨l', rest, queue, eligible, same⟩ := head_of_startTest (by rw [start]; exact nofun)
  obtain rfl := same l start
  obtain ⟨-, triggers, labels⟩ := station_takeHead s n l
  refine p.of_drop triggers ?_
  rw [eligible_cons eligible _ queue, Station.eligible, labels, queue, List.map_cons, if_pos rfl,
    List.filter_cons_of_neg (by simp [Label.eligible, LabelState.unstarted])]
  refine Nat.succ_le_succ ?_
  rw [← List.countP_eq_length_filter, ← List.countP_eq_length_filter, List.countP_map]
  refine List.countP_mono_left fun x _ h => ?_
  simp only [Function.comp] at h
  split at h
  · simp [Label.eligible, LabelState.unstarted] at h
  · exact h

/-- A station that has begun to print is not IDLE. -/
theorem station_printStart (s : State) (n : StationNo) (l : Label) :
    (((s.printStart n l).station n).state = .fault ∧ ((s.printStart n l).station n).triggers = []) ∨
      ((s.printStart n l).station n).state = .printing ∧
        ((s.printStart n l).station n).triggers = ((s.takeHead n l).station n).triggers ∧
        ((s.printStart n l).station n).queue = ((s.takeHead n l).station n).queue := by
  have begun := station_beginPrinting ((s.takeHead n l).resetUnregistered n) n
    (if (s.station n).aligned then .printed else .leading)
  rw [← printStart_eq] at begun
  simpa [resetUnregistered, (station_takeHead s n l).1] using begun

theorem waits_startLoop (n : StationNo) (r : Nat) : ∀ s : State, (s.station n).queue.length < r →
    ((State.startLoop n r s).station n).Waits := by
  induction r with
  | zero => exact fun s h => absurd h (Nat.not_lt_zero _)
  | succ r ih =>
    intro s enough
    unfold startLoop
    split
    · next wait => exact startTest_eq_wait_iff.mp wait
    · next l start =>
      intro _ _ idle
      rcases station_printStart s n l with ⟨fault, -⟩ | ⟨printing, -⟩
      · exact absurd (fault.symm.trans idle) nofun
      · exact absurd (printing.symm.trans idle) nofun
    · next st finish =>
      obtain ⟨l, rest, queue, -⟩ := head_of_startTest (by rw [finish]; exact nofun)
      refine ih _ ?_
      rw [station_finishHead, station_updStation]
      simp only [queue, List.length_cons, List.tail_cons] at enough ⊢
      omega

theorem paired_startLoop (n : StationNo) (r : Nat) : ∀ s : State, (s.station n).Paired →
    ((State.startLoop n r s).station n).Paired := by
  induction r with
  | zero => exact fun s p => p
  | succ r ih =>
    intro s p
    unfold startLoop
    split
    · exact p
    · next l start =>
      rcases station_printStart s n l with ⟨-, none⟩ | ⟨-, triggers, queue⟩
      · exact Station.paired_of_no_triggers none
      · exact (paired_takeHead start p).of_drop (j := 0) triggers
          (by rw [Station.eligible, Station.eligible, queue]; rfl)
    · next st finish => exact ih _ (paired_disposeHead (by rw [finish]; exact nofun) p)

theorem laneWork_startStation (s : State) (n : StationNo) : s.LaneWork n (s.startStation n) :=
  laneWork_startLoop ..

theorem waits_startStation (s : State) (n : StationNo) : ((s.startStation n).station n).Waits :=
  waits_startLoop n _ s (Nat.lt_succ_self _)

theorem waits_startStation_of_waits {s : State} (m : StationNo) {n : StationNo}
    (h : (s.station n).Waits) : ((s.startStation m).station n).Waits := by
  by_cases e : n = m
  · exact e ▸ waits_startStation s n
  · rw [(laneWork_startStation s m).others n e]
    exact h

theorem waits_startAll (s : State) (n : StationNo) : (s.startAll.station n).Waits :=
  foldl_reaches (P := fun n s => (s.station n).Waits) waits_startStation
    (fun _ m _ h => waits_startStation_of_waits m h) _ s n (StationNo.mem_all n)

/-! ### What the start tests and the service test keep -/

/-- Nothing is left of pairing and of the Composer's choice. -/
structure Placed (s : State) : Prop where
  paired : ∀ n, (s.station n).Paired
  chosen : s.Chosen

/-- Nothing is left for the service test (R186). -/
def Served (s : State) : Prop :=
  s.check.isSome = true ∨ ∀ n, s.checkPending.get n = true → (s.station n).state.checkable = false

theorem candidate?_eq_none_iff {t : Station} :
    t.candidate? = none ↔ t.queue.countP Label.mayCompose = 0 := by
  rw [Station.candidate?, List.find?_eq_none, List.countP_eq_zero]

theorem LaneWork.chosen {n : StationNo} {s t : State} (h : s.LaneWork n t) (c : s.Chosen) :
    t.Chosen := by
  unfold Chosen
  rw [h.composer]
  refine c.imp_right fun none m => ?_
  by_cases e : m = n
  · subst e
    have before := candidate?_eq_none_iff.mp (none m)
    exact candidate?_eq_none_iff.mpr (Nat.le_zero.mp (before ▸ h.station.candidates))
  · rw [h.others m e]
    exact none m

theorem LaneWork.served {n : StationNo} {s t : State} (h : s.LaneWork n t) (c : s.Served) :
    t.Served := by
  unfold Served
  rw [h.check, h.checkPending]
  refine c.imp_right fun away m asked => ?_
  by_cases e : m = n
  · subst e
    by_contra checkable
    rw [Bool.not_eq_false] at checkable
    rw [h.station.state checkable, away m asked] at checkable
    cases checkable
  · rw [h.others m e]
    exact away m asked

theorem placed_startStation {s : State} (n : StationNo) (h : s.Placed) : (s.startStation n).Placed := by
  refine ⟨fun m => ?_, (laneWork_startStation s n).chosen h.chosen⟩
  by_cases e : m = n
  · subst e
    exact paired_startLoop m _ s (h.paired m)
  · rw [(laneWork_startStation s n).others m e]
    exact h.paired m

theorem placed_startAll {s : State} (h : s.Placed) : s.startAll.Placed :=
  foldl_keeps (fun _ n => placed_startStation n) _ s h

theorem served_startAll {s : State} (h : s.Served) : s.startAll.Served :=
  foldl_keeps (fun s n => (laneWork_startStation s n).served) _ s h

/-! ### The begin of a check (R184) -/

theorem beginAtStation_eq (s : State) (n : StationNo) :
    ∃ f, s.beginAtStation n = s.updStation n f ∧ ∀ t, (f t).queue = t.queue ∧
      (f t).triggers = t.triggers ∧ (f t).fetching = t.fetching := by
  have same : s = s.updStation n id := (updStation_self rfl).symm
  unfold beginAtStation
  cases (s.station n).state
  case idle | held =>
    simp only [enterChecking, enter, updStation_updStation]
    exact ⟨_, rfl, fun _ => ⟨rfl, rfl, rfl⟩⟩
  case parked =>
    simp only [wakeUp, enter, updStation_updStation]
    exact ⟨_, rfl, fun _ => ⟨rfl, rfl, rfl⟩⟩
  case waking => exact ⟨_, rfl, fun _ => ⟨rfl, rfl, rfl⟩⟩
  all_goals exact ⟨id, same, fun _ => ⟨rfl, rfl, rfl⟩⟩

theorem station_beginCheck (s : State) (n : StationNo) (o : CheckOrigin) (m : StationNo) :
    ((s.beginCheck n o).station m).queue = (s.station m).queue ∧
      ((s.beginCheck n o).station m).triggers = (s.station m).triggers ∧
      ((s.beginCheck n o).station m).fetching = (s.station m).fetching := by
  obtain ⟨f, e, same⟩ := beginAtStation_eq s n
  have station : (s.beginCheck n o).station m = (s.updStation n f).station m :=
    (rfl : _ = (s.beginAtStation n).station m).trans (by rw [e])
  rw [station]
  by_cases em : m = n
  · subst em
    rw [station_updStation]
    exact same _
  · rw [station_updStation_ne s f em]
    exact ⟨rfl, rfl, rfl⟩

theorem spares_beginCheck (s : State) (n : StationNo) (o : CheckOrigin) :
    s.Spares (s.beginCheck n o) := by
  obtain ⟨f, e, same⟩ := beginAtStation_eq s n
  have lane := spares_updStation s n (same (s.station n)).2.2
  rw [← e] at lane
  exact lane.trans (.of_same rfl rfl rfl rfl rfl rfl)

theorem composer_beginCheck (s : State) (n : StationNo) (o : CheckOrigin) :
    (s.beginCheck n o).composer = s.composer := by
  obtain ⟨f, e, -⟩ := beginAtStation_eq s n
  exact (rfl : _ = (s.beginAtStation n).composer).trans (by rw [e]; rfl)

theorem placed_beginCheck {s : State} (n : StationNo) (o : CheckOrigin) (h : s.Placed) :
    (s.beginCheck n o).Placed := by
  refine ⟨fun m => ?_, ?_⟩
  · obtain ⟨queue, triggers, -⟩ := station_beginCheck s n o m
    exact (h.paired m).of_drop (j := 0) triggers (by rw [Station.eligible, Station.eligible, queue]; rfl)
  · unfold Chosen
    rw [composer_beginCheck]
    exact h.chosen.imp_right fun none m => by
      rw [Station.candidate?, (station_beginCheck s n o m).1]
      exact none m

/-! ### The service test and the start tests (R141 to R143, R184, R186) -/

/-- The stations whose start test does not wait. -/
def racing (s : State) : Nat := (StationNo.all.map fun n => if s.startTest n = .wait then 0 else 1).sum

theorem racing_le (s : State) : s.racing ≤ 4 := by
  have each : ∀ n, (if s.startTest n = .wait then 0 else 1) ≤ 1 := fun n => by split <;> omega
  have h0 := each .s0
  have h1 := each .s1
  have h2 := each .s2
  have h3 := each .s3
  simp only [racing, StationNo.all, List.map_cons, List.map_nil, List.sum_cons, List.sum_nil]
  omega

theorem racing_startStation {s : State} {n : StationNo} (h : s.startTest n ≠ .wait) :
    (s.startStation n).racing < s.racing := by
  refine List.sum_lt_sum _ _ (fun m _ => ?_) ⟨n, StationNo.mem_all n, ?_⟩
  · by_cases wait : s.startTest m = .wait
    · rw [if_pos wait, if_pos (startTest_eq_wait_iff.mpr
        (waits_startStation_of_waits n (startTest_eq_wait_iff.mp wait)))]
    · rw [if_neg wait]
      split <;> omega
  · rw [if_neg h, if_pos (startTest_eq_wait_iff.mpr (waits_startStation s n))]
    exact Nat.one_pos

theorem serveAndStart_waits (k : Nat) : ∀ (s : State) (n : StationNo),
    ((s.serveAndStart k).station n).Waits := by
  induction k with
  | zero => exact waits_startAll
  | succ k ih =>
    intro s
    unfold serveAndStart
    split
    · exact waits_startAll s
    split
    · dsimp only
      split
      · exact waits_startAll _
      · exact ih _
    · exact waits_startAll _

theorem serveAndStart_placed (k : Nat) : ∀ s : State, s.Placed → (s.serveAndStart k).Placed := by
  induction k with
  | zero => exact fun s h => placed_startAll h
  | succ k ih =>
    intro s h
    have counted : State.Placed { s with freeIndex := s.freeIndex + 1 } := ⟨h.paired, h.chosen⟩
    unfold serveAndStart
    split
    · exact placed_startAll h
    split
    · dsimp only
      split
      · exact placed_startAll (placed_beginCheck _ _ counted)
      · exact ih _ (placed_startStation _ counted)
    · exact placed_startAll (placed_beginCheck _ _ h)

/-- Each round in which a start goes first takes one station out of the race, so five rounds are enough. -/
theorem serveAndStart_served (k : Nat) : ∀ s : State, s.racing < k → (s.serveAndStart k).Served := by
  induction k with
  | zero => exact fun s h => absurd h (Nat.not_lt_zero _)
  | succ k ih =>
    intro s enough
    have begun : ∀ (s : State) n, (s.beginCheck n .auto).startAll.Served :=
      fun s n => served_startAll (.inl rfl)
    unfold serveAndStart
    split
    · next none => exact served_startAll (serviceStation?_eq_none_iff.mp none)
    split
    · next n _ races =>
      have start : s.startTest n ≠ .wait := by
        simpa using Bool.and_elim_right races
      dsimp only
      split
      · exact begun _ _
      · have fewer := racing_startStation (s := { s with freeIndex := s.freeIndex + 1 }) start
        exact ih _ (lt_of_lt_of_le fewer (Nat.le_of_lt_succ enough))
    · exact begun _ _

theorem spares_startAll (s : State) : s.Spares s.startAll :=
  .foldl (fun s n => (laneWork_startStation s n).toSpares) _ s

theorem spares_serveAndStart (k : Nat) : ∀ s : State, s.Spares (s.serveAndStart k) := by
  induction k with
  | zero => exact spares_startAll
  | succ k ih =>
    intro s
    have counted : s.Spares { s with freeIndex := s.freeIndex + 1 } := .of_same rfl rfl rfl rfl rfl rfl
    unfold serveAndStart
    split
    · exact spares_startAll s
    split
    · dsimp only
      split
      · exact (counted.trans (spares_beginCheck ..)).trans (spares_startAll _)
      · exact (counted.trans (laneWork_startStation ..).toSpares).trans (ih _)
    · exact (spares_beginCheck ..).trans (spares_startAll _)

/-! ### The park timers (R157) -/

theorem station_parkTimers (s : State) (n : StationNo) :
    s.parkTimers.station n = { s.station n with parkTimer := (s.station n).parkTimerAt s.clock } := by
  cases n <;> simp [parkTimers, StationNo.all, parkStation, station_updStation_ne]

theorem parkTimers_rest (s : State) : s.parkTimers.composer = s.composer ∧
    s.parkTimers.check = s.check ∧ s.parkTimers.checkPending = s.checkPending := by
  simp only [parkTimers, StationNo.all, List.foldl_cons, List.foldl_nil, parkStation,
    updStation_composer, updStation_check, updStation_checkPending, and_self]

theorem rests_parkTimers {s : State} {n : StationNo} (paired : (s.station n).Paired)
    (waits : (s.station n).Waits) : (s.parkTimers.station n).Rests := by
  rw [station_parkTimers]
  refine ⟨paired, waits, Station.parkTimerAt_eq_iff (clock := s.clock).mp ?_⟩
  simp only [Station.parkTimerAt]
  cases (s.station n).profile with
  | none => rfl
  | some p =>
    dsimp only
    split <;> simp

theorem spares_parkTimers (s : State) : s.Spares s.parkTimers :=
  .foldl (fun s n => spares_updStation s n rfl) _ s

/-! ### The end of an event -/

theorem quiet_parkTimers {s : State} (placed : s.Placed) (served : s.Served)
    (waits : ∀ n, (s.station n).Waits) : s.parkTimers.quiet = true := by
  obtain ⟨composer, check, checkPending⟩ := parkTimers_rest s
  refine quiet_iff_rests.mpr ⟨fun n => rests_parkTimers (placed.paired n) (waits n), ?_, ?_⟩
  · simp only [station_parkTimers, composer]
    exact placed.chosen
  · simp only [station_parkTimers, check, checkPending]
    exact served

/-- The end of an event leaves nothing to do at the stations, the Composer and the DCU, whatever the state. -/
theorem quiet_settleStations (s : State) : s.settleStations.quiet = true := by
  have choice := choiceWork_chooseLabels s.pairAll
  have placed : s.pairAll.chooseLabels.Placed :=
    ⟨fun n => choice.paired (paired_pairAll s n), chosen_chooseLabels _⟩
  unfold settleStations
  exact quiet_parkTimers (serveAndStart_placed 5 _ placed)
    (serveAndStart_served 5 _ (Nat.lt_succ_of_le (racing_le _))) (serveAndStart_waits 5 _)

theorem spares_settleStations (s : State) : s.Spares s.settleStations :=
  (((Spares.foldl (fun s n => (laneWork_pairStation s n).toSpares) _ s).trans
    (choiceWork_chooseLabels _).toSpares).trans (spares_serveAndStart 5 _)).trans
    (spares_parkTimers _)

theorem sameLanes_settleBus (s : State) : s.SameLanes s.settleBus := by
  rw [settleBus_eq]
  exact .refl s

theorem atRest_settleBus {s : State} (h : s.quiet = true) : s.settleBus.atRest = true :=
  Bool.and_eq_true_iff.mpr ⟨(sameLanes_settleBus s).sameRest.quiet h, busQuiet_settleBus s⟩

theorem atRest_finishEvent (s : State) : s.finishEvent.atRest = true :=
  atRest_settleBus (quiet_settleStations s)

end State

/-- Settles O10: the end of an event comes to rest, and what rest means is read off it part by part. -/
theorem eventEndComesToRest : Obligations.EventEndComesToRest := by
  refine ⟨State.atRest_finishEvent, fun s rest => ?_⟩
  obtain ⟨quiet, busQuiet⟩ := Bool.and_eq_true_iff.mp rest
  obtain ⟨rests, chosen, served⟩ := State.quiet_iff_rests.mp quiet
  obtain ⟨resting, free⟩ := State.busQuiet_iff_resting.mp busQuiet
  refine ⟨fun n => (rests n).paired, fun n => State.startTest_eq_wait_iff.mpr (rests n).waits,
    fun n p profile => ?_, fun n none => ?_, fun idle => chosen.resolve_left (by simp [idle]),
    fun idle n asked => ?_, fun c none => ?_, free⟩
  · rw [(rests n).parks]
    exact ⟨fun ⟨_, found, parks⟩ => by cases profile.symm.trans found; exact parks,
      fun parks => ⟨p, profile, parks⟩⟩
  · have stays : ¬(s.station n).Parks := fun ⟨_, found, _⟩ => nomatch none.symm.trans found
    rw [← (rests n).parks] at stays
    exact Option.not_isSome_iff_eq_none.mp stays
  · have away := served.resolve_left (by simp [idle]) n asked
    simpa [StationState.checkable] using away
  · obtain ⟨written, work, fetch⟩ := resting c none
    refine ⟨written, fun d i w hand => ?_, fetch⟩
    have := work _ hand
    cases w with
    | owner => exact .inl rfl
    | busy => exact .inr rfl
    | _ => cases this

end Sys2Proof.Machine
end

section
/-! What no step breaks: the ranges of the ring registers (R82), and that nothing is left to do when a step ends. -/

namespace Sys2Proof.Machine

/-! ### Work on the channels and the BMA -/

/-- The second state differs from the first in the channels and the BMA alone. -/
def State.ChanWork (s t : State) : Prop :=
  ∃ control rings bus transfer pointer, t = { s with
    control := control, rings := rings, bus := bus, transfer := transfer, pointer := pointer }

namespace State.ChanWork

theorem refl (s : State) : s.ChanWork s := ⟨_, _, _, _, _, rfl⟩

theorem trans {s t u : State} (h : s.ChanWork t) (k : t.ChanWork u) : s.ChanWork u := by
  obtain ⟨_, _, _, _, _, rfl⟩ := h
  obtain ⟨_, _, _, _, _, rfl⟩ := k
  exact ⟨_, _, _, _, _, rfl⟩

theorem sameLanes {s t : State} (h : s.ChanWork t) : s.SameLanes t := by
  obtain ⟨_, _, _, _, _, rfl⟩ := h
  exact .refl s

theorem sameEvents {s t : State} (h : s.ChanWork t) : s.SameEvents t := by
  obtain ⟨_, _, _, _, _, rfl⟩ := h
  exact ⟨rfl, rfl, rfl⟩

theorem sameRecords {s t : State} (h : s.ChanWork t) : s.SameRecords t := by
  obtain ⟨_, _, _, _, _, rfl⟩ := h
  exact .refl s

theorem foldl {β : Type} {f : State → β → State} (h : ∀ s b, State.ChanWork s (f s b)) (l : List β) :
    ∀ s : State, s.ChanWork (l.foldl f s) := by
  induction l with
  | nil => exact .refl
  | cons b l ih => exact fun s => (h s b).trans (ih _)

end State.ChanWork

namespace State

theorem chanWork_updChan (s : State) (c : Chan) (f : Channel → Channel) :
    s.ChanWork (s.updChan c f) := by
  cases c <;> exact ⟨_, _, _, _, _, rfl⟩

theorem chanWork_endTransfer (s : State) (c : Chan) : s.ChanWork (s.endTransfer c) :=
  (chanWork_updChan s c _).trans ⟨_, _, _, _, _, rfl⟩

theorem chanWork_settleBus (s : State) : s.ChanWork s.settleBus := ⟨_, _, _, _, _, settleBus_eq s⟩

theorem chanWork_stopChannel (s : State) (c : Chan) (k : StopCause) :
    s.ChanWork (s.stopChannel c k) := chanWork_updChan ..

theorem chanWork_setWork (s : State) (c : Chan) (w : Work) : s.ChanWork (s.setWork c w) :=
  chanWork_updChan ..

theorem chanWork_pollNamed (s : State) (w : Word) : s.ChanWork (s.pollNamed w) :=
  .foldl (fun s c => by
    split
    · exact chanWork_updChan ..
    · exact .refl s) _ s

theorem tableWork_dropLoading_any (s : State) (h : Nat) : s.TableWork (s.dropLoading h) := by
  have dropped : s.TableWork (if (s.record h).state = .loading then s.setRecord h Record.empty
      else s.setRecord h { s.record h with loading := none }) := by
    split <;> exact tableWork_setRecord ..
  unfold dropLoading
  dsimp only
  split
  · exact dropped.trans (tableWork_freeBlocks ..)
  · exact dropped

end State

/-! ### The ring registers in their ranges (R82) -/

/-- What R82 asks of a channel's registers, and of RCH-C besides. -/
structure Channel.Legal (c : Chan) (ch : Channel) : Prop where
  base : ch.base.toNat % 64 = 0
  size : ch.size = 0 ∨ within 16 1024 ch.size = true
  index : ch.fetchIndex = 0 ∨ ch.fetchIndex < ch.size
  full : c = .control → ch.state ≠ .full
  held : c = .control → ch.held = []
  pending : c = .control → ch.pendingCompletions = []

theorem State.ringsLegal_iff {s : State} :
    s.ringsLegal = true ↔ ∀ c, (s.chan c).Legal c := by
  simp only [ringsLegal, Channel.legal, Bool.and_eq_true, Bool.or_eq_true, List.all_eq_true,
    beq_iff_eq, bne_iff_ne, decide_eq_true_eq, List.isEmpty_iff]
  constructor
  · rintro ⟨⟨⟨registers, full⟩, held⟩, pending⟩ c
    obtain ⟨⟨base, size⟩, index⟩ := registers c (Chan.mem_all c)
    exact ⟨base, size, index, by rintro rfl; exact full, by rintro rfl; exact held,
      by rintro rfl; exact pending⟩
  · exact fun legal => ⟨⟨⟨fun c _ => ⟨⟨(legal c).base, (legal c).size⟩, (legal c).index⟩,
      (legal .control).full rfl⟩, (legal .control).held rfl⟩, (legal .control).pending rfl⟩

section

variable {s t : State}

/-- The channels are the same. -/
theorem State.ringsLegal_of_chan (h : s.ringsLegal = true) (chan : ∀ c, t.chan c = s.chan c) :
    t.ringsLegal = true :=
  ringsLegal_iff.mpr fun c => by rw [chan]; exact ringsLegal_iff.mp h c

theorem State.ringsLegal_updStation (n : StationNo) (f : Station → Station)
    (h : s.ringsLegal = true) : (s.updStation n f).ringsLegal = true :=
  ringsLegal_of_chan h fun _ => chan_updStation ..

theorem State.ringsLegal_updChan (h : s.ringsLegal = true) {c : Chan} {f : Channel → Channel}
    (legal : (s.chan c).Legal c → (f (s.chan c)).Legal c) : (s.updChan c f).ringsLegal = true := by
  refine ringsLegal_iff.mpr fun d => ?_
  by_cases e : d = c
  · subst e
    rw [chan_updChan]
    exact legal (ringsLegal_iff.mp h d)
  · rw [chan_updChan_ne s f e]
    exact ringsLegal_iff.mp h d

end

/-- The address a write of the base gives loses what is left over beside a multiple of 64. -/
theorem ringBaseOf_eq_shift (v : Word) : ringBaseOf v = (v >>> 6) <<< 6 := by
  have mask : ∀ i : Fin 32, (0xFFFFFFC0#32).getLsbD i = decide (6 ≤ i.val) := by decide
  refine BitVec.eq_of_getLsbD_eq fun i hi => ?_
  rw [ringBaseOf, BitVec.getLsbD_and, mask ⟨i, hi⟩, BitVec.getLsbD_shiftLeft,
    BitVec.getLsbD_ushiftRight]
  by_cases h : 6 ≤ i
  · simp [h, hi, Nat.not_lt.mpr h]
  · simp [h, Nat.lt_of_not_le h]

theorem ringBaseOf_toNat (v : Word) : (ringBaseOf v).toNat = v.toNat - v.toNat % 64 := by
  rw [ringBaseOf_eq_shift, BitVec.toNat_shiftLeft, BitVec.toNat_ushiftRight,
    Nat.shiftRight_eq_div_pow, Nat.shiftLeft_eq]
  have := v.isLt
  omega

namespace State

variable {s : State}

/-! ### The operations that change ring registers (R83, R85, R93) -/

theorem ringsLegal_takeHand (c : Chan) (d : List Byte) (w : Work) (h : s.ringsLegal = true) :
    (s.takeHand c d w).ringsLegal = true := by
  refine ringsLegal_updChan h fun l => ⟨l.base, l.size, ?_, fun _ => by simp, l.held, l.pending⟩
  show nextIndex _ _ = 0 ∨ nextIndex _ _ < _
  unfold nextIndex
  split
  · next fits => exact .inr fits
  · exact .inl rfl

theorem ringsLegal_takeDescriptor (c : Chan) (d : List Byte) (h : s.ringsLegal = true) :
    (s.takeDescriptor c d).ringsLegal = true := by
  unfold takeDescriptor
  split
  · exact ringsLegal_takeHand _ _ _ h
  · dsimp only
    split
    · exact (kept_acceptLabel ..).ringsLegal (ringsLegal_takeHand _ _ _ h)
    · exact ringsLegal_takeHand _ _ _ h

theorem ringsLegal_fetchEnded (c : Chan) (d : List Byte) (h : s.ringsLegal = true) :
    (s.fetchEnded c d).ringsLegal = true := by
  unfold fetchEnded
  split
  · exact (kept_stopChannel ..).ringsLegal h
  · split
    · exact ringsLegal_takeDescriptor c d h
    · exact (kept_foundHost s c).ringsLegal h

theorem ringsLegal_dropPending (c : Chan) (i : Nat) (h : s.ringsLegal = true) :
    (s.dropPending c i).ringsLegal = true := by
  refine ringsLegal_updChan h fun l => ⟨l.base, l.size, l.index, l.full, fun e => ?_, fun e => ?_⟩
  · simp [l.held e]
  · simp [l.pending e]

theorem ringsLegal_pendingWritten (c : Chan) (p : Completion) (h : s.ringsLegal = true) :
    (s.pendingWritten c p).ringsLegal = true :=
  (kept_retestFull ..).ringsLegal (ringsLegal_dropPending c _
    ((((kept_deliver ..).trans (kept_endTransfer ..)).trans (kept_raise ..)).ringsLegal h))

theorem ringsLegal_transferFailed (c : Chan) (x : Xfer) (h : s.ringsLegal = true) :
    (s.transferFailed c x).ringsLegal = true := by
  cases x with
  | fetch => exact (kept_stopFailed s c).ringsLegal h
  | burst => exact (kept_failWork s c fun _ => kept_dropLoading ..).ringsLegal h
  | profile => exact (kept_failWork s c fun _ => .refl s).ringsLegal h
  | data => exact (kept_failWork s c fun _ => kept_discardAt s c).ringsLegal h
  | handCompletion =>
    exact (kept_stopFailed _ c).ringsLegal (ringsLegal_updChan h fun l =>
      ⟨l.base, l.size, l.index, l.full, l.held, l.pending⟩)
  | pendingCompletion =>
    unfold transferFailed
    dsimp only
    split
    · exact (kept_stopAfterHand _ c).ringsLegal (ringsLegal_dropPending c _ h)
    · exact (kept_stopFailed s c).ringsLegal h

/-! ### The operations that change what is kept of a station -/

theorem reachTime_eq (s : State) (t : Word) : ∃ clock, s.reachTime t = { s with clock := clock } := by
  unfold reachTime
  split
  · exact ⟨s.clock, rfl⟩
  · exact ⟨t, rfl⟩

theorem chan_reachTime (s : State) (t : Word) (c : Chan) : (s.reachTime t).chan c = s.chan c := by
  obtain ⟨_, e⟩ := reachTime_eq s t
  rw [e]
  cases c <;> rfl

theorem ringsLegal_reachTime (t : Word) (h : s.ringsLegal = true) :
    (s.reachTime t).ringsLegal = true := ringsLegal_of_chan h (chan_reachTime s t)

theorem ringsLegal_joinTrigger (n : StationNo) (h : s.ringsLegal = true) :
    (s.joinTrigger n).ringsLegal = true := by
  unfold joinTrigger
  dsimp only
  split
  · exact (kept_overrun s n).ringsLegal h
  · exact ringsLegal_updStation n _ h

theorem ringsLegal_arrive (n : StationNo) (h : s.ringsLegal = true) :
    (s.arrive n).ringsLegal = true := by
  unfold arrive
  cases (s.station n).state
  case idle | printing | presenting | ejecting | checking | calibrating | waking =>
    exact ringsLegal_joinTrigger n h
  case parked =>
    dsimp only
    split
    · exact (kept_overrun s n).ringsLegal h
    · exact (kept_wakeUp ..).ringsLegal (ringsLegal_joinTrigger n h)
  case held | fault => exact (kept_skipOne s n).ringsLegal h
  case offline => exact h

theorem ringsLegal_calibrationMeasured (n : StationNo) (pitch : Nat) (h : s.ringsLegal = true) :
    (s.calibrationMeasured n pitch).ringsLegal = true := by
  unfold calibrationMeasured
  split
  · exact ((kept_setStock ..).trans (kept_enterReturn ..)).ringsLegal
      (ringsLegal_updStation n _ ((kept_report ..).ringsLegal h))
  · exact (kept_calibrationFails s n).ringsLegal h

theorem ringsLegal_judgeEdge (n : StationNo) (f : Feed) (h : s.ringsLegal = true) :
    (s.judgeEdge n f).ringsLegal = true := by
  unfold judgeEdge
  cases f.kind with
  | calibrate lines edges =>
    dsimp only [calibrationEdge]
    split
    · exact ringsLegal_updStation n _ h
    · exact ringsLegal_calibrationMeasured n _ h
  | leading => exact (kept_edge s n .leading).ringsLegal h
  | printed => exact (kept_edge s n .printed).ringsLegal h
  | peel j => exact (kept_edge s n (.peel j)).ringsLegal h
  | eject => exact (kept_edge s n .eject).ringsLegal h

theorem ringsLegal_leaveOffline (n : StationNo) (h : s.ringsLegal = true) :
    (s.leaveOffline n).ringsLegal = true := by
  unfold leaveOffline
  split
  · exact ringsLegal_updStation n _ (((kept_setStock ..).trans (kept_enterFault ..)).ringsLegal h)
  · exact ((kept_setStock ..).trans (kept_enter ..)).ringsLegal h

theorem ringsLegal_giveProfile (n : StationNo) (rd : Reader) (h : s.ringsLegal = true) :
    (s.giveProfile n rd).ringsLegal = true := by
  have taken := ringsLegal_updStation n (fun t => t.newProfile (profileOf rd)) h
  unfold giveProfile takeProfile
  dsimp only
  split
  · exact (kept_outcome ..).ringsLegal h
  · split
    · exact (kept_outcome ..).ringsLegal (ringsLegal_leaveOffline n taken)
    · exact (kept_outcome ..).ringsLegal taken

theorem ringsLegal_takeLimits (n : StationNo) (d : List Byte) (h : s.ringsLegal = true) :
    (s.takeLimits n d).ringsLegal = true := by
  unfold takeLimits
  split
  · exact (kept_outcome ..).ringsLegal h
  · exact ((kept_outcome ..).trans (kept_releasePaused ..)).ringsLegal (ringsLegal_updStation n _ h)

theorem ringsLegal_completeCheck (c : Check) (h : s.ringsLegal = true) :
    (s.completeCheck c).ringsLegal = true := by
  have recorded := (kept_raise _ (.dotcheckDone c.station)).ringsLegal
    (ringsLegal_updStation c.station
      (fun t => { t with map := c.map, summary := ⟨c.count, c.dots⟩ }) h)
  have ended : ∀ {x : State}, x.ringsLegal = true →
      State.ringsLegal { x.enterReturn c.station with check := none } = true :=
    fun hx => ((kept_enterReturn ..).trans (kept_rest _ ..)).ringsLegal hx
  unfold completeCheck
  dsimp only
  split
  · exact ended ((kept_report ..).ringsLegal recorded)
  · exact ended recorded

/-! ### Rest, where no station or no channel is at work -/

/-- A change of a channel that leaves its transfer keeps the rest of the machine. -/
theorem atRest_updChan {c : Chan} {f : Channel → Channel} (xfer : (f (s.chan c)).xfer = (s.chan c).xfer)
    (resting : (s.chan c).Resting → (f (s.chan c)).Resting) (h : s.atRest = true) :
    (s.updChan c f).atRest = true := by
  obtain ⟨quiet, busQuiet⟩ := Bool.and_eq_true_iff.mp h
  obtain ⟨rest, free⟩ := busQuiet_iff_resting.mp busQuiet
  refine Bool.and_eq_true_iff.mpr ⟨(chanWork_updChan s c f).sameLanes.sameRest.quiet quiet,
    busQuiet_iff_resting.mpr ⟨fun d => ?_, fun none d => ?_⟩⟩
  · by_cases e : d = c
    · subst e
      rw [chan_updChan]
      exact resting (rest d)
    · rw [chan_updChan_ne s f e]
      exact rest d
  · have here := free ((updChan_bus s c f).symm.trans none)
    by_cases e : d = c
    · subst e
      rw [chan_updChan, xfer]
      exact here d
    · rw [chan_updChan_ne s f e]
      exact here d

/-- A channel that comes to be STOPPED has no more to ask for than before (R97). -/
theorem atRest_stopChannel (c : Chan) (k : StopCause) (h : s.atRest = true) :
    (s.stopChannel c k).atRest = true := by
  refine atRest_updChan rfl (fun rest none => ?_) h
  obtain ⟨written, work, -⟩ := rest none
  exact ⟨written, work, fun _ => ⟨by simp, by simp⟩⟩

theorem atRest_setStopPending (c : Chan) (h : s.atRest = true) :
    (s.setStopPending c).atRest = true := atRest_updChan rfl id h

theorem atRest_stopIdle (c : Chan) (h : s.atRest = true) : (s.stopIdle c).atRest = true := by
  unfold stopIdle
  split
  · exact atRest_updChan rfl id (atRest_setStopPending c h)
  · exact atRest_stopChannel c _ h

/-- Nothing is left to do where every station is OFFLINE with empty queues and every channel STOPPED and empty. -/
theorem atRest_of_blank
    (stations : ∀ n, (s.station n).state = .offline ∧ (s.station n).queue = [] ∧
      (s.station n).triggers = [] ∧ (s.station n).parkTimer = none)
    (channels : ∀ c, (s.chan c).state = .stopped ∧ (s.chan c).xfer = none ∧
      (s.chan c).hand = none ∧ (s.chan c).pendingCompletions = []) : s.atRest = true := by
  refine Bool.and_eq_true_iff.mpr ⟨quiet_iff_rests.mpr ⟨fun n => ?_, .inr fun n => ?_,
    .inr fun n _ => ?_⟩, busQuiet_iff_resting.mpr ⟨fun c => ?_, fun _ c => (channels c).2.1⟩⟩
  · obtain ⟨offline, queue, triggers, parkTimer⟩ := stations n
    exact ⟨by simp [Station.Paired, triggers], by simp [Station.Waits, queue],
      by simp [Station.Parks, offline, parkTimer]⟩
  · simp [Station.candidate?, (stations n).2.1]
  · rw [(stations n).1]
    rfl
  · obtain ⟨stopped, -, hand, written⟩ := channels c
    exact fun _ => ⟨written, by simp [hand], fun _ => by simp [stopped]⟩

end State

/-! ### What a step keeps of both -/

/-- Legal ring registers stay legal, and what was at rest stays at rest. -/
structure State.Stays (s t : State) : Prop where
  legal : s.ringsLegal = true → t.ringsLegal = true
  rest : s.atRest = true → t.atRest = true

/-- Neither a channel nor the bus nor anything on which rest depends has changed. -/
structure State.Untouched (s t : State) : Prop where
  lanes : s.SameRest t
  chan : ∀ c, t.chan c = s.chan c
  bus : t.bus = s.bus

namespace State

variable {s t u : State}

theorem Stays.refl (s : State) : s.Stays s := ⟨id, id⟩

theorem Stays.trans (h : s.Stays t) (k : t.Stays u) : s.Stays u :=
  ⟨k.legal ∘ h.legal, k.rest ∘ h.rest⟩

theorem Untouched.trans (h : s.Untouched t) (k : t.Untouched u) : s.Untouched u :=
  ⟨h.lanes.trans k.lanes, fun c => (k.chan c).trans (h.chan c), k.bus.trans h.bus⟩

theorem Untouched.stays (h : s.Untouched t) : s.Stays t := by
  refine ⟨fun legal => ringsLegal_of_chan legal h.chan, fun rest => ?_⟩
  obtain ⟨quiet, busQuiet⟩ := Bool.and_eq_true_iff.mp rest
  refine Bool.and_eq_true_iff.mpr ⟨h.lanes.quiet quiet, ?_⟩
  rw [busQuiet_iff_resting] at busQuiet ⊢
  simpa only [h.chan, h.bus] using busQuiet

/-- A change outside stations, Composer, DCU and channels. -/
theorem Untouched.of_same (lanes : s.SameLanes t) (control : t.control = s.control)
    (rings : t.rings = s.rings) (bus : t.bus = s.bus) : s.Untouched t :=
  ⟨lanes.sameRest, fun c => by cases c <;> simp only [State.chan, control, rings], bus⟩

theorem untouched_updStation (s : State) (n : StationNo) {f : Station → Station}
    (h : (s.station n).SameRest (f (s.station n))) : s.Untouched (s.updStation n f) :=
  ⟨sameRest_updStation s n h, fun _ => chan_updStation .., rfl⟩

theorem untouched_raise (s : State) (e : Cause) : s.Untouched (s.raise e) :=
  .of_same (.refl s) rfl rfl rfl

theorem untouched_reachTime (s : State) (t : Word) : s.Untouched (s.reachTime t) := by
  obtain ⟨_, e⟩ := reachTime_eq s t
  rw [e]
  exact .of_same (.refl s) rfl rfl rfl

/-- An event whose end the stations, the Composer, the DCU, the channels and the BMA all take part in. -/
theorem stays_finishEvent (legal : s.ringsLegal = true → t.ringsLegal = true) :
    s.Stays t.finishEvent :=
  ⟨(kept_finishEvent t).ringsLegal ∘ legal, fun _ => atRest_finishEvent t⟩

/-- An event that only the channels and the BMA end. -/
theorem stays_settleBus (legal : s.ringsLegal = true → t.ringsLegal = true) (lanes : s.SameLanes t) :
    s.Stays t.settleBus :=
  ⟨(kept_settleBus t).ringsLegal ∘ legal, fun rest =>
    atRest_settleBus (lanes.sameRest.quiet (Bool.and_eq_true_iff.mp rest).1)⟩

end State

/-- The state an answer goes on with keeps the ring registers legal and the machine at rest. -/
def Answer.Stays (s : State) (a : Answer) : Prop := ∀ t, a = .next t → s.Stays t

namespace Answer.Stays

variable {s t : State}

theorem next (h : s.Stays t) : Answer.Stays s (.next t) := by
  rintro _ ⟨⟩
  exact h

theorem same : Answer.Stays s (.next s) := next (.refl s)

theorem untouched (h : s.Untouched t) : Answer.Stays s (.next t) := next h.stays

theorem fault (r : Fault) : Answer.Stays s (.fault r) := by rintro _ ⟨⟩

theorem refused (r : Refusal) : Answer.Stays s (.refused r) := by rintro _ ⟨⟩

theorem event (legal : s.ringsLegal = true → t.ringsLegal = true) :
    Answer.Stays s (.next t.finishEvent) := next (State.stays_finishEvent legal)

theorem busEvent (legal : s.ringsLegal = true → t.ringsLegal = true) (lanes : s.SameLanes t) :
    Answer.Stays s (.next t.settleBus) := next (State.stays_settleBus legal lanes)

end Answer.Stays

end Sys2Proof.Machine
end

section
/-! Every command keeps the ring registers legal and the machine at rest: what each command's event does, and which
blocks take part in its end. -/

namespace Sys2Proof.Machine

open State

/-! ### The card (R194, R205 to R207) -/

section

variable (s : State)

theorem stays_execHardwareReset : (execHardwareReset s).Stays s := by
  have initial : ∀ c, State.chan { State.reset with
      pending := s.pending, freeIndex := s.freeIndex, readData := s.readData, memory := s.memory,
      elements := s.elements,
      stations := ⟨s.stations.s0.hardwareReset, s.stations.s1.hardwareReset,
        s.stations.s2.hardwareReset, s.stations.s3.hardwareReset⟩ } c = Channel.initial := by
    rintro (_ | n)
    · rfl
    · exact Four.get_fill _ n
  refine .next ⟨fun _ => ringsLegal_iff.mpr fun c => ?_, fun _ => atRest_of_blank (fun n => ?_)
    fun c => ?_⟩
  · rw [initial]
    exact ⟨rfl, .inl rfl, .inl rfl, fun _ => by simp [Channel.initial], fun _ => rfl, fun _ => rfl⟩
  · cases n <;> exact ⟨rfl, rfl, rfl, rfl⟩
  · rw [initial]
    exact ⟨rfl, rfl, rfl, rfl⟩

theorem untouched_loaded (cfg : CardConfig) (defaulted : Bool) :
    s.Untouched (s.loaded cfg defaulted) :=
  ⟨⟨fun n => by cases n <;> exact ⟨rfl, rfl, rfl, rfl, rfl⟩, rfl, rfl, rfl⟩,
    fun c => by cases c <;> rfl, rfl⟩

theorem stays_execConfigRomLoadEnd (rom : Option (List Byte)) :
    (execConfigRomLoadEnd rom s).Stays s := by
  unfold execConfigRomLoadEnd
  split
  · exact .refused _
  · split
    · exact .same
    · split
      · exact .untouched (untouched_loaded ..)
      · exact .untouched ((untouched_loaded ..).trans (untouched_raise ..))

theorem chan_engineReset (c : Chan) : s.engineReset.chan c = (s.chan c).engineReset := by
  rcases c with _ | ⟨_ | _ | _ | _⟩ <;> rfl

theorem station_engineReset (n : StationNo) :
    s.engineReset.station n = (s.station n).engineReset := by cases n <;> rfl

theorem stays_execEngineReset (w : Word) : (execEngineReset w s).Stays s := by
  unfold execEngineReset
  split
  · refine .next ⟨fun legal => ringsLegal_iff.mpr fun c => ?_, fun _ => atRest_of_blank (fun n => ?_)
      fun c => ?_⟩
    · obtain ⟨base, size, -⟩ := ringsLegal_iff.mp legal c
      rw [chan_engineReset]
      exact ⟨base, size, .inl rfl, fun _ => by simp [Channel.engineReset, Channel.initial],
        fun _ => rfl, fun _ => rfl⟩
    · rw [station_engineReset]
      exact ⟨rfl, rfl, rfl, rfl⟩
    · rw [chan_engineReset]
      exact ⟨rfl, rfl, rfl, rfl⟩
  · exact .same

/-! ### START, STOP and poll demand (R86, R95 to R98) -/

theorem stays_execRingStart (c : Chan) (w : Word) : (execRingStart c w s).Stays s := by
  unfold execRingStart
  split
  · refine .next ⟨(kept_startRing s c).ringsLegal, fun rest => ?_⟩
    unfold startRing
    dsimp only
    split
    · split
      · exact atRest_updChan rfl id rest
      · exact (stays_settleBus (s := s) (ringsLegal_updChan · fun l =>
          ⟨l.base, l.size, l.index, fun _ => by simp, l.held, l.pending⟩)
          (chanWork_updChan ..).sameLanes).rest rest
    · exact rest
  · exact .same

theorem sameLanes_stopLoad (d : List Byte) (k : Nat) : s.SameLanes (s.stopLoad d k) := by
  have pending : s.SameLanes (s.setStopPending .control) := (chanWork_updChan ..).sameLanes
  unfold stopLoad
  dsimp only
  split
  · exact pending.trans (chanWork_setWork ..).sameLanes
  · exact ((pending.trans (chanWork_updChan ..).sameLanes).trans
      (tableWork_dropLoading_any ..).sameLanes).trans (chanWork_setWork ..).sameLanes

theorem stays_stopHand (c : Chan) (h : Hand) : s.Stays (s.stopHand c h) := by
  have pending : s.Stays (s.setStopPending c) :=
    ⟨(kept_setStopPending ..).ringsLegal, atRest_setStopPending c⟩
  unfold stopHand
  split
  · exact stays_settleBus (kept_stopLoad ..).ringsLegal (sameLanes_stopLoad ..)
  · exact pending

theorem stays_stopIdle (c : Chan) : s.Stays (s.stopIdle c) :=
  ⟨(kept_stopIdle s c).ringsLegal, atRest_stopIdle c⟩

theorem stays_execRingStop (c : Chan) (w : Word) : (execRingStop c w s).Stays s := by
  unfold execRingStop
  split
  · refine .next ?_
    unfold stopRing
    split
    · exact .refl s
    · exact stays_stopIdle s c
    · exact ⟨(kept_stopChannel ..).ringsLegal, atRest_stopChannel c _⟩
    · split
      · exact stays_stopHand s c _
      · exact stays_stopIdle s c
  · exact .same

theorem stays_execPollDemand (w : Word) : (execPollDemand w s).Stays s :=
  .busEvent (kept_pollNamed s w).ringsLegal (chanWork_pollNamed s w).sameLanes

/-! ### Settings, ring registers and the other registers (R83, R87, R102, R193 to R204) -/

theorem stays_execSetAutoPollInterval (w : Word) : (execSetAutoPollInterval w s).Stays s := by
  have repolled : ∀ (start : Option Word) (l : List Chan) (x : State),
      x.Stays (l.foldl (fun x c => x.updChan c fun ch => ch.repoll start) x) := by
    intro start l
    induction l with
    | nil => exact .refl
    | cons c l ih =>
      exact fun x => State.Stays.trans ⟨(ringsLegal_updChan · fun k =>
        ⟨k.base, k.size, k.index, k.full, k.held, k.pending⟩), atRest_updChan rfl id⟩ (ih _)
  have interval : s.Untouched { s with autoPoll := ctlAutoPoll w } :=
    .of_same (.refl s) rfl rfl rfl
  unfold execSetAutoPollInterval
  split
  · exact .next (interval.stays.trans (repolled ..))
  · exact .same

theorem stays_execSetArbiterMode (w : Word) : (execSetArbiterMode w s).Stays s := by
  unfold execSetArbiterMode
  split
  · exact .untouched (.of_same (.refl s) rfl rfl rfl)
  · exact .same

theorem stays_execRingBaseWrite (c : Chan) (v : Word) : (execRingBaseWrite c v s).Stays s := by
  unfold execRingBaseWrite
  split
  · refine .next ⟨(ringsLegal_updChan · fun l =>
      ⟨?_, l.size, .inl rfl, l.full, l.held, l.pending⟩), atRest_updChan rfl id⟩
    rw [ringBaseOf_toNat]
    omega
  · exact .same

theorem stays_execRingSizeWrite (c : Chan) (v : Word) : (execRingSizeWrite c v s).Stays s := by
  unfold execRingSizeWrite
  split
  · next taken =>
    exact .next ⟨(ringsLegal_updChan · fun l =>
      ⟨l.base, .inr taken.2, .inl rfl, l.full, l.held, l.pending⟩), atRest_updChan rfl id⟩
  · exact .same

theorem stays_execRingFetchIndexWrite (c : Chan) (v : Word) :
    (execRingFetchIndexWrite c v s).Stays s := by
  unfold execRingFetchIndexWrite
  split
  · next taken =>
    exact .next ⟨(ringsLegal_updChan · fun l =>
      ⟨l.base, l.size, .inr taken.2, l.full, l.held, l.pending⟩), atRest_updChan rfl id⟩
  · exact .same

theorem stays_execEventStatusClear (v : Word) : (execEventStatusClear v s).Stays s :=
  .untouched (.of_same (.refl s) rfl rfl rfl)

theorem stays_execEventEnableWrite (v : Word) : (execEventEnableWrite v s).Stays s :=
  .untouched (.of_same (.refl s) rfl rfl rfl)

theorem stays_execInspectionAddressWrite (v : Word) : (execInspectionAddressWrite v s).Stays s :=
  .untouched (.of_same (.refl s) rfl rfl rfl)

theorem stays_execInspectionDataRead (lanes : BitVec 4) :
    (execInspectionDataRead lanes s).Stays s := by
  unfold execInspectionDataRead
  split
  · exact .refused _
  · exact .untouched (.of_same (.refl s) rfl rfl rfl)

theorem stays_execStatusARead (n : StationNo) (lanes : BitVec 4) :
    (execStatusARead n lanes s).Stays s := by
  have read : s.Untouched { s with readData := s.statusA n &&& laneMask lanes } :=
    .of_same (.refl s) rfl rfl rfl
  unfold execStatusARead
  split
  · exact .refused _
  · exact .untouched (read.trans (untouched_updStation _ n ⟨rfl, rfl, rfl, rfl, rfl⟩))

theorem stays_execRegisterWriteIgnored (o : BitVec 8) (lanes : BitVec 4) (v : Word) :
    (execRegisterWriteIgnored o lanes v s).Stays s := by
  unfold execRegisterWriteIgnored
  split
  · exact .refused _
  · exact .same

/-! ### Station commands (R151 to R156) -/

/-- A station command whose own rule keeps both (R151). -/
theorem stays_stationCommand (n : StationNo) (code : BitVec 4) {act : State → CommandOutcome}
    (k : s.Stays (act s).2) : Answer.Stays s (.next (s.stationCommand n code act)) := by
  have recorded : ∀ (x : State) (r : CommandResult), x.Stays (x.recordCommand n code r) :=
    fun x _ => (untouched_updStation x n ⟨rfl, rfl, rfl, rfl, rfl⟩).stays
  refine .next ?_
  unfold stationCommand
  dsimp only
  split
  · exact recorded ..
  · split
    · exact recorded ..
    · exact k.trans (recorded ..)

/-- A command that is done, its event ended. -/
theorem State.Kept.stays_done {s x : State} (k : s.Kept x) : s.Stays x.done.2 := by
  simp only [State.done]
  exact stays_finishEvent k.ringsLegal

variable (n : StationNo)

/-- A hold pending that is set or cleared (R152, R153). -/
theorem stays_holdPending (b : Bool) :
    s.Stays (s.updStation n fun t => { t with holdPending := b }).doneAsIs.2 := by
  simp only [State.doneAsIs]
  exact (untouched_updStation s n ⟨rfl, rfl, rfl, rfl, rfl⟩).stays

theorem stays_hold : s.Stays (s.hold n).2 := by
  unfold hold
  cases (s.station n).state
  case idle | parked => exact (kept_enterHeld ..).stays_done
  case waking => exact ((kept_abortCheck ..).trans (kept_enterHeld ..)).stays_done
  case printing | presenting | ejecting | calibrating => exact stays_holdPending s n _
  case held | offline | fault | checking => exact .refl s

theorem stays_leaveRest : s.Stays (s.leaveRest n).2 := by
  unfold leaveRest
  split
  · exact (kept_enter ..).stays_done
  · exact (kept_wakeUp ..).stays_done

theorem stays_resume : s.Stays (s.resume n).2 := by
  unfold resume
  cases (s.station n).state
  case held => exact stays_leaveRest s n
  case fault =>
    dsimp only
    split
    · exact .refl s
    · split
      · exact .refl s
      · exact stays_leaveRest s n
  case printing | presenting | ejecting | calibrating => exact stays_holdPending s n _
  case parked | waking | idle | checking | offline => exact .refl s

theorem stays_flush : s.Stays (s.flush n).2 := by
  have flushed := kept_flushQueues s n
  unfold flush
  cases (s.station n).state
  case printing => exact (flushed.trans (kept_startEject ..)).stays_done
  case presenting => exact (flushed.trans (kept_enterRest ..)).stays_done
  case parked | waking | idle | ejecting | checking | held | fault => exact flushed.stays_done
  case offline | calibrating => exact .refl s

theorem stays_wake : s.Stays (s.wake n).2 := by
  unfold wake
  cases (s.station n).state
  case parked => exact (kept_wakeUp ..).stays_done
  all_goals exact .refl s

theorem stays_park : s.Stays (s.park n).2 := by
  unfold park
  split
  · exact (kept_enter ..).stays_done
  · exact .refl s

theorem stays_execStationCommandBadCode (v : Word) :
    (execStationCommandBadCode n v s).Stays s := by
  unfold execStationCommandBadCode
  split
  · exact .refused _
  · exact stays_stationCommand s n _ (.refl s)

/-! ### Commands of RCH-C (R14 to R26, R132, R159, R174, R183) -/

theorem sameLanes_refuseRecord (h : Nat) (r : Status × List CompletionField) :
    s.SameLanes (s.refuseRecord h r) := (chanWork_setWork ..).sameLanes

theorem tableWork_allocate {s t : State} {k : Nat} {bl : List Nat}
    (h : s.allocate k = some (bl, t)) : s.TableWork t := by
  unfold allocate at h
  split at h
  · cases h
    exact ⟨_, _, rfl⟩
  · cases h

theorem sameLanes_takeDefine (d : List Byte) : s.SameLanes (s.takeDefine d) := by
  unfold takeDefine
  split
  · exact sameLanes_refuseRecord ..
  · split
    · exact sameLanes_refuseRecord ..
    · next granted =>
      exact ((tableWork_allocate granted).sameLanes.trans (tableWork_setRecord ..).sameLanes).trans
        (chanWork_setWork ..).sameLanes

theorem sameLanes_takeAmend (d : List Byte) : s.SameLanes (s.takeAmend d) := by
  unfold takeAmend
  split
  · exact sameLanes_refuseRecord ..
  · split
    · exact sameLanes_refuseRecord ..
    · next granted =>
      exact ((tableWork_allocate granted).sameLanes.trans (tableWork_setRecord ..).sameLanes).trans
        (chanWork_setWork ..).sameLanes

theorem sameLanes_takeRetire (d : List Byte) : s.SameLanes (s.takeRetire d) := by
  unfold takeRetire
  dsimp only
  split
  · exact sameLanes_refuseRecord ..
  · split
    · exact (tableWork_freeRecord ..).sameLanes.trans (chanWork_setWork ..).sameLanes
    · exact (tableWork_setRecord ..).sameLanes.trans (chanWork_setWork ..).sameLanes

theorem sameLanes_takeQuery (d : List Byte) : s.SameLanes (s.takeQuery d) := by
  unfold takeQuery
  dsimp only
  split
  · exact sameLanes_refuseRecord ..
  · exact (chanWork_setWork ..).sameLanes

theorem stays_execDefine : (execDefine s).Stays s := by
  unfold execDefine
  split
  · exact .same
  · exact .busEvent (kept_takeDefine ..).ringsLegal (sameLanes_takeDefine ..)

theorem stays_execAmend : (execAmend s).Stays s := by
  unfold execAmend
  split
  · exact .same
  · exact .busEvent (kept_takeAmend ..).ringsLegal (sameLanes_takeAmend ..)

theorem stays_execRetire : (execRetire s).Stays s := by
  unfold execRetire
  split
  · exact .same
  · exact .busEvent (kept_takeRetire ..).ringsLegal (sameLanes_takeRetire ..)

theorem stays_execQuery : (execQuery s).Stays s := by
  unfold execQuery
  split
  · exact .same
  · exact .busEvent (kept_takeQuery ..).ringsLegal (sameLanes_takeQuery ..)

theorem stays_execSetProfile (bytes : List Byte) : (execSetProfile bytes s).Stays s := by
  unfold execSetProfile
  split
  · exact .refused _
  · split
    · exact .same
    · split
      · exact .same
      · exact .event fun h => ringsLegal_giveProfile _ _ ((kept_endTransfer ..).ringsLegal h)

theorem stays_execSetLimits : (execSetLimits s).Stays s := by
  unfold execSetLimits
  split
  · exact .same
  · split
    · exact .same
    · exact .event (ringsLegal_takeLimits _ _)

theorem stays_execCalibrate : (execCalibrate s).Stays s := by
  unfold execCalibrate
  split
  · exact .same
  · split
    · exact .same
    · exact .event (kept_takeCalibrate ..).ringsLegal

theorem stays_execDotcheck : (execDotcheck s).Stays s := by
  unfold execDotcheck
  split
  · exact .same
  · split
    · exact .same
    · exact .event (kept_takeDotcheck ..).ringsLegal

/-! ### The ends of transfers (R85 to R88, R92 to R94, R99, R100, R111) -/

theorem stays_execDescriptorFetchEnd (c : Chan) (bytes : List Byte) :
    (execDescriptorFetchEnd c bytes s).Stays s := by
  unfold execDescriptorFetchEnd
  split
  · exact .refused _
  · split
    · exact .event fun h => ringsLegal_fetchEnded c bytes ((kept_endTransfer s c).ringsLegal h)
    · exact .same

theorem stays_execBodyBurstEnd (bytes : List Byte) : (execBodyBurstEnd bytes s).Stays s := by
  have ended := kept_endTransfer s .control
  unfold execBodyBurstEnd
  split
  · exact .refused _
  split
  · exact .same
  split
  · exact .same
  split
  · exact .same
  split
  · exact .refused _
  split
  · exact .event (ended.trans (kept_abortLoad ..)).ringsLegal
  split
  · exact .fault _
  · exact .event (ended.trans (kept_burstEnded ..)).ringsLegal

theorem stays_execLabelDataTransferEnd (bytes : List Byte) :
    (execLabelDataTransferEnd n bytes s).Stays s := by
  unfold execLabelDataTransferEnd
  split
  · exact .refused _
  split
  · exact .same
  split
  · split
    · exact .refused _
    split
    · exact .fault _
    · exact .event ((kept_endTransfer ..).trans (kept_dataTransferEnded ..)).ringsLegal
  · exact .same
  · exact .same

theorem stays_execCompletionWriteEnd (c : Chan) : (execCompletionWriteEnd c s).Stays s := by
  unfold execCompletionWriteEnd
  split
  · split
    · exact .event (kept_handWritten ..).ringsLegal
    · exact .same
  · split
    · split
      · exact .event (ringsLegal_pendingWritten c _)
      · exact .same
    · exact .same

theorem stays_execTransferBusError (c : Chan) : (execTransferBusError c s).Stays s := by
  unfold execTransferBusError
  split
  · split
    · exact .event fun h => (kept_raiseRingError ..).ringsLegal
        (ringsLegal_transferFailed c _ ((kept_endTransfer s c).ringsLegal h))
    · exact .same
  · exact .same

theorem stays_execAutoPollExpiry (c : Chan) : (execAutoPollExpiry c s).Stays s := by
  unfold execAutoPollExpiry
  split
  · split
    · refine .busEvent (fun h => ringsLegal_updChan (ringsLegal_reachTime _ h) fun l =>
        ⟨l.base, l.size, l.index, l.full, l.held, l.pending⟩) ?_
      obtain ⟨_, e⟩ := reachTime_eq s _
      rw [e]
      exact State.SameLanes.trans (.refl s) (chanWork_updChan ..).sameLanes
    · exact .same
  · exact .same
  · exact .same

/-! ### Composition and finish (R117 to R126) -/

theorem stays_execComposerFieldStep : (execComposerFieldStep s).Stays s := by
  unfold execComposerFieldStep
  split
  · exact .same
  split
  · exact .same
  split
  · exact .event (kept_endMarked ..).ringsLegal
  split
  · exact .event (kept_rejectField ..).ringsLegal
  split
  · exact .fault _
  · exact .event (kept_placeField ..).ringsLegal

theorem stays_execComposerComplete : (execComposerComplete s).Stays s := by
  unfold execComposerComplete
  split
  · exact .same
  split
  · exact .same
  split
  · exact .event (kept_endMarked ..).ringsLegal
  split
  · exact .fault _
  · exact .event (kept_completeLabel ..).ringsLegal

theorem stays_execMarkedHeadFinish : (execMarkedHeadFinish n s).Stays s := by
  unfold execMarkedHeadFinish
  split
  · exact .event (kept_finishHead ..).ringsLegal
  · exact .same

/-! ### Triggers and their expiries (R134 to R138) -/

theorem stays_execTriggerLevelChange (high : Bool) : (execTriggerLevelChange n high s).Stays s := by
  have level : s.Untouched (s.updStation n fun t => { t with triggerHigh := high }) :=
    untouched_updStation s n ⟨rfl, rfl, rfl, rfl, rfl⟩
  have filter : ∀ x : State, ∀ timer : Option Word,
      x.Untouched (x.updStation n fun t => { t with filterTimer := timer }) :=
    fun x _ => untouched_updStation x n ⟨rfl, rfl, rfl, rfl, rfl⟩
  unfold execTriggerLevelChange
  split
  · exact .same
  refine .next ?_
  unfold triggerChanged
  dsimp only
  split
  · exact level.stays
  · split
    · split
      · split
        · exact stays_finishEvent fun h => ringsLegal_arrive n (level.stays.legal h)
        · exact (level.trans (filter ..)).stays
      · exact level.stays
    · exact (level.trans (filter ..)).stays

theorem stays_execTriggerArrival : (execTriggerArrival n s).Stays s := by
  unfold execTriggerArrival
  split
  · exact .event fun h => ringsLegal_arrive n (ringsLegal_updStation n _ (ringsLegal_reachTime _ h))
  · exact .same
  · exact .same

theorem stays_execLastStartExpiry (k : Nat) : (execLastStartExpiry n k s).Stays s := by
  unfold execLastStartExpiry
  split
  · exact .refused _
  split
  · exact .event fun h => (kept_expireEntry ..).ringsLegal (ringsLegal_reachTime _ h)
  · exact .same
  · exact .same

theorem stays_execDeadlineExpiry (k : Nat) : (execDeadlineExpiry n k s).Stays s := by
  unfold execDeadlineExpiry
  split
  · exact .refused _
  split
  · exact .event fun h =>
      ((kept_dropTrigger ..).trans (kept_raise ..)).ringsLegal (ringsLegal_reachTime _ h)
  · exact .same
  · exact .same

/-! ### Lines, strobes and edges (R144, R145, R155, R160, R164, R169) -/

theorem stays_execLinePeriodExpiry : (execLinePeriodExpiry n s).Stays s := by
  unfold execLinePeriodExpiry
  split
  · split
    · exact .same
    · exact .event (kept_nextLine ..).ringsLegal
  · exact .same

theorem stays_execStrobeSubphaseEnd : (execStrobeSubphaseEnd n s).Stays s :=
  .untouched (untouched_updStation s n ⟨rfl, rfl, rfl, rfl, rfl⟩)

theorem stays_execGapEdge : (execGapEdge n s).Stays s := by
  unfold execGapEdge
  split
  · split
    · exact .same
    · exact .event (ringsLegal_judgeEdge n _)
  · exact .same

/-! ### Stock, applicator, head and timers (R146, R148 to R150, R157, R158) -/

theorem stays_execMediaPresentFall (active : Bool) : (execMediaPresentFall n active s).Stays s := by
  have risen : s.Untouched (s.updStation n fun t => { t with mediaPresent := true }) :=
    untouched_updStation s n ⟨rfl, rfl, rfl, rfl, rfl⟩
  have fell : s.Untouched (s.updStation n fun t =>
      { t with mediaPresent := false, mediaLatch := false }) :=
    untouched_updStation s n ⟨rfl, rfl, rfl, rfl, rfl⟩
  unfold execMediaPresentFall mediaFell
  dsimp only
  split
  · exact .untouched risen
  split
  · split
    · exact .event ((kept_mediaFault ..).ringsLegal ∘ fell.stays.legal)
    · exact .untouched fell
  · exact .same

theorem stays_execApplied : (execApplied n s).Stays s := by
  unfold execApplied
  split
  · exact .event ((kept_finishHead ..).trans (kept_enterRest ..)).ringsLegal
  · exact .same

theorem stays_execApplyTimeout : (execApplyTimeout n s).Stays s := by
  unfold execApplyTimeout
  split
  · split
    · exact .event fun h =>
        ((kept_finishHead ..).trans (kept_enterFault ..)).ringsLegal (ringsLegal_reachTime _ h)
    · exact .same
  · exact .same
  · exact .same

theorem stays_execHeadOpenActive : (execHeadOpenActive n s).Stays s := by
  have input : s.Untouched (s.updStation n fun t => { t with headOpen := true }) :=
    untouched_updStation s n ⟨rfl, rfl, rfl, rfl, rfl⟩
  unfold execHeadOpenActive headLifted
  dsimp only
  split
  · exact .same
  split
  · exact .untouched input
  · exact .event ((kept_headOpened ..).ringsLegal ∘ input.stays.legal)

theorem stays_execHeadOpenInactive : (execHeadOpenInactive n s).Stays s := by
  have input : s.Untouched (s.updStation n fun t => { t with headOpen := false }) :=
    untouched_updStation s n ⟨rfl, rfl, rfl, rfl, rfl⟩
  unfold execHeadOpenInactive headClosed
  dsimp only
  split
  · split
    · exact .event ((kept_rest _ ..).ringsLegal ∘ input.stays.legal)
    · exact .untouched input
  · exact .same

theorem stays_execParkTimerExpiry : (execParkTimerExpiry n s).Stays s := by
  unfold execParkTimerExpiry
  split
  · split
    · exact .event fun h => (kept_enter ..).ringsLegal (ringsLegal_reachTime _ h)
    · exact .same
  · exact .same
  · exact .same

theorem stays_execWakeSettleExpiry : (execWakeSettleExpiry n s).Stays s := by
  unfold execWakeSettleExpiry
  split
  · split
    · exact .event fun h => (kept_endWake ..).ringsLegal (ringsLegal_reachTime _ h)
    · exact .same
  · exact .same

/-! ### Dot check and thermal sample (R175, R176, R184, R187, R188) -/

theorem stays_execDcuSettleExpiry : (execDcuSettleExpiry s).Stays s := by
  unfold execDcuSettleExpiry
  split
  · exact .same
  next checking =>
  split
  · exact .same
  split
  · refine .untouched ((untouched_reachTime s _).trans
      ⟨⟨fun _ => .refl _, rfl, ?_, rfl⟩, fun c => by cases c <;> rfl, rfl⟩)
    obtain ⟨_, e⟩ := reachTime_eq s _
    rw [e]
    simp [checking]
  · exact .same

theorem stays_execElementMeasurementEnd (reading : Byte) :
    (execElementMeasurementEnd reading s).Stays s := by
  unfold execElementMeasurementEnd measured
  split
  · exact .same
  next checking =>
  split
  · split
    · exact .event (ringsLegal_completeCheck _)
    · exact .untouched ⟨⟨fun _ => .refl _, rfl, by simp [checking], rfl⟩,
        fun c => by cases c <;> rfl, rfl⟩
  · exact .same

theorem stays_execThermalSample (degrees : Int) : (execThermalSample n degrees s).Stays s := by
  have reported : ∀ (x : State) (l : Limit), x.Kept (x.reportSample n l) := fun x l => by
    unfold reportSample
    split
    · exact kept_raise ..
    · exact .refl x
  unfold execThermalSample
  dsimp only
  split
  · split
    · exact .event fun h => ((reported ..).trans (kept_releasePaused ..)).ringsLegal
        (ringsLegal_updStation n _ (ringsLegal_reachTime _ h))
    · exact .untouched ((untouched_reachTime ..).trans
        (untouched_updStation _ n ⟨rfl, rfl, rfl, rfl, rfl⟩))
  · exact .same
  · exact .same

end

/-! ### Every command and every step -/

theorem stays_exec (i : Instr) (s : State) : Answer.Stays s (exec i s) := by
  cases i with
  | hardwareReset => exact stays_execHardwareReset s
  | configRomLoadEnd rom => exact stays_execConfigRomLoadEnd s rom
  | engineReset w => exact stays_execEngineReset s w
  | ringStart c w => exact stays_execRingStart s c w
  | ringStop c w => exact stays_execRingStop s c w
  | setAutoPollInterval w => exact stays_execSetAutoPollInterval s w
  | setArbiterMode w => exact stays_execSetArbiterMode s w
  | pollDemand w => exact stays_execPollDemand s w
  | ringBaseWrite c v => exact stays_execRingBaseWrite s c v
  | ringSizeWrite c v => exact stays_execRingSizeWrite s c v
  | ringFetchIndexWrite c v => exact stays_execRingFetchIndexWrite s c v
  | eventStatusClear v => exact stays_execEventStatusClear s v
  | eventEnableWrite v => exact stays_execEventEnableWrite s v
  | inspectionAddressWrite v => exact stays_execInspectionAddressWrite s v
  | inspectionDataRead lanes => exact stays_execInspectionDataRead s lanes
  | statusARead n lanes => exact stays_execStatusARead s n lanes
  | registerWriteIgnored o lanes v => exact stays_execRegisterWriteIgnored s o lanes v
  | hold n => exact stays_stationCommand s n 1 (act := fun s => s.hold n) (stays_hold s n)
  | resume n => exact stays_stationCommand s n 2 (act := fun s => s.resume n) (stays_resume s n)
  | flush n => exact stays_stationCommand s n 3 (act := fun s => s.flush n) (stays_flush s n)
  | wake n => exact stays_stationCommand s n 4 (act := fun s => s.wake n) (stays_wake s n)
  | park n => exact stays_stationCommand s n 5 (act := fun s => s.park n) (stays_park s n)
  | stationCommandBadCode n v => exact stays_execStationCommandBadCode s n v
  | descriptorFetchEnd c bytes => exact stays_execDescriptorFetchEnd s c bytes
  | define => exact stays_execDefine s
  | amend => exact stays_execAmend s
  | retire => exact stays_execRetire s
  | query => exact stays_execQuery s
  | setProfile bytes => exact stays_execSetProfile s bytes
  | setLimits => exact stays_execSetLimits s
  | calibrate => exact stays_execCalibrate s
  | dotcheck => exact stays_execDotcheck s
  | bodyBurstEnd bytes => exact stays_execBodyBurstEnd s bytes
  | labelDataTransferEnd n bytes => exact stays_execLabelDataTransferEnd s n bytes
  | completionWriteEnd c => exact stays_execCompletionWriteEnd s c
  | transferBusError c => exact stays_execTransferBusError s c
  | autoPollExpiry c => exact stays_execAutoPollExpiry s c
  | composerFieldStep => exact stays_execComposerFieldStep s
  | composerComplete => exact stays_execComposerComplete s
  | markedHeadFinish n => exact stays_execMarkedHeadFinish s n
  | triggerLevelChange n high => exact stays_execTriggerLevelChange s n high
  | triggerArrival n => exact stays_execTriggerArrival s n
  | lastStartExpiry n k => exact stays_execLastStartExpiry s n k
  | deadlineExpiry n k => exact stays_execDeadlineExpiry s n k
  | linePeriodExpiry n => exact stays_execLinePeriodExpiry s n
  | strobeSubphaseEnd n => exact stays_execStrobeSubphaseEnd s n
  | gapEdge n => exact stays_execGapEdge s n
  | mediaPresentFall n active => exact stays_execMediaPresentFall s n active
  | applied n => exact stays_execApplied s n
  | applyTimeout n => exact stays_execApplyTimeout s n
  | headOpenActive n => exact stays_execHeadOpenActive s n
  | headOpenInactive n => exact stays_execHeadOpenInactive s n
  | parkTimerExpiry n => exact stays_execParkTimerExpiry s n
  | wakeSettleExpiry n => exact stays_execWakeSettleExpiry s n
  | dcuSettleExpiry => exact stays_execDcuSettleExpiry s
  | elementMeasurementEnd reading => exact stays_execElementMeasurementEnd s reading
  | thermalSample n degrees => exact stays_execThermalSample s n degrees

/-- A step ticks the clock, or executes the command it takes off the queue. -/
theorem stays_step {s t : State} (h : step s = .next t) : s.Stays t := by
  have ticked : s.Untouched s.tick := .of_same (.refl s) rfl rfl rfl
  unfold step at h
  split at h
  · cases h
    exact ticked.stays
  · next i rest _ =>
    have popped : s.Untouched { s with pending := rest } := .of_same (.refl s) rfl rfl rfl
    exact popped.stays.trans (stays_exec i _ t h)

/-- Settles O4: command by command, the writes that are taken give legal values, and all other work on the channels
leaves the registers or advances the fetch index within the size. -/
theorem ringsLegalKept : Obligations.RingsLegalKept := fun _ _ legal h => (stays_step h).legal legal

/-- Settles O6: command by command, the event ends at the blocks it touches, or it touches nothing that rest
depends on. -/
theorem restKept : Obligations.RestKept := fun _ _ rest h => (stays_step h).rest rest

end Sys2Proof.Machine
end

section
/-! The resets and the rings as the host works them: engine reset, START, STOP, poll demand, the auto-poll refetch and
the grant of the bus master (R86, R87, R95 to R98, R101, R102, R104, R194). -/

namespace Sys2Proof.Machine

/-! ### Engine reset (R104, R162, R191, R194) -/

theorem State.tableWork_resetRecords (s : State) : s.TableWork s.resetRecords := by
  rw [resetRecords_eq]
  exact TableWork.trans ⟨_, _, rfl⟩ (tableWork_raiseReferrers ..)

theorem execEngineReset_of_taken {s : State} {w : Word} (bit : w.getLsbD 0 = true)
    (loaded : s.loading = false) : execEngineReset w s = .next s.engineReset :=
  if_pos ⟨bit, loaded⟩

/-- Settles O12: the blocks are named item by item, and the records' reset touches no other item. -/
theorem engineResetLeaves : Obligations.EngineResetLeaves := by
  refine ⟨fun s w bit loaded => ⟨_, execEngineReset_of_taken bit loaded, rfl, rfl, rfl, rfl, rfl, rfl,
    fun n => Four.get_fill _ n, fun c => chan_engineReset s c, fun n => station_engineReset s n, ?_⟩,
    fun s w ignored => if_neg fun taken => ?_⟩
  · obtain ⟨table, free, e⟩ := State.tableWork_resetRecords s
    unfold State.engineReset
    rw [e]
    exact ⟨⟨rfl, rfl, rfl, rfl, fun n => by cases n <;> rfl⟩, ⟨rfl, rfl, rfl, rfl, rfl⟩, rfl, rfl,
      fun _ => rfl⟩
  · obtain ⟨bit, loaded⟩ := taken
    rcases ignored with clear | loading
    · exact Bool.false_ne_true (clear.symm.trans bit)
    · exact Bool.false_ne_true (loaded.symm.trans loading)

/-! ### What work on the channels leaves -/

namespace State.ChanWork

variable {s t : State}

theorem station (h : s.ChanWork t) (n : StationNo) : t.station n = s.station n := by
  obtain ⟨_, _, _, _, _, rfl⟩ := h
  rfl

theorem record (h : s.ChanWork t) (g : Nat) : t.record g = s.record g := h.sameRecords.record g

theorem sameMemory (h : s.ChanWork t) : s.SameMemory t := by
  obtain ⟨_, _, _, _, _, rfl⟩ := h
  exact fun _ => rfl

theorem canonical (h : s.ChanWork t) (c : s.canonical = true) : t.canonical = true := by
  obtain ⟨table, free, memory, elements⟩ := h.sameRecords
  exact canonical_of_same c memory elements table

/-- The conditions of FULL at a channel whose held set and fetch index stay. -/
theorem fullCondition (h : s.ChanWork t) {c : Chan} (held : (t.chan c).held = (s.chan c).held)
    (index : (t.chan c).fetchIndex = (s.chan c).fetchIndex) :
    t.fullCondition c = s.fullCondition c :=
  fullCondition_congr (fun n _ => by rw [h.station]) held index

end State.ChanWork

theorem State.chan_settleBus_updChan (s : State) (c : Chan) {f : Channel → Channel}
    (held : (f (s.chan c)).held = (s.chan c).held)
    (index : (f (s.chan c)).fetchIndex = (s.chan c).fetchIndex) :
    (s.updChan c f).settleBus.chan c = (f (s.chan c)).request (s.fullCondition c) := by
  rw [chan_settleBus, chan_updChan, (chanWork_updChan s c f).fullCondition (by rw [chan_updChan, held])
    (by rw [chan_updChan, index])]

/-! ### START (R95, R96) -/

/-- A RUNNING channel becomes FULL where it is free to fetch and a condition of FULL holds, and otherwise stays. -/
theorem Channel.request_state_of_running {ch : Channel} (full : Bool) (running : ch.state = .running) :
    (ch.request full).state = if ch.xfer = none ∧ ch.hand = none ∧ ch.pendingCompletions = [] ∧
      full = true then .full else .running := by
  by_cases free : ch.xfer = none
  swap
  · rw [request_of_transfer free, if_neg fun h => free h.1, running]
  by_cases empty : ch.hand = none
  swap
  · rw [request_state (.inr empty), if_neg fun h => empty h.2.1, running]
  by_cases written : ch.pendingCompletions = []
  swap
  · rw [request_of_pending free written, if_neg fun h => written h.2.2.1, running]
  rw [request_of_running free written empty running]
  cases full <;> simp [free, empty, written, running]

/-- What a channel free to fetch asks for. -/
theorem Channel.request_xfer_of_running {ch : Channel} (full : Bool) (free : ch.xfer = none)
    (empty : ch.hand = none) (written : ch.pendingCompletions = []) (running : ch.state = .running) :
    (ch.request full).xfer = if full then none else some .fetch := by
  rw [request_of_running free written empty running]
  cases full <;> simp [free]

section

variable {s : State} {c : Chan} {w : Word}

theorem execRingStart_of_taken (start : w.getLsbD (4 + c.toNat) = true)
    (stop : w.getLsbD (12 + c.toNat) = false) (reset : w.getLsbD 0 = false)
    (loaded : s.loading = false) : execRingStart c w s = .next (s.startRing c) :=
  if_pos ⟨start, stop, reset, loaded⟩

/-- A STOPPED channel of a size starts (R95). -/
def Channel.started (ch : Channel) : Channel := { ch with state := .running, stopCause := .none }

theorem State.startRing_of_size (stopped : (s.chan c).state = .stopped) (size : (s.chan c).size ≠ 0) :
    s.startRing c = (s.updChan c Channel.started).settleBus :=
  (if_pos stopped).trans (if_neg size)

theorem State.startRing_of_noRing (stopped : (s.chan c).state = .stopped) (size : (s.chan c).size = 0) :
    s.startRing c = s.updChan c fun ch => { ch with stopCause := .noRing } :=
  (if_pos stopped).trans (if_pos size)

theorem execRingStart_of_ignored
    (ignored : s.loading = true ∨ (s.chan c).state ≠ .stopped ∨ w.getLsbD (12 + c.toNat) = true ∨
      w.getLsbD 0 = true ∨ w.getLsbD (4 + c.toNat) = false) : execRingStart c w s = .next s := by
  unfold execRingStart ctlStart ctlStop ctlReset
  split
  · next taken =>
    obtain ⟨start, stop, reset, loaded⟩ := taken
    rw [start, stop, reset, loaded] at ignored
    have away : (s.chan c).state ≠ .stopped := by simpa using ignored
    rw [State.startRing, if_neg away]
  · rfl

end

/-- Settles O15: a START that is taken changes state and cause, and the channel then makes its request. -/
theorem ringStart : Obligations.RingStart := by
  refine ⟨fun s c w start stop reset loaded stopped size => ?_,
    fun s c w start stop reset loaded stopped size => ?_,
    fun s c w ignored => execRingStart_of_ignored ignored, fun s => ⟨rfl, fun n => ?_⟩⟩
  · have e : exec (.ringStart c w) s = .next (s.updChan c Channel.started).settleBus :=
      (execRingStart_of_taken start stop reset loaded).trans (by rw [State.startRing_of_size stopped size])
    have work := (State.chanWork_updChan s c Channel.started).trans (State.chanWork_settleBus _)
    refine ⟨e, _, e, ?_⟩
    rw [State.chan_settleBus_updChan s c (f := Channel.started) rfl rfl]
    refine ⟨Channel.request_stopCause .., Channel.request_base .., Channel.request_size ..,
      Channel.request_fetchIndex .., Channel.request_held ..,
      Channel.request_state_of_running _ rfl, fun free empty written =>
        Channel.request_xfer_of_running _ free empty written rfl, work.sameRecords, work.sameLanes,
      work.sameEvents⟩
  · exact (execRingStart_of_taken start stop reset loaded).trans
      (by rw [State.startRing_of_noRing stopped size])
  · exact (Bool.or_eq_true_iff ..).trans (or_congr decide_eq_true_iff List.contains_iff_mem)

/-! ### STOP (R97, R98) -/

/-- R18: the record of a load given up is FREE under a DEFINE and as it was under an AMEND; all others stay. -/
theorem State.record_dropLoading_any {s : State} (canonical : s.canonical = true) (h g : Nat) :
    (s.dropLoading h).record g = if g = h then (s.record h).withoutLoading else s.record g := by
  cases loading : (s.record h).loading with
  | some b => exact record_dropLoading canonical loading g
  | none =>
    have given : s.dropLoading h = s.setRecord h (s.record h).withoutLoading := by
      unfold dropLoading Record.withoutLoading
      simp only [loading]
      split <;> rfl
    rw [given, record_setRecord h _ canonical]

/-- R18: the blocks of a load given up go to the back of the free list. -/
theorem State.dropLoading_free_any (s : State) (h : Nat) : (s.dropLoading h).free =
    s.free ++ (s.record h).loading.elim [] fun b => b.blocks := by
  cases loading : (s.record h).loading with
  | some b => exact dropLoading_free loading
  | none =>
    unfold dropLoading
    simp only [loading]
    split <;> simp

theorem State.TableWork.chan {s t : State} (h : s.TableWork t) (c : Chan) : t.chan c = s.chan c := by
  obtain ⟨_, _, rfl⟩ := h
  cases c <;> rfl

theorem State.stopPending_abortLoad (s : State) (d : List Byte) :
    (s.abortLoad d).control.stopPending = s.control.stopPending := by
  obtain ⟨_, _, e⟩ := tableWork_dropLoading_any s (ctlHandle d)
  unfold abortLoad
  dsimp only
  rw [e]
  rfl

section

variable {s : State} {c : Chan} {w : Word}

theorem execRingStop_of_taken (stop : w.getLsbD (12 + c.toNat) = true)
    (reset : w.getLsbD 0 = false ∨ s.loading = true) :
    execRingStop c w s = .next (s.stopRing c) := by
  refine if_pos ⟨stop, fun taken => ?_⟩
  obtain ⟨bit, loaded⟩ := taken
  rcases reset with clear | loading
  · exact Bool.false_ne_true (clear.symm.trans bit)
  · exact Bool.false_ne_true (loaded.symm.trans loading)

/-- A STOP that finds the channel at no work of its own is taken at once (R97). -/
theorem State.stopRing_of_idle
    (idle : (s.chan c).state = .full ∨
      ((s.chan c).state = .suspended ∧ (s.chan c).xfer ≠ some .fetch) ∨
      ((s.chan c).state = .running ∧ (s.chan c).hand = none ∧ (s.chan c).xfer ≠ some .fetch)) :
    s.stopRing c = s.stopChannel c .host := by
  unfold stopRing
  rcases idle with full | ⟨suspended, unfetched⟩ | ⟨running, empty, unfetched⟩
  · rw [full]
  · rw [suspended]
    exact if_neg unfetched
  · rw [running, empty]
    exact if_neg unfetched

/-- A STOP waits for the end of a fetch; the timer stops at once (R97, log 34). -/
theorem State.stopRing_of_fetch (fetch : (s.chan c).xfer = some .fetch)
    (state : (s.chan c).state = .suspended ∨ ((s.chan c).state = .running ∧ (s.chan c).hand = none)) :
    s.stopRing c = s.updChan c fun ch => { ch with stopPending := true, autoPollTimer := none } := by
  have idle : s.stopIdle c = s.updChan c fun ch =>
      { ch with stopPending := true, autoPollTimer := none } :=
    (if_pos fetch).trans (updChan_updChan ..)
  unfold stopRing
  rcases state with suspended | ⟨running, empty⟩
  · rw [suspended]
    exact idle
  · rw [running, empty]
    exact idle

theorem State.chanWork_setStopPending (s : State) (c : Chan) : s.ChanWork (s.setStopPending c) :=
  chanWork_updChan ..

theorem State.stopRing_of_hand {h : Hand} (running : (s.chan c).state = .running)
    (hand : (s.chan c).hand = some h) : s.stopRing c = s.stopHand c h := by
  unfold stopRing
  rw [running, hand]

/-- A STOP waits for the end of the work in hand; only a body load is ended sooner (R97, R98). -/
theorem State.stopHand_of_work {d : List Byte} {i : Nat} {work : Work}
    (other : c ≠ .control ∨ ∀ k, work ≠ .load k false) :
    s.stopHand c ⟨d, i, work⟩ = s.setStopPending c := by
  unfold stopHand
  split
  · next k load =>
    exact (other.elim (· rfl) (· k load)).elim
  · rfl

/-- A STOP with a burst under way marks the load, to be ended with that burst (R18). -/
theorem State.stopLoad_of_burst {d : List Byte} {k : Nat}
    (burst : s.inTransfer .control .burst = true) :
    s.stopLoad d k = (s.setStopPending .control).setWork .control (.load k true) := if_pos burst

/-- RCH-C with a STOP pending and its request withdrawn (R98, log 8). -/
def Channel.stoppedLoading (ch : Channel) : Channel := { ch with stopPending := true, xfer := none }

/-- A STOP between two bursts ends the load at once (R18, R98). -/
theorem State.stopLoad_of_no_burst {d : List Byte} {k : Nat}
    (burst : s.inTransfer .control .burst = false) :
    s.stopLoad d k = (s.updChan .control Channel.stoppedLoading).abortLoad d := by
  unfold stopLoad
  dsimp only
  rw [if_neg (by simp [burst]), setStopPending, updChan_updChan]
  rfl

end

/-- Settles O16: by the state, the descriptor in hand and the transfer of the channel. -/
theorem ringStop : Obligations.RingStop := by
  intro s c w stop reset
  have e : exec (.ringStop c w) s = .next (s.stopRing c) := execRingStop_of_taken stop reset
  refine ⟨fun stopped => ?_, fun idle => ?_, fun fetch state => ?_, fun d i work running hand other => ?_,
    fun d i k control running hand canonical => ?_⟩
  · rw [e, State.stopRing, stopped]
  · rw [e, State.stopRing_of_idle idle]
    rfl
  · rw [e, State.stopRing_of_fetch fetch state]
  · rw [e, State.stopRing_of_hand running hand, State.stopHand_of_work other]
    rfl
  · subst control
    rw [State.stopRing_of_hand (c := .control) running hand] at e
    have pending : ∀ x : State, x.control.stopPending = true → x.settleBus.control.stopPending = true :=
      fun x px => (congrArg Channel.stopPending (State.chan_settleBus x .control)).trans
        ((Channel.request_stopPending ..).trans px)
    cases burst : s.inTransfer .control .burst with
    | true =>
      have work := (State.chanWork_setStopPending s .control).trans
        ((State.chanWork_setWork _ .control (.load k true)).trans (State.chanWork_settleBus _))
      refine ⟨_, e.trans (congrArg (fun x => Host.Outcome.next (State.settleBus x))
        (State.stopLoad_of_burst burst)), pending _ rfl, work.sameLanes, work.sameEvents,
        work.sameMemory, fun _ => ⟨?_, work.sameRecords⟩, nofun⟩
      refine (congrArg Channel.hand (State.chan_settleBus _ .control)).trans
        ((Channel.request_hand ..).trans ?_)
      simp [State.setWork, State.setStopPending, State.updChan, State.chan, hand]
    | false =>
      have withdrawn := State.chanWork_updChan s .control Channel.stoppedLoading
      have table := State.tableWork_dropLoading_any (s.updChan .control Channel.stoppedLoading)
        (ctlHandle d)
      have dropped := State.record_dropLoading_any (withdrawn.canonical canonical) (ctlHandle d)
      have hand' : (s.updChan .control Channel.stoppedLoading).control.hand =
        some ⟨d, i, .load k false⟩ := hand
      have left := State.eventLeaves_completeRecord hand' table (ctlHandle d) .aborted []
      obtain ⟨_, free, -, -⟩ := left.records
      refine ⟨_, e.trans (congrArg (fun x => Host.Outcome.next (State.settleBus x))
        (State.stopLoad_of_no_burst burst)), pending _ ?_, withdrawn.sameLanes.trans left.lanes,
        withdrawn.sameEvents.trans left.events, fun x => (left.memory x).trans (withdrawn.sameMemory x),
        nofun, fun _ => ⟨left.answersRecord (by simp) rfl, fun g other => ?_, ?_, ?_⟩⟩
      · exact State.stopPending_abortLoad _ d
      · refine (left.records.record g).trans ?_
        rw [dropped, if_neg other, withdrawn.record]
      · refine free.trans ((State.dropLoading_free_any ..).trans ?_)
        rw [withdrawn.record, withdrawn.sameRecords.free]
      · refine (left.records.record _).trans ?_
        rw [dropped, if_pos rfl, withdrawn.record, Record.withoutLoading]

end Sys2Proof.Machine
end

section
/-! Poll demand, the auto-poll refetch and the grant of the bus master (R86, R87, R101, R102). -/

namespace Sys2Proof.Machine

/-! ### A poll demand (R86) -/

theorem State.chan_foldl_updChan (named : Chan → Bool) (f : Channel → Channel) (l : List Chan)
    (nodup : l.Nodup) : ∀ (s : State) (c : Chan),
      (l.foldl (fun s c => if named c then s.updChan c f else s) s).chan c =
        if c ∈ l ∧ named c = true then f (s.chan c) else s.chan c := by
  induction l with
  | nil => intros; simp
  | cons d l ih =>
    intro s c
    obtain ⟨fresh, nodup⟩ := List.nodup_cons.mp nodup
    rw [List.foldl_cons, ih nodup]
    by_cases e : c = d
    · subst e
      cases named c <;> simp [fresh]
    · cases named d <;> simp [e, chan_updChan_ne]

theorem State.chan_pollNamed (s : State) (w : Word) (c : Chan) :
    (s.pollNamed w).chan c = if w.getLsbD c.toNat then (s.chan c).polled else s.chan c := by
  refine (chan_foldl_updChan (pollNames w) Channel.polled Chan.all (by decide) s c).trans ?_
  simp [Chan.mem_all, pollNames]

namespace Channel

variable {ch : Channel}

theorem polled_of_idle (h : ch.state = .stopped ∨ ch.state = .full) : ch.polled = ch := by
  unfold polled
  rcases h with stopped | full
  · rw [stopped]
  · rw [full]

theorem polled_of_running (h : ch.state = .running) : ch.polled = { ch with pollLatch := true } := by
  unfold polled
  rw [h]

/-- A fetch in flight is not asked for again: the latch is set (R86, log 8). -/
theorem polled_of_refetch (h : ch.state = .suspended) (fetch : ch.xfer = some .fetch) :
    ch.polled = { ch with pollLatch := true } := by
  unfold polled
  rw [h]
  exact if_pos fetch

theorem polled_of_suspended (h : ch.state = .suspended) (unfetched : ch.xfer ≠ some .fetch) :
    ch.polled = { ch with state := .running, autoPollTimer := none, refetchDue := false } := by
  unfold polled
  rw [h]
  exact if_neg unfetched

theorem polled_held (ch : Channel) : ch.polled.held = ch.held := by
  unfold polled
  split
  · split <;> rfl
  all_goals rfl

theorem polled_fetchIndex (ch : Channel) : ch.polled.fetchIndex = ch.fetchIndex := by
  unfold polled
  split
  · split <;> rfl
  all_goals rfl

/-- The poll latch has no part in whether a request is left to make. -/
theorem Resting.latched (r : ch.Resting) : Resting { ch with pollLatch := true } := r

end Channel

theorem State.fullCondition_pollNamed (s : State) (w : Word) (c : Chan) :
    (s.pollNamed w).fullCondition c = s.fullCondition c := by
  refine (chanWork_pollNamed s w).fullCondition ?_ ?_
  · rw [chan_pollNamed]
    split
    · exact Channel.polled_held _
    · rfl
  · rw [chan_pollNamed]
    split
    · exact Channel.polled_fetchIndex _
    · rfl

/-- After a poll demand a channel it names makes the request it then has. -/
theorem State.chan_polled {s : State} {w : Word} {c : Chan} (named : w.getLsbD c.toNat = true) :
    (s.pollNamed w).settleBus.chan c = (s.chan c).polled.request (s.fullCondition c) := by
  rw [chan_settleBus, fullCondition_pollNamed, chan_pollNamed, if_pos named]

/-! ### The auto-poll refetch (R87) -/

theorem autoPollMs_off : autoPollMs 0 = none := rfl

section

variable {s : State} {c : Chan} {t0 : Word} {ms : Nat}

/-- The channel's refetch falls due (R87). -/
def Channel.expired (ch : Channel) : Channel := { ch with autoPollTimer := none, refetchDue := true }

theorem execAutoPollExpiry_of_timer (timer : (s.chan c).autoPollTimer = some t0)
    (interval : autoPollMs s.autoPoll = some ms) (suspended : (s.chan c).state = .suspended) :
    execAutoPollExpiry c s =
      .next ((s.reachTime (afterMs t0 ms)).updChan c Channel.expired).settleBus := by
  unfold execAutoPollExpiry
  rw [timer, interval]
  exact if_pos suspended

theorem execAutoPollExpiry_of_none (none : (s.chan c).autoPollTimer = none ∨ s.autoPoll = 0 ∨
    (s.chan c).state ≠ .suspended) : execAutoPollExpiry c s = .next s := by
  unfold execAutoPollExpiry
  rcases none with timer | off | away
  · rw [timer]
  · rw [off, autoPollMs_off]
    cases (s.chan c).autoPollTimer <;> rfl
  · split
    · exact if_neg away
    · rfl
    · rfl

end

theorem State.reachTime_of_reached {s : State} {time : Word} (h : (s.clock - time).toNat < 2 ^ 31) :
    s.reachTime time = s := if_pos (decide_eq_true h)

theorem State.reachTime_of_ahead {s : State} {time : Word} (h : 2 ^ 31 ≤ (s.clock - time).toNat) :
    s.reachTime time = { s with clock := time } :=
  if_neg (by simp only [atOrBefore, decide_eq_true_eq]; omega)

/-- Settles O17: a demand changes the channels it names, and then each channel makes the request it has. -/
theorem pollDemandAndAutoPoll : Obligations.PollDemandAndAutoPoll := by
  refine ⟨fun s w quiet => ?_, fun s c t0 ms timer interval suspended free empty written => ?_,
    fun s c none => execAutoPollExpiry_of_none none, rfl,
    fun s time => ⟨State.reachTime_of_reached, State.reachTime_of_ahead⟩⟩
  · have work := (State.chanWork_pollNamed s w).trans (State.chanWork_settleBus _)
    obtain ⟨rest, -⟩ := State.busQuiet_iff_resting.mp quiet
    refine ⟨_, rfl, work.sameEvents, work.sameRecords, work.sameLanes, fun c => ⟨fun unnamed => ?_,
      fun named => ?_⟩⟩
    · rw [State.chan_settleBus, State.chan_pollNamed, if_neg (by simp [unnamed])]
      exact Channel.request_of_resting _ (rest c)
    · rw [State.chan_polled named]
      refine ⟨fun idle => ?_, fun running => ?_, fun suspended fetch => ?_,
        fun suspended asked unfetched => ?_, fun suspended free empty => ?_⟩
      · rw [Channel.polled_of_idle idle]
        exact Channel.request_of_resting _ (rest c)
      · rw [Channel.polled_of_running running]
        exact Channel.request_of_resting _ (rest c).latched
      · rw [Channel.polled_of_refetch suspended fetch]
        exact Channel.request_of_resting _ (rest c).latched
      · rw [Channel.polled_of_suspended suspended unfetched]
        exact Channel.request_of_transfer asked
      · obtain ⟨written, -⟩ := rest c free
        rw [Channel.polled_of_suspended suspended (by simp [free])]
        refine ⟨Channel.request_autoPollTimer .., Channel.request_fetchIndex .., ?_,
          Channel.request_xfer_of_running _ free empty written rfl⟩
        rw [Channel.request_state_of_running _ rfl]
        simp [free, empty, written]
  · have asked := State.chan_settleBus_updChan (s.reachTime (afterMs t0 ms)) c
      (f := Channel.expired) rfl rfl
    have work := (State.chanWork_updChan (s.reachTime (afterMs t0 ms)) c Channel.expired).trans
      (State.chanWork_settleBus _)
    obtain ⟨_, clock, -⟩ := work.sameEvents
    obtain ⟨_, e⟩ := State.reachTime_eq s (afterMs t0 ms)
    refine ⟨_, execAutoPollExpiry_of_timer timer interval suspended, ?_, ?_, ?_, ?_, clock⟩
    · rw [asked, State.chan_reachTime,
        Channel.request_of_suspended (ch := (s.chan c).expired) free written empty suspended]
      rfl
    · exact State.SameLanes.trans (by rw [e]; exact .refl s) work.sameLanes
    · obtain ⟨table, pool, memory, elements⟩ := work.sameRecords
      rw [e] at table pool memory elements ⊢
      exact ⟨table, pool, memory, elements⟩
    · obtain ⟨events, -⟩ := work.sameEvents
      rw [e] at events ⊢
      exact events

/-! ### The grant (R101, R102) -/

theorem circleFrom_pairwise (p : Chan) :
    (circleFrom p).Pairwise fun a b => circleDistance p a < circleDistance p b := by
  rcases p with _ | ⟨_ | _ | _ | _⟩ <;> decide

/-- The search round the circle finds the nearest channel of those it looks for. -/
theorem find?_circleFrom {p c : Chan} {sought : Chan → Bool} (found : sought c = true)
    (nearest : ∀ d, sought d = true → circleDistance p c ≤ circleDistance p d) :
    (circleFrom p).find? sought = some c := by
  obtain ⟨before, after, split⟩ := List.append_of_mem (Chan.mem_circleFrom p c)
  have order := circleFrom_pairwise p
  rw [split, List.pairwise_append] at order
  obtain ⟨-, -, closer⟩ := order
  refine List.find?_eq_some_iff_append.mpr ⟨found, before, after, split, fun d hd => ?_⟩
  have less := closer d hd c (List.mem_cons_self ..)
  by_contra also
  have := nearest d (by simpa using also)
  omega

namespace State

variable {s : State}

theorem grant_of_arbitrate {c : Chan} (free : s.bus = none) (granted : s.arbitrate = some c) :
    s.grant = { s with
      bus := some c, pointer := s.pointerAfter c, transfer := (s.chan c).hostTransfer? c } := by
  unfold grant
  rw [free, granted]
  rfl

theorem arbitrate_of_rotate {c : Chan} (mode : s.arbiter = .rotate) (waits : s.waiting c = true)
    (nearest : ∀ d, s.waiting d = true → circleDistance s.pointer c ≤ circleDistance s.pointer d) :
    s.arbitrate = some c := by
  unfold arbitrate
  rw [mode]
  exact find?_circleFrom waits nearest

theorem arbitrate_of_station {n : StationNo} (mode : s.arbiter = .labelsFirst)
    (waits : s.waiting (.station n) = true)
    (nearest : ∀ m : StationNo, s.waiting (.station m) = true →
      circleDistance s.pointer (.station n) ≤ circleDistance s.pointer (.station m)) :
    s.arbitrate = some (.station n) := by
  have found : (circleFrom s.pointer).find? (fun c => c != .control && s.waiting c) =
      some (.station n) := by
    refine find?_circleFrom (by simpa using waits) fun d asks => ?_
    cases d with
    | control => simp at asks
    | station m => exact nearest m (by simpa using asks)
  unfold arbitrate
  rw [mode]
  dsimp only
  rw [found]

theorem arbitrate_of_control (mode : s.arbiter = .labelsFirst) (waits : s.waiting .control = true)
    (alone : ∀ m : StationNo, s.waiting (.station m) = false) : s.arbitrate = some .control := by
  have absent : (circleFrom s.pointer).find? (fun c => c != .control && s.waiting c) = none := by
    refine List.find?_eq_none.mpr fun d _ => ?_
    cases d with
    | control => simp
    | station m => simp [alone m]
  unfold arbitrate
  rw [mode]
  dsimp only
  rw [absent]
  exact if_pos waits

theorem pointerAfter_of_control (mode : s.arbiter = .labelsFirst) :
    s.pointerAfter .control = s.pointer := if_pos ⟨mode, rfl⟩

theorem pointerAfter_of_rotate (mode : s.arbiter = .rotate) (c : Chan) :
    s.pointerAfter c = c.next := if_neg (by simp [mode])

theorem pointerAfter_station (s : State) (n : StationNo) :
    s.pointerAfter (.station n) = (Chan.station n).next := if_neg (by simp)

theorem chan_endTransfer (s : State) (c : Chan) :
    (s.endTransfer c).chan c = { s.chan c with xfer := none } := by
  refine Eq.trans ?_ (chan_updChan s c fun ch => { ch with xfer := none })
  cases c <;> rfl

theorem chan_endTransfer_ne (s : State) {c d : Chan} (h : d ≠ c) :
    (s.endTransfer c).chan d = s.chan d := by
  refine Eq.trans ?_ (chan_updChan_ne s (fun ch => { ch with xfer := none }) h)
  cases d <;> rfl

end State

/-- Settles O18: the grant goes to the nearest request the mode looks for, and its transfer is that of the work. -/
theorem busGrant : Obligations.BusGrant := by
  refine ⟨fun s busy => if_pos busy, fun s none => ?_, fun s c free mode waits nearest => ?_,
    fun s n free mode waits nearest => ?_, fun s free mode waits alone => ?_, fun ch c => ?_,
    fun s c => ⟨rfl, rfl, ?_, fun d other => State.chan_endTransfer_ne s other⟩,
    fun s c => State.waiting_iff, rfl, fun n => rfl⟩
  · refine State.grant_self (.inr (State.arbitrate_eq_none_iff.mpr fun c => ?_))
    by_contra asks
    exact Bool.false_ne_true ((none c).symm.trans (State.waiting_iff.mpr asks))
  · rw [State.grant_of_arbitrate free (State.arbitrate_of_rotate mode waits nearest),
      State.pointerAfter_of_rotate mode]
  · rw [State.grant_of_arbitrate free (State.arbitrate_of_station mode waits nearest),
      State.pointerAfter_station]
  · rw [State.grant_of_arbitrate free (State.arbitrate_of_control mode waits alone),
      State.pointerAfter_of_control mode]
    rfl
  · refine ⟨fun fetch => ?_, fun d i k a burst hand => ?_, fun d i profile hand => ?_,
      fun d i k data hand => ?_, fun d i b completion hand => ?_, fun p ps pending written => ?_⟩
    · rw [Channel.hostTransfer?, fetch]
      rfl
    · rw [Channel.hostTransfer?, burst, hand]
      rfl
    · rw [Channel.hostTransfer?, profile, hand]
      rfl
    · rw [Channel.hostTransfer?, data, hand]
      rfl
    · rw [Channel.hostTransfer?, completion, hand]
      rfl
    · rw [Channel.hostTransfer?, pending, written]
      rfl
  · rw [State.chan_endTransfer]

end Sys2Proof.Machine
end

section
/-! The end of a completion write: the cause it raises, and where the channel goes on from there (R88, R93, R94, R97,
R99). -/

namespace Sys2Proof.Machine

/-! ### Causes (R200) -/

/-- The causes in the order of their bits. -/
def Cause.all : List Cause :=
  [.controlDone] ++ StationNo.all.map .stationDone ++ Chan.all.map .ringSuspended ++ [.ringError] ++
    StationNo.all.map .stationFault ++ StationNo.all.map .cartonMissed ++ StationNo.all.map .therm ++
    StationNo.all.map .dotcheckDone ++ [.recordFreed, .configDefaulted]

theorem Cause.mem_all (e : Cause) : e ∈ all := by
  cases e <;> simp [all, StationNo.mem_all, Chan.mem_all]

theorem Cause.map_bit_all : all.map bit = List.range 29 := by decide

theorem Cause.bit_lt (e : Cause) : e.bit < 29 :=
  List.mem_range.mp (map_bit_all ▸ List.mem_map_of_mem (mem_all e))

/-- No two causes share a bit. -/
theorem Cause.bit_inj {e f : Cause} : e.bit = f.bit ↔ e = f := by
  refine ⟨fun same => ?_, congrArg bit⟩
  have nodup : (all.map bit).Nodup := map_bit_all ▸ List.nodup_range
  exact List.inj_on_of_nodup_map nodup (mem_all e) (mem_all f) same

/-- A raise raises the cause it names and leaves the others as they are (R201). -/
theorem State.raised_raise (s : State) (c e : Cause) :
    (s.raise c).raised e = (e == c || s.raised e) := by
  have bit : (BitVec.ofNat 29 (2 ^ c.bit)).getLsbD e.bit = (e == c) := by
    rw [BitVec.getLsbD_ofNat, Nat.testBit_two_pow, decide_eq_true e.bit_lt, Bool.true_and]
    exact decide_eq_decide.mpr (eq_comm.trans Cause.bit_inj)
  rw [raised, raise_eventStatus, BitVec.getLsbD_or, bit, Bool.or_comm]
  rfl

/-! ### Work on the channels that raises a cause -/

theorem State.SameRecords.trans {s t u : State} (h : s.SameRecords t) (k : t.SameRecords u) :
    s.SameRecords u := by
  obtain ⟨h1, h2, h3, h4⟩ := h
  obtain ⟨k1, k2, k3, k4⟩ := k
  exact ⟨k1.trans h1, k2.trans h2, k3.trans h3, k4.trans h4⟩

/-- The second state differs from the first in the channels, the BMA and one cause raised. -/
structure State.RaiseWork (e : Cause) (s t : State) : Prop where
  lanes : s.SameLanes t
  records : s.SameRecords t
  raised : ∀ f, t.raised f = (f == e || s.raised f)

/-- Work on the channels, a cause, and work on the channels again. -/
theorem State.ChanWork.raises {s u t : State} {e : Cause} (h : s.ChanWork u)
    (k : (u.raise e).ChanWork t) : s.RaiseWork e t := by
  obtain ⟨events, -⟩ := k.sameEvents
  obtain ⟨before, -⟩ := h.sameEvents
  refine ⟨h.sameLanes.trans (State.SameLanes.trans (.refl u) k.sameLanes),
    h.sameRecords.trans (State.SameRecords.trans (.refl u) k.sameRecords), fun f => ?_⟩
  rw [State.raised, events]
  refine (raised_raise u e f).trans ?_
  rw [State.raised, before]
  rfl

theorem State.RaiseWork.trans {s t u : State} {e : Cause} (h : s.RaiseWork e t) (k : t.ChanWork u) :
    s.RaiseWork e u := by
  obtain ⟨events, -⟩ := k.sameEvents
  refine ⟨h.lanes.trans k.sameLanes, h.records.trans k.sameRecords, fun f => ?_⟩
  rw [State.raised, events]
  exact h.raised f

theorem State.SameLanes.quiet {s t : State} (h : s.SameLanes t) (q : s.quiet = true) :
    t.quiet = true := h.sameRest.quiet q

/-- The conditions of FULL at a channel whose held set and fetch index stay, the lanes being the same. -/
theorem State.SameLanes.fullCondition {s t : State} (h : s.SameLanes t) {c : Chan}
    (held : (t.chan c).held = (s.chan c).held)
    (index : (t.chan c).fetchIndex = (s.chan c).fetchIndex) :
    t.fullCondition c = s.fullCondition c := by
  obtain ⟨stations, -⟩ := h
  exact fullCondition_congr (fun n _ => by rw [State.station, State.station, stations]) held index

/-! ### The channel's own part -/

namespace Channel

variable (ch : Channel)

/-- A channel STOPPED with a cause (R97, R98). -/
def stoppedWith (k : StopCause) : Channel :=
  { ch with state := .stopped, stopCause := k, stopPending := false, autoPollTimer := none,
            refetchDue := false, failing := false }

/-- A channel STOPPED by a bus error (R99). -/
def stoppedFailed : Channel := { ch.stoppedWith .busError with pollLatch := false }

/-- A channel that drops its descriptor in hand (R89, R97, R99). -/
def handDropped : Channel :=
  if ch.failing then { ch with hand := none }.stoppedFailed
  else if ch.stopPending then { ch with hand := none }.stoppedWith .host
  else { ch with hand := none }

/-- A channel tested again for FULL (R94). -/
def retested (full : Bool) : Channel :=
  if ch.state = .full ∧ full = false then { ch with state := .running } else ch

/-- A channel whose oldest pending completion is at its end (R93, R99). -/
def pendingDropped (i : Nat) : Channel :=
  { ch with pendingCompletions := ch.pendingCompletions.drop 1, held := ch.held.erase i }

variable {ch}

theorem handDropped_of_failing (failing : ch.failing = true) :
    ch.handDropped = { ch with hand := none }.stoppedFailed := if_pos failing

theorem handDropped_of_stop (failing : ch.failing = false) (stop : ch.stopPending = true) :
    ch.handDropped = { ch with hand := none }.stoppedWith .host := by
  rw [handDropped, if_neg (by simp [failing]), if_pos stop]

theorem handDropped_of_none (failing : ch.failing = false) (stop : ch.stopPending = false) :
    ch.handDropped = { ch with hand := none } := by
  rw [handDropped, if_neg (by simp [failing]), if_neg (by simp [stop])]

variable (ch)

/-- Dropping the descriptor in hand leaves the registers and the write of the last completion. -/
theorem handDropped_eq : ch.handDropped.hand = none ∧ ch.handDropped.written = ch.written ∧
    ch.handDropped.held = ch.held ∧ ch.handDropped.fetchIndex = ch.fetchIndex := by
  unfold handDropped
  split
  · exact ⟨rfl, rfl, rfl, rfl⟩
  · split <;> exact ⟨rfl, rfl, rfl, rfl⟩

theorem retested_eq (full : Bool) : ∃ state, ch.retested full = { ch with state := state } := by
  unfold retested
  split
  · exact ⟨_, rfl⟩
  · exact ⟨ch.state, rfl⟩

variable {ch}

theorem retested_of_ne_full (full : Bool) (h : ch.state ≠ .full) : ch.retested full = ch :=
  if_neg fun both => h both.1

/-- A FULL channel stays so, or goes on RUNNING, by the condition of FULL after the write (R94, log 11). -/
theorem request_retested_state (full : Bool) (h : ch.state = .full) :
    ((ch.retested full).request full).state = if full then .full else .running := by
  cases full with
  | true =>
    rw [retested, if_neg (by simp), request_state (.inl (by simp [h])), h]
    rfl
  | false =>
    rw [retested, if_pos ⟨h, rfl⟩, request_state_of_running _ rfl]
    simp

end Channel

namespace State

theorem stopFailed_eq (s : State) (c : Chan) :
    s.stopFailed c = s.updChan c Channel.stoppedFailed := updChan_updChan ..

theorem chan_stopFailed (s : State) (c : Chan) :
    (s.stopFailed c).chan c = (s.chan c).stoppedFailed := by rw [stopFailed_eq, chan_updChan]

theorem chanWork_stopFailed (s : State) (c : Chan) : s.ChanWork (s.stopFailed c) :=
  (chanWork_stopChannel ..).trans (chanWork_updChan ..)

theorem dropHand_eq (s : State) (c : Chan) : s.dropHand c = s.updChan c Channel.handDropped := by
  have same : ∀ f : Channel → Channel, f (s.chan c) = (s.chan c).handDropped →
      s.updChan c f = s.updChan c Channel.handDropped := fun f e => by
    cases c with
    | control => exact congrArg (fun x => { s with control := x }) e
    | station n => exact congrArg (fun x => { s with rings := s.rings.set n x }) e
  unfold dropHand
  dsimp only
  split
  · next failing =>
    rw [stopFailed_eq, updChan_updChan]
    exact same _ (Channel.handDropped_of_failing failing).symm
  · next sound =>
    rw [Bool.not_eq_true] at sound
    split
    · next stop =>
      exact (updChan_updChan ..).trans (same _ (Channel.handDropped_of_stop sound stop).symm)
    · next go =>
      exact same _ (Channel.handDropped_of_none sound (Bool.not_eq_true _ ▸ go)).symm

theorem chan_dropHand (s : State) (c : Chan) : (s.dropHand c).chan c = (s.chan c).handDropped := by
  rw [dropHand_eq, chan_updChan]

theorem chanWork_dropHand (s : State) (c : Chan) : s.ChanWork (s.dropHand c) := by
  rw [dropHand_eq]
  exact chanWork_updChan ..

theorem chan_retestFull (s : State) (c : Chan) :
    (s.retestFull c).chan c = (s.chan c).retested (s.fullCondition c) := by
  unfold retestFull Channel.retested
  split
  · exact chan_updChan ..
  · rfl

theorem chanWork_retestFull (s : State) (c : Chan) : s.ChanWork (s.retestFull c) := by
  unfold retestFull
  split
  · exact chanWork_updChan ..
  · exact .refl s

theorem fullCondition_retestFull (s : State) (c : Chan) :
    (s.retestFull c).fullCondition c = s.fullCondition c := by
  obtain ⟨_, e⟩ := (s.chan c).retested_eq (s.fullCondition c)
  refine (chanWork_retestFull s c).fullCondition ?_ ?_
  · rw [chan_retestFull, e]
  · rw [chan_retestFull, e]

theorem chan_dropPending (s : State) (c : Chan) (i : Nat) :
    (s.dropPending c i).chan c = (s.chan c).pendingDropped i := chan_updChan ..

/-! ### The write itself (R88) -/

/-- The completion bytes and the owner field have left, and the bus is free (R88, R101). -/
def writeOut (s : State) (c : Chan) (i : Nat) (bytes : List Byte) : State :=
  ((s.deliver c i bytes).endTransfer c).raise (doneCause c)

theorem handWritten_eq (s : State) (c : Chan) (i : Nat) (bytes : List Byte) :
    s.handWritten c i bytes = ((s.writeOut c i bytes).dropHand c).retestFull c := rfl

theorem pendingWritten_eq (s : State) (c : Chan) (p : Completion) :
    s.pendingWritten c p = ((s.writeOut c p.index p.bytes).dropPending c p.index).retestFull c := rfl

theorem chan_writeOut (s : State) (c : Chan) (i : Nat) (bytes : List Byte) :
    (s.writeOut c i bytes).chan c = { s.chan c with
      written := some ⟨(s.chan c).completionAddress c i, bytes ++ [0]⟩, xfer := none } := by
  rw [writeOut, chan_raise, chan_endTransfer, deliver, chan_updChan]

theorem chanWork_writeOut (s : State) (c : Chan) (i : Nat) (bytes : List Byte) :
    ∃ u, s.ChanWork u ∧ s.writeOut c i bytes = u.raise (doneCause c) :=
  ⟨_, (chanWork_updChan ..).trans (chanWork_endTransfer ..), rfl⟩

theorem completionAddress_eq (ch : Channel) (c : Chan) (i : Nat) : ch.completionAddress c i =
    (ch.base.toNat + 64 * i + completionStart c) % 2 ^ 32 := by
  rw [Channel.completionAddress, hostAddress, Nat.add_assoc]

/-- A write's work on the channels after it has left, up to the end of its event. -/
theorem raiseWork_of_writeOut {s x : State} {c : Chan} {i : Nat} {bytes : List Byte}
    (h : (s.writeOut c i bytes).ChanWork x) : s.RaiseWork (doneCause c) x := by
  obtain ⟨u, work, e⟩ := chanWork_writeOut s c i bytes
  rw [e] at h
  exact work.raises h

/-- With the lanes at rest an event that ends a write ends at the channels. -/
theorem finishEvent_of_lanes {s x : State} (quiet : s.quiet = true) (lanes : s.SameLanes x) :
    x.finishEvent = x.settleBus := finishEvent_of_quiet (lanes.quiet quiet)

end State

section

variable {s : State} {c : Chan}

theorem execCompletionWriteEnd_of_hand {d : List Byte} {i : Nat} {b : List Byte}
    (transfer : s.inTransfer c .handCompletion = true)
    (hand : (s.chan c).hand = some ⟨d, i, .complete b⟩) :
    execCompletionWriteEnd c s = .next (s.handWritten c i b).finishEvent := by
  unfold execCompletionWriteEnd Channel.handCompletion?
  rw [if_pos transfer, hand]

theorem execCompletionWriteEnd_of_pending {p : Completion} {ps : List Completion}
    (transfer : s.inTransfer c .pendingCompletion = true)
    (pending : (s.chan c).pendingCompletions = p :: ps) :
    execCompletionWriteEnd c s = .next (s.pendingWritten c p).finishEvent := by
  have other : s.inTransfer c .handCompletion = false := by
    simp only [State.inTransfer, Bool.and_eq_true, beq_iff_eq] at transfer
    simp [State.inTransfer, transfer.2]
  unfold execCompletionWriteEnd
  rw [if_neg (by simp [other]), if_pos transfer, pending]
  rfl

end

/-- The channel after the write of the completion of its descriptor in hand, as its request finds it. -/
theorem State.chan_handWritten (s : State) (c : Chan) (i : Nat) (b : List Byte) :
    (s.handWritten c i b).settleBus.chan c =
      ((((s.writeOut c i b).chan c).handDropped).retested (s.fullCondition c)).request
        (s.fullCondition c) := by
  obtain ⟨-, -, held, index⟩ := ((s.writeOut c i b).chan c).handDropped_eq
  have lanes := (raiseWork_of_writeOut (chanWork_dropHand (s.writeOut c i b) c)).lanes
  have full : ((s.writeOut c i b).dropHand c).fullCondition c = s.fullCondition c :=
    lanes.fullCondition (by rw [chan_dropHand, held, chan_writeOut])
      (by rw [chan_dropHand, index, chan_writeOut])
  rw [chan_settleBus, handWritten_eq, fullCondition_retestFull, chan_retestFull, chan_dropHand, full]

/-- The channel after the write of a finished label's completion, as its request finds it. -/
theorem State.chan_pendingWritten (s : State) (c : Chan) (p : Completion) :
    (s.pendingWritten c p).settleBus.chan c =
      ((((s.writeOut c p.index p.bytes).chan c).pendingDropped p.index).retested
        ((s.pendingWritten c p).fullCondition c)).request ((s.pendingWritten c p).fullCondition c) := by
  rw [chan_settleBus, pendingWritten_eq, fullCondition_retestFull, chan_retestFull, chan_dropPending]

/-- Settles O40: the write leaves and raises its cause, the channel drops what is written and is tested for FULL
again, and then makes its request. -/
theorem completionWritten : Obligations.CompletionWritten := by
  refine ⟨fun s c d i b quiet transfer hand => ?_, fun s c p ps quiet transfer pending => ?_,
    rfl, rfl, fun n => ⟨rfl, rfl⟩⟩
  · have work := State.raiseWork_of_writeOut ((State.chanWork_dropHand (s.writeOut c i b) c).trans
      (State.chanWork_retestFull _ c))
    have ended := work.trans (State.chanWork_settleBus _)
    refine ⟨_, (execCompletionWriteEnd_of_hand transfer hand).trans
      (congrArg _ (State.finishEvent_of_lanes quiet work.lanes)), ended.lanes, ended.records, ?_⟩
    have chan := State.chan_handWritten s c i b
    have out := State.chan_writeOut s c i b
    obtain ⟨empty, written, -⟩ := ((s.writeOut c i b).chan c).handDropped_eq
    obtain ⟨_, retested⟩ := ((s.writeOut c i b).chan c).handDropped.retested_eq (s.fullCondition c)
    refine ⟨?_, ?_, ended.raised, fun failing => ?_, fun sound stop => ?_,
      fun sound go running none => ?_⟩
    · rw [chan, Channel.request_hand, retested, empty]
    · rw [chan, Channel.request_written, retested, written, out, State.completionAddress_eq]
    · rw [chan, Channel.handDropped_of_failing (by rw [out]; exact failing),
        Channel.retested_of_ne_full _ (by simp [Channel.stoppedFailed, Channel.stoppedWith]),
        Channel.request_stopCause,
        Channel.request_state (.inl (by simp [Channel.stoppedFailed, Channel.stoppedWith]))]
      exact ⟨rfl, rfl⟩
    · rw [chan, Channel.handDropped_of_stop (by rw [out]; exact sound) (by rw [out]; exact stop),
        Channel.retested_of_ne_full _ (by simp [Channel.stoppedWith]), Channel.request_stopCause,
        Channel.request_state (.inl (by simp [Channel.stoppedWith]))]
      exact ⟨rfl, rfl⟩
    · rw [chan, Channel.handDropped_of_none (by rw [out]; exact sound) (by rw [out]; exact go), out,
        Channel.retested_of_ne_full _ (by simp [running])]
      exact Channel.request_xfer_of_running _ rfl rfl none running
  · have work := State.raiseWork_of_writeOut ((State.chanWork_updChan (s.writeOut c p.index p.bytes) c
      fun ch => ch.pendingDropped p.index).trans (State.chanWork_retestFull _ c))
    have ended := work.trans (State.chanWork_settleBus _)
    have out := State.chan_writeOut s c p.index p.bytes
    have chan := State.chan_pendingWritten s c p
    obtain ⟨_, retested⟩ := (((s.writeOut c p.index p.bytes).chan c).pendingDropped p.index).retested_eq
      ((s.pendingWritten c p).fullCondition c)
    refine ⟨_, (execCompletionWriteEnd_of_pending transfer pending).trans
      (congrArg _ (State.finishEvent_of_lanes quiet work.lanes)), ended.lanes, ended.records, ?_, ?_, ?_,
      ?_, ended.raised, fun full => ?_⟩
    · rw [chan, Channel.request_pendingCompletions, retested, out, Channel.pendingDropped, pending]
      rfl
    · rw [chan, Channel.request_held, retested, out]
      rfl
    · rw [chan, Channel.request_hand, retested, out]
      rfl
    · rw [chan, Channel.request_written, retested, out, ← State.completionAddress_eq]
      rfl
    · rw [State.fullCondition_settleBus, chan]
      exact Channel.request_retested_state _ (by rw [out]; exact full)

end Sys2Proof.Machine
end

section
/-! Pins released when a label is given up: what goes back to the pool, and what becomes of the bodies that stay
(R6, R7, R11 to R13, R38). -/

namespace Sys2Proof.Machine

/-- A body with so many pins released. -/
def Body.lessPins (c : Body) (n : Nat) : Body := { c with pins := c.pins - n }

theorem Body.lessPins_lessPins (c : Body) (m n : Nat) :
    (c.lessPins m).lessPins n = c.lessPins (m + n) := by simp [lessPins, Nat.sub_sub]

namespace State

variable {s : State}

/-! ### What is freed goes to the back of the free list (R35) -/

/-- The free list has grown at its back, if at all. -/
def FreesBehind (s t : State) : Prop := ∃ freed, t.free = s.free ++ freed

theorem FreesBehind.of_same {s t : State} (h : t.free = s.free) : s.FreesBehind t :=
  ⟨[], by rw [h, List.append_nil]⟩

theorem FreesBehind.trans {s t u : State} (h : s.FreesBehind t) (k : t.FreesBehind u) :
    s.FreesBehind u := by
  obtain ⟨freed, hfreed⟩ := h
  obtain ⟨more, hmore⟩ := k
  exact ⟨freed ++ more, by rw [hmore, hfreed, List.append_assoc]⟩

theorem freesBehind_setRecord (s : State) (h : Nat) (r : Record) : s.FreesBehind (s.setRecord h r) :=
  .of_same rfl

theorem freesBehind_freeIfRetired (s : State) (h : Nat) : s.FreesBehind (s.freeIfRetired h) := by
  unfold freeIfRetired
  dsimp only
  split
  · exact ⟨_, (freeRecord_free s h).trans (List.append_assoc ..)⟩
  · exact .of_same rfl

theorem freesBehind_unpinBody (s : State) (h v : Nat) : s.FreesBehind (s.unpinBody h v) := by
  unfold unpinBody
  dsimp only
  split
  · split
    · exact (freesBehind_setRecord ..).trans (freesBehind_freeIfRetired ..)
    · split
      · split
        · split
          · exact ((freesBehind_setRecord ..).trans ⟨_, freeBody_free ..⟩).trans
              (freesBehind_freeIfRetired ..)
          · exact freesBehind_setRecord ..
        · exact .of_same rfl
      · exact .of_same rfl
  · exact .of_same rfl

theorem freesBehind_unpinCounter (s : State) (h : Nat) : s.FreesBehind (s.unpinCounter h) := by
  unfold unpinCounter
  dsimp only
  split
  · exact (freesBehind_setRecord ..).trans (freesBehind_freeIfRetired ..)
  · exact .of_same rfl

theorem freesBehind_unpinBodies (l : List (Nat × Nat)) :
    ∀ s : State, s.FreesBehind (s.unpinBodies l) := by
  induction l with
  | nil => exact fun s => .of_same rfl
  | cons p l ih => exact fun s => (freesBehind_unpinBody s p.1 p.2).trans (ih _)

theorem freesBehind_unpinCounters (l : List Nat) :
    ∀ s : State, s.FreesBehind (s.unpinCounters l) := by
  induction l with
  | nil => exact fun s => .of_same rfl
  | cons h l ih => exact fun s => (freesBehind_unpinCounter s h).trans (ih _)

theorem freesBehind_releasePins (s : State) (l : Label) : s.FreesBehind (s.releasePins l) :=
  (freesBehind_unpinBodies ..).trans (freesBehind_unpinCounters ..)

/-! ### A body that stays loses the pins released on it (R6, R11, R12) -/

/-- A record that is not to be freed has a current body. -/
structure Holds (s : State) (h : Nat) (c : Body) : Prop where
  current : (s.record h).current = some c
  state : (s.record h).state ≠ .retiring

theorem Holds.of_record {s t : State} {h : Nat} {c : Body} (holds : s.Holds h c)
    (same : t.record h = s.record h) : t.Holds h c := by
  obtain ⟨current, state⟩ := holds
  exact ⟨by rw [same]; exact current, by rw [same]; exact state⟩

section

variable {h : Nat} {c : Body} (canonical : s.canonical = true) (holds : s.Holds h c)

include canonical holds

omit canonical in
theorem holds_setRecord_ne {g : Nat} (r : Record) (other : h ≠ g) : (s.setRecord g r).Holds h c :=
  holds.of_record (record_setRecord_ne s r other)

theorem holds_freeBody (b : Body) : (s.freeBody b).Holds h c := by
  obtain ⟨current, state⟩ := holds
  constructor <;> rw [record_freeBody canonical]
  · exact current
  · exact state

theorem holds_freeBody? (b : Option Body) : (s.freeBody? b).Holds h c := by
  cases b with
  | none => exact holds
  | some b => exact holds_freeBody canonical holds b

theorem holds_freeIfRetired (g : Nat) : (s.freeIfRetired g).Holds h c := by
  unfold freeIfRetired
  dsimp only
  split
  · next retired =>
    have other : h ≠ g := by
      rintro rfl
      exact holds.state retired.1
    have emptied := canonical_setRecord g Record.empty canonical
    have kept := holds_freeBody? emptied (holds_setRecord_ne holds Record.empty other)
      (s.record g).current
    exact (holds_freeBody? (canonical_freeBody? _ emptied) kept (s.record g).prior).of_record rfl
  · exact holds

/-- A record's new items, its current body as given. -/
theorem holds_setRecord_same {r : Record} {b : Body} (current : r.current = some b)
    (state : r.state = (s.record h).state) : (s.setRecord h r).Holds h b := by
  constructor <;> rw [record_setRecord_canonical h r canonical]
  · exact current
  · rw [state]
    exact holds.state

theorem holds_unpinBody (g v : Nat) (version : g = h → v = c.version) :
    (s.unpinBody g v).Holds h (c.lessPins (if g == h then 1 else 0)) := by
  by_cases e : g = h
  · subst e
    rw [if_pos (beq_self_eq_true g)]
    have unpinned := holds_setRecord_same (r := { s.record g with
      current := some { c with pins := c.pins - 1 } }) canonical holds rfl rfl
    unfold unpinBody
    simp only [holds.current, version rfl, if_true]
    exact holds_freeIfRetired (canonical_setRecord g _ canonical) unpinned g
  · rw [if_neg (by simpa using e)]
    have set : ∀ r, (s.setRecord g r).Holds h c := fun r =>
      holds_setRecord_ne holds r (Ne.symm e)
    unfold unpinBody
    dsimp only
    split
    · split
      · exact holds_freeIfRetired (canonical_setRecord g _ canonical) (set _) g
      · split
        · split
          · split
            · exact holds_freeIfRetired ((storeWork_freeBody ..).canonical
                (canonical_setRecord g _ canonical))
                (holds_freeBody (canonical_setRecord g _ canonical) (set _) _) g
            · exact set _
          · exact holds
        · exact holds
    · exact holds

theorem holds_unpinCounter (g : Nat) :
    (s.unpinCounter g).Holds h (c.lessPins (if g == h then 1 else 0)) := by
  by_cases e : g = h
  · subst e
    rw [if_pos (beq_self_eq_true g), unpinCounter_of_kept canonical holds.current (.inl holds.state)]
    exact holds_setRecord_same canonical holds rfl rfl
  · rw [if_neg (by simpa using e)]
    unfold unpinCounter
    dsimp only
    split
    · exact holds_freeIfRetired (canonical_setRecord g _ canonical)
        (holds_setRecord_ne holds _ (Ne.symm e)) g
    · exact holds

end

theorem holds_unpinBodies {h : Nat} (l : List (Nat × Nat)) : ∀ {s : State} {c : Body},
    s.canonical = true → s.Holds h c → (∀ v, (h, v) ∈ l → v = c.version) →
    (s.unpinBodies l).Holds h (c.lessPins ((l.map fun p => p.1).count h)) := by
  induction l with
  | nil => exact fun _ holds _ => holds
  | cons p l ih =>
    intro s c canonical holds version
    have head := holds_unpinBody canonical holds p.1 p.2 fun e =>
      version p.2 (by rw [← e]; exact List.mem_cons_self ..)
    have tail := ih ((storeWork_unpinBody s p.1 p.2).canonical canonical) head fun v hv =>
      version v (List.mem_cons_of_mem _ hv)
    rwa [Body.lessPins_lessPins, Nat.add_comm, ← List.count_cons] at tail

theorem holds_unpinCounters {h : Nat} (l : List Nat) : ∀ {s : State} {c : Body},
    s.canonical = true → s.Holds h c → (s.unpinCounters l).Holds h (c.lessPins (l.count h)) := by
  induction l with
  | nil => exact fun _ holds => holds
  | cons g l ih =>
    intro s c canonical holds
    have tail := ih ((storeWork_unpinCounter s g).canonical canonical)
      (holds_unpinCounter canonical holds g)
    rwa [Body.lessPins_lessPins, Nat.add_comm, ← List.count_cons] at tail

/-- R11, R12: the current body loses the pins the label held on it. -/
theorem holds_releasePins {h : Nat} {c : Body} (l : Label) (canonical : s.canonical = true)
    (holds : s.Holds h c) (version : ∀ v, (h, v) ∈ l.pinned → v = c.version) :
    (s.releasePins l).Holds h (c.lessPins (l.pinHandles.count h)) := by
  have released := holds_unpinCounters l.counterPins ((storeWork_unpinBodies ..).canonical canonical)
    (holds_unpinBodies l.pinned canonical holds version)
  rwa [Body.lessPins_lessPins, ← List.count_append] at released

/-! ### Nothing is freed where no record is RETIRING and no body pinned is a prior one -/

theorem unpinBody_of_holds {h : Nat} {c : Body} (canonical : s.canonical = true)
    (holds : s.Holds h c) : s.unpinBody h c.version = s.setRecord h ((s.record h).unpinned c) := by
  unfold unpinBody
  simp only [holds.current, if_true]
  refine freeIfRetired_of_kept (.inl ?_)
  rw [record_setRecord_canonical h _ canonical]
  exact holds.state

/-- The free list and the state of every record stand. -/
structure FreesNone (s t : State) : Prop where
  free : t.free = s.free
  state : ∀ g, (t.record g).state = (s.record g).state

theorem FreesNone.trans {s t u : State} (h : s.FreesNone t) (k : t.FreesNone u) : s.FreesNone u :=
  ⟨k.free.trans h.free, fun g => (k.state g).trans (h.state g)⟩

theorem freesNone_unpinned {h : Nat} {c : Body} (canonical : s.canonical = true) :
    s.FreesNone (s.setRecord h ((s.record h).unpinned c)) := by
  refine ⟨rfl, fun g => ?_⟩
  rw [record_setRecord h _ canonical]
  split
  · next e => rw [e]; rfl
  · rfl

theorem freesNone_unpinBodies (l : List (Nat × Nat)) : ∀ {s : State}, s.canonical = true →
    (∀ p ∈ l, ∃ c, s.Holds p.1 c ∧ c.version = p.2) → s.FreesNone (s.unpinBodies l) := by
  induction l with
  | nil => exact fun _ _ => ⟨rfl, fun _ => rfl⟩
  | cons p l ih =>
    intro s canonical current
    obtain ⟨⟨b, held, version⟩, later⟩ := List.forall_mem_cons.mp current
    have head : s.FreesNone (s.unpinBody p.1 p.2) := by
      rw [← version, unpinBody_of_holds canonical held]
      exact freesNone_unpinned canonical
    refine head.trans (ih ((storeWork_unpinBody s p.1 p.2).canonical canonical) fun q hq => ?_)
    obtain ⟨c, holds, here⟩ := later q hq
    refine ⟨_, holds_unpinBody canonical holds p.1 p.2 fun e => ?_, here⟩
    rw [e] at held
    cases held.current.symm.trans holds.current
    exact version.symm

theorem freesNone_unpinCounters (l : List Nat) : ∀ {s : State}, s.canonical = true →
    (∀ h ∈ l, (s.record h).state ≠ .retiring) → s.FreesNone (s.unpinCounters l) := by
  induction l with
  | nil => exact fun _ _ => ⟨rfl, fun _ => rfl⟩
  | cons g l ih =>
    intro s canonical stays
    obtain ⟨here, later⟩ := List.forall_mem_cons.mp stays
    have head : s.FreesNone (s.unpinCounter g) := by
      cases current : (s.record g).current with
      | none =>
        unfold unpinCounter
        simp only [current]
        exact ⟨rfl, fun _ => rfl⟩
      | some b =>
        rw [unpinCounter_of_kept canonical current (.inl here)]
        exact freesNone_unpinned canonical
    refine head.trans (ih ((storeWork_unpinCounter s g).canonical canonical) fun h hh => ?_)
    rw [head.state]
    exact later h hh

theorem freesNone_releasePins (l : Label) (canonical : s.canonical = true)
    (bodies : ∀ p ∈ l.pinned, ∃ c, s.Holds p.1 c ∧ c.version = p.2)
    (counters : ∀ h ∈ l.counterPins, (s.record h).state ≠ .retiring) :
    s.FreesNone (s.releasePins l) := by
  have first := freesNone_unpinBodies l.pinned canonical bodies
  refine first.trans (freesNone_unpinCounters l.counterPins
    ((storeWork_unpinBodies ..).canonical canonical) fun h hh => ?_)
  rw [first.state]
  exact counters h hh

/-! ### A label given up (R38, R111) -/

/-- The station fetches for no label (R38). -/
def clearFetching (s : State) (n : StationNo) : State :=
  s.updStation n fun t => { t with fetching := none }

theorem discardFetching_of_none {n : StationNo} (none : (s.station n).fetching = none) :
    s.discardFetching n = s := by
  unfold discardFetching
  rw [none]

theorem discardFetching_of_some {n : StationNo} {l : Label} (some : (s.station n).fetching = some l) :
    s.discardFetching n = ((s.clearFetching n).releasePins l).freeBlocks l.reservation := by
  unfold discardFetching
  rw [some]
  rfl

/-- R38: the pins of the label go, each from its body, and then its reservation is freed (log 10). -/
theorem givesUp_discardFetching {n : StationNo} {l : Label} (canonical : s.canonical = true)
    (fetching : (s.station n).fetching = some l) : s.GivesUp (s.discardFetching n) l := by
  rw [discardFetching_of_some fetching]
  have canonical' : (s.clearFetching n).canonical = true := canonical_updStation n _ canonical
  refine ⟨?_, fun h c current stays version => ?_, fun bodies counters => ?_⟩
  · obtain ⟨freed, e⟩ := freesBehind_releasePins (s.clearFetching n) l
    exact ⟨freed, congrArg (· ++ l.reservation) e⟩
  · have holds : (s.clearFetching n).Holds h c := ⟨current, stays⟩
    exact (holds_releasePins l canonical' holds version).current
  · have none := freesNone_releasePins (s := s.clearFetching n) l canonical'
      (fun p hp => by
        obtain ⟨stays, c, current, version⟩ := bodies p hp
        exact ⟨c, ⟨current, stays⟩, version⟩) counters
    exact congrArg (· ++ l.reservation) none.free

theorem sameRest_discardFetching (s : State) (n : StationNo) : s.SameRest (s.discardFetching n) := by
  cases fetching : (s.station n).fetching with
  | none =>
    rw [discardFetching_of_none fetching]
    exact .refl s
  | some l =>
    rw [discardFetching_of_some fetching]
    have cleared : s.SameRest (s.clearFetching n) :=
      sameRest_updStation s n ⟨rfl, rfl, rfl, rfl, rfl⟩
    exact cleared.trans ((storeWork_releasePins ..).trans (storeWork_freeBlocks ..)).sameLanes.sameRest

theorem fetching_discardFetching (s : State) (n : StationNo) :
    ((s.discardFetching n).station n).fetching = none := by
  cases fetching : (s.station n).fetching with
  | none => rw [discardFetching_of_none fetching, fetching]
  | some l =>
    rw [discardFetching_of_some fetching,
      ((storeWork_releasePins ..).trans (storeWork_freeBlocks ..)).station, clearFetching,
      station_updStation]

theorem chan_discardFetching (s : State) (n : StationNo) (c : Chan) :
    (s.discardFetching n).chan c = s.chan c := by
  cases fetching : (s.station n).fetching with
  | none => rw [discardFetching_of_none fetching]
  | some l =>
    rw [discardFetching_of_some fetching,
      ((storeWork_releasePins ..).trans (storeWork_freeBlocks ..)).chan, clearFetching,
      chan_updStation]

end State
end Sys2Proof.Machine
end

section
/-! A bus error on each kind of transfer (R99, R100). -/

namespace Sys2Proof.Machine

/-! ### What is left of records and lanes -/

namespace State

theorem TableWork.sameMemory {s t : State} (h : s.TableWork t) : s.SameMemory t := by
  obtain ⟨_, _, rfl⟩ := h
  exact fun _ => rfl

section

variable {s t u : State} {e : Cause}

theorem RaiseWork.sameMemory (h : s.RaiseWork e t) : s.SameMemory t := fun a => by
  obtain ⟨-, -, memory, elements⟩ := h.records
  simp only [readByte, memory, elements]

theorem RaiseWork.canonical (h : s.RaiseWork e t) (c : s.canonical = true) : t.canonical = true := by
  obtain ⟨table, -, memory, elements⟩ := h.records
  exact canonical_of_same c memory elements table

theorem RaiseWork.station (h : s.RaiseWork e t) (n : StationNo) : t.station n = s.station n := by
  obtain ⟨stations, -⟩ := h.lanes
  rw [State.station, State.station, stations]

theorem ChanWork.then_raises (h : s.ChanWork t) (k : t.RaiseWork e u) : s.RaiseWork e u := by
  obtain ⟨events, -⟩ := h.sameEvents
  refine ⟨h.sameLanes.trans k.lanes, h.sameRecords.trans k.records, fun f => ?_⟩
  rw [k.raised, raised, events]
  rfl

theorem GivesUp.of_before {l : Label} (h : t.GivesUp u l) (same : s.SameRecords t) : s.GivesUp u l := by
  obtain ⟨freed, bodies, whole⟩ := h
  simp only [same.record, same.free] at freed bodies whole
  exact ⟨freed, bodies, whole⟩

theorem GivesUp.of_after {l : Label} (h : s.GivesUp t l) (same : t.SameRecords u) : s.GivesUp u l := by
  obtain ⟨freed, bodies, whole⟩ := h
  simp only [← same.record, ← same.free] at freed bodies whole
  exact ⟨freed, bodies, whole⟩

end

theorem loading_dropLoading {s : State} (canonical : s.canonical = true) (h : Nat) :
    ((s.dropLoading h).record h).loading = none := by
  rw [record_dropLoading_any canonical, if_pos rfl, Record.withoutLoading]
  split <;> rfl

end State

/-! ### A channel over the end of an event -/

/-- What the end of an event may do to a channel: completions join those to be written, and the channel makes the
request it has. -/
structure Channel.Settled (a b : Channel) : Prop where
  stopCause : b.stopCause = a.stopCause
  stopPending : b.stopPending = a.stopPending
  hand : b.hand = a.hand
  held : b.held = a.held
  fetchIndex : b.fetchIndex = a.fetchIndex
  failing : b.failing = a.failing
  autoPollTimer : b.autoPollTimer = a.autoPollTimer
  written : b.written = a.written
  pending : a.pendingCompletions <+: b.pendingCompletions
  pollLatch : a.pollLatch = false → b.pollLatch = false
  state : a.state ≠ .running ∨ a.hand ≠ none → b.state = a.state

theorem State.settled_finishEvent (s : State) (c : Chan) :
    (s.chan c).Settled (s.finishEvent.chan c) := by
  obtain ⟨ps, e⟩ := (spares_settleStations s).chan c
  rw [finishEvent, chan_settleBus, e]
  exact ⟨Channel.request_stopCause .., Channel.request_stopPending .., Channel.request_hand ..,
    Channel.request_held .., Channel.request_fetchIndex .., Channel.request_failing ..,
    Channel.request_autoPollTimer .., Channel.request_written ..,
    by rw [Channel.request_pendingCompletions]; exact List.prefix_append ..,
    fun h => Channel.request_pollLatch h, fun h => Channel.request_state h⟩

/-- No record comes to hold a loading body at the end of an event. -/
theorem State.unloaded_finishEvent {s : State} (canonical : s.canonical = true) {h : Nat}
    (unloaded : (s.record h).loading = none) : (s.finishEvent.record h).loading = none := by
  rw [finishEvent, (chanWork_settleBus _).record]
  exact (spares_settleStations s).unloaded canonical h unloaded

theorem State.fetching_finishEvent (s : State) (n : StationNo) :
    (s.finishEvent.station n).fetching = (s.station n).fetching := by
  rw [finishEvent, (chanWork_settleBus _).station]
  exact (spares_settleStations s).fetching n

/-! ### The completion written with BUS_ERROR (R209) -/

theorem ControlCode.isRecord_iff (k : ControlCode) :
    k.isRecord = true ↔ k ∈ [ControlCode.define, .amend, .retire, .query] := by cases k <;> decide

/-- A completion that carries its status alone. -/
theorem controlCompletion_nil (st : Status) :
    controlCompletion st [] = byte st.code :: List.replicate 30 0 := by
  simp [controlCompletion, areaBytes, List.range_succ, fieldByte]

theorem busErrorCompletion_of_record {d : List Byte} (record : (controlCode d).isRecord = true) :
    busErrorCompletion .control d = [byte Status.busError.code, 0, byte (ctlHandle d),
      byte (ctlHandle d / 256)] ++ List.replicate 27 0 := by
  simp [busErrorCompletion, record, controlCompletion, areaBytes, List.range_succ, fieldByte, bytesLE]

theorem busErrorCompletion_of_other {d : List Byte} (other : (controlCode d).isRecord = false) :
    busErrorCompletion .control d = byte Status.busError.code :: List.replicate 30 0 := by
  simp only [busErrorCompletion, other]
  exact controlCompletion_nil _

/-- A refusal carries its status alone (R113, R209). -/
theorem refusalCompletion_eq (st : Status) :
    refusalCompletion st = byte st.code :: List.replicate 45 0 := by
  simp [refusalCompletion, areaBytes, List.range_succ, fieldByte]

theorem State.controlAnswer?_of_hand {s : State} {d : List Byte} {i : Nat} {b : List Byte}
    (hand : s.control.hand = some ⟨d, i, .complete b⟩) : s.controlAnswer? = some b := by
  simp [controlAnswer?, Channel.handCompletion?, hand]

theorem State.answers_of_controlAnswer? {s : State} {st : Status} {b : List Byte}
    (answer : s.controlAnswer? = some (byte st.code :: b)) : s.answers st := by
  rw [answers, controlStatus?, answer]
  rfl

/-- The station channel has a completion that carries its status alone for the label in hand. -/
theorem State.labelAnswers_of_hand {s : State} {n : StationNo} {d : List Byte} {i : Nat}
    {st : Status} (hand : (s.chan (.station n)).hand = some ⟨d, i, .complete (refusalCompletion st)⟩) :
    s.labelAnswers n st := by
  have hand' : (s.rings.get n).hand = some ⟨d, i, .complete (refusalCompletion st)⟩ := hand
  have answer : (s.rings.get n).handCompletion?.map (fun p => p.2) =
      some (byte st.code :: List.replicate 45 0) := by
    simp [Channel.handCompletion?, hand', refusalCompletion_eq]
  refine ⟨?_, answer⟩
  simp [labelStatus?, Channel.handCompletion?, hand', refusalCompletion_eq]

/-! ### What a failed transfer does to its channel (R99) -/

/-- A channel that is to stop with BUS_ERROR when the work in hand ends (R99). -/
def Channel.stopBegun (ch : Channel) : Channel := { ch with stopCause := .busError, failing := true }

/-- A channel whose descriptor in hand is answered with some bytes, and which is to stop after it. -/
def Channel.handFailed (ch : Channel) (b : List Byte) : Channel :=
  { ch with
    hand := ch.hand.map fun h => { h with work := .complete b }, stopCause := .busError,
    failing := true }

/-- A transfer that reads for the descriptor in hand (R90, R92). -/
def Xfer.Reads (x : Xfer) : Prop := x = .burst ∨ x = .profile ∨ x = .data

namespace State

variable {s : State} {c : Chan}

theorem chan_stopAfterHand (s : State) (c : Chan) : (s.stopAfterHand c).chan c =
    if (s.chan c).hand.isSome then (s.chan c).stopBegun else (s.chan c).stoppedFailed := by
  unfold stopAfterHand
  split
  · exact chan_updChan ..
  · exact chan_stopFailed ..

theorem failHand_eq (s : State) (c : Chan) (d : List Byte) :
    s.failHand c d = s.updChan c fun ch => ch.handFailed (busErrorCompletion c d) := by
  rw [failHand, setWork, beginStop, updChan_updChan]
  rfl

theorem chan_failHand (s : State) (c : Chan) (d : List Byte) :
    (s.failHand c d).chan c = (s.chan c).handFailed (busErrorCompletion c d) := by
  rw [failHand_eq, chan_updChan]

theorem chanWork_failHand (s : State) (c : Chan) (d : List Byte) : s.ChanWork (s.failHand c d) := by
  rw [failHand_eq]
  exact chanWork_updChan ..

/-- What the failed read of a kind undoes: the load, or the label's fetch (R18, R38, R99). -/
def undoRead (s : State) (c : Chan) (x : Xfer) (d : List Byte) : State :=
  match x with
  | .burst => s.dropLoading (ctlHandle d)
  | .data => s.discardAt c
  | .profile | .fetch | .handCompletion | .pendingCompletion => s

theorem transferFailed_of_read {x : Xfer} {d : List Byte} {i : Nat} {w : Work} (reads : x.Reads)
    (hand : (s.chan c).hand = some ⟨d, i, w⟩) :
    s.transferFailed c x = (s.undoRead c x d).failHand c d := by
  rcases reads with rfl | rfl | rfl <;> simp only [transferFailed, failWork, hand, undoRead]

theorem transferFailed_of_no_read {x : Xfer} (reads : x.Reads) (hand : (s.chan c).hand = none) :
    s.transferFailed c x = s.stopFailed c := by
  rcases reads with rfl | rfl | rfl <;> simp only [transferFailed, failWork, hand]

theorem transferFailed_of_pending {p : Completion} {ps : List Completion}
    (pending : (s.chan c).pendingCompletions = p :: ps) :
    s.transferFailed c .pendingCompletion = (s.dropPending c p.index).stopAfterHand c := by
  simp only [transferFailed, pending, List.head?_cons]

theorem transferFailed_of_no_pending (none : (s.chan c).pendingCompletions = []) :
    s.transferFailed c .pendingCompletion = s.stopFailed c := by
  simp only [transferFailed, none, List.head?_nil]

theorem chan_undoRead (s : State) (c : Chan) (x : Xfer) (d : List Byte) :
    (s.undoRead c x d).chan c = s.chan c := by
  cases x with
  | burst => exact (tableWork_dropLoading_any ..).chan c
  | data =>
    cases c with
    | control => rfl
    | station n => exact chan_discardFetching ..
  | fetch | profile | handCompletion | pendingCompletion => rfl

/-- In each row of R99 the stop cause shows BUS_ERROR from the error's event on. -/
theorem stopCause_transferFailed (s : State) (c : Chan) (x : Xfer) :
    ((s.transferFailed c x).chan c).stopCause = .busError := by
  have stopped : ∀ y : State, ((y.stopFailed c).chan c).stopCause = .busError := fun y => by
    rw [chan_stopFailed]
    rfl
  have read : ∀ x : Xfer, x.Reads → ((s.transferFailed c x).chan c).stopCause = .busError :=
    fun x reads => by
      cases hand : (s.chan c).hand with
      | none => rw [transferFailed_of_no_read reads hand, stopped]
      | some h =>
        rw [transferFailed_of_read reads hand, chan_failHand]
        rfl
  cases x with
  | fetch => exact stopped s
  | burst => exact read _ (.inl rfl)
  | profile => exact read _ (.inr (.inl rfl))
  | data => exact read _ (.inr (.inr rfl))
  | handCompletion => exact stopped _
  | pendingCompletion =>
    cases pending : (s.chan c).pendingCompletions with
    | nil => rw [transferFailed_of_no_pending pending, stopped]
    | cons p ps =>
      rw [transferFailed_of_pending pending, chan_stopAfterHand]
      split <;> rfl

/-! ### The error's event up to its end -/

/-- The work of a bus error on the transfer of a channel, before its event ends (R99, R100). -/
def failed (s : State) (c : Chan) (x : Xfer) : State :=
  ((s.endTransfer c).transferFailed c x).raiseRingError ((s.chan c).failsAgain x)

theorem chan_failed (s : State) (c : Chan) (x : Xfer) :
    (s.failed c x).chan c = ((s.endTransfer c).transferFailed c x).chan c := by
  unfold failed raiseRingError
  split <;> simp

variable {x : Xfer}

theorem failed_of_first (first : (s.chan c).failsAgain x = false) :
    s.failed c x = ((s.endTransfer c).transferFailed c x).raise .ringError := by
  rw [failed, raiseRingError, if_neg (by simp [first])]

theorem failed_of_again (again : (s.chan c).failsAgain x = true) :
    s.failed c x = (s.endTransfer c).transferFailed c x := by
  rw [failed, raiseRingError, if_pos again]

theorem raised_failed (first : (s.chan c).failsAgain x = false) :
    (s.failed c x).finishEvent.raised .ringError = true := by
  refine (kept_finishEvent _).raised _ ?_
  rw [failed_of_first first, raised_raise]
  rfl

theorem failsAgain_of_read (ch : Channel) (reads : x.Reads) : ch.failsAgain x = false := by
  rcases reads with rfl | rfl | rfl <;> exact Bool.and_false _

/-- After a failed read the records and the lanes are as undoing the read leaves them, and RING_ERROR is raised. -/
theorem raiseWork_failed_of_read {d : List Byte} {i : Nat} {w : Work} (reads : x.Reads)
    (hand : (s.chan c).hand = some ⟨d, i, w⟩) :
    ((s.endTransfer c).undoRead c x d).RaiseWork .ringError (s.failed c x) := by
  have hand' : ((s.endTransfer c).chan c).hand = some ⟨d, i, w⟩ := by
    rw [chan_endTransfer]
    exact hand
  rw [failed_of_first (failsAgain_of_read _ reads), transferFailed_of_read reads hand']
  exact (chanWork_failHand _ c d).raises (.refl _)

/-- After a failed read the descriptor in hand is answered with BUS_ERROR. -/
theorem chan_failed_of_read {d : List Byte} {i : Nat} {w : Work} (reads : x.Reads)
    (hand : (s.chan c).hand = some ⟨d, i, w⟩) :
    (s.failed c x).chan c = { s.chan c with
      xfer := none, hand := some ⟨d, i, .complete (busErrorCompletion c d)⟩, stopCause := .busError,
      failing := true } := by
  have hand' : ((s.endTransfer c).chan c).hand = some ⟨d, i, w⟩ := by
    rw [chan_endTransfer]
    exact hand
  rw [chan_failed, transferFailed_of_read reads hand', chan_failHand, chan_undoRead, chan_endTransfer,
    Channel.handFailed, hand]
  rfl

end State

section

variable {s : State} {c : Chan} {x : Xfer}

theorem execTransferBusError_of_transfer (bus : s.bus = some c) (xfer : (s.chan c).xfer = some x) :
    execTransferBusError c s = .next (s.failed c x).finishEvent := by
  unfold execTransferBusError
  rw [if_pos bus, xfer]
  rfl

/-! ### The rows of R99, each over the end of its event -/

/-- The channel and its items after a failed read for a descriptor in hand. -/
structure State.ReadFails (c : Chan) (d : List Byte) (i : Nat) (s t : State) : Prop where
  hand : (t.chan c).hand = some ⟨d, i, .complete (busErrorCompletion c d)⟩
  failing : (t.chan c).failing = true
  state : (t.chan c).state = (s.chan c).state

theorem State.readFails_finishEvent {d : List Byte} {i : Nat} {w : Work} (reads : x.Reads)
    (hand : (s.chan c).hand = some ⟨d, i, w⟩) : s.ReadFails c d i (s.failed c x).finishEvent := by
  have settled := (s.failed c x).settled_finishEvent c
  rw [chan_failed_of_read reads hand] at settled
  exact ⟨settled.hand, settled.failing, settled.state (.inr (by simp))⟩

/-- Where a read for RCH-C's descriptor fails, its completion carries BUS_ERROR, with the handle for a record
command (R209). -/
theorem State.ReadFails.answers {d : List Byte} {i : Nat} {t : State}
    (h : s.ReadFails .control d i t) : t.answers .busError ∧ t.control.failing = true ∧
      t.control.state = s.control.state ∧
      (controlCode d ∈ [ControlCode.define, .amend, .retire, .query] →
        t.controlAnswer? = some ([byte Status.busError.code, 0, byte (ctlHandle d),
          byte (ctlHandle d / 256)] ++ List.replicate 27 0)) ∧
      (controlCode d ∉ [ControlCode.define, .amend, .retire, .query] → t.answersAlone .busError) := by
  have answer := controlAnswer?_of_hand h.hand
  simp only [← ControlCode.isRecord_iff, Bool.not_eq_true]
  cases record : (controlCode d).isRecord with
  | true =>
    rw [busErrorCompletion_of_record record] at answer
    exact ⟨answers_of_controlAnswer? answer, h.failing, h.state, fun _ => answer, nofun⟩
  | false =>
    rw [busErrorCompletion_of_other record] at answer
    exact ⟨answers_of_controlAnswer? answer, h.failing, h.state, nofun, 
      fun _ => ⟨answers_of_controlAnswer? answer, answer⟩⟩

/-- With the lanes at rest, the event of a failed read ends at the channels (R99). -/
theorem State.raiseWork_readFails {d : List Byte} {i : Nat} {w : Work} (reads : x.Reads)
    (hand : (s.chan c).hand = some ⟨d, i, w⟩)
    (quiet : ((s.endTransfer c).undoRead c x d).quiet = true) :
    ((s.endTransfer c).undoRead c x d).RaiseWork .ringError (s.failed c x).finishEvent := by
  have work := raiseWork_failed_of_read reads hand
  rw [finishEvent_of_lanes quiet work.lanes]
  exact work.trans (chanWork_settleBus _)

/-- A failed fetch leaves the channel STOPPED at once, with whatever it has in hand (R99). -/
theorem State.fetch_fails (s : State) (c : Chan) :
    { s.chan c with xfer := none }.stoppedFailed.Settled ((s.failed c .fetch).finishEvent.chan c) := by
  have settled := (s.failed c .fetch).settled_finishEvent c
  rwa [chan_failed, transferFailed, chan_stopFailed, chan_endTransfer] at settled

/-- A failed write of the completion in hand drops the descriptor and stops the channel at once (R99). -/
theorem State.handCompletion_fails (s : State) (c : Chan) :
    { s.chan c with xfer := none, hand := none }.stoppedFailed.Settled
      ((s.failed c .handCompletion).finishEvent.chan c) := by
  have settled := (s.failed c .handCompletion).settled_finishEvent c
  rwa [chan_failed, transferFailed, chan_stopFailed, chan_updChan, chan_endTransfer] at settled

/-- A failed write that changes nothing else than its own transfer and channel (R100). -/
theorem State.chanWork_failed_again (again : (s.chan c).failing = true) :
    s.ChanWork (s.failed c .handCompletion) := by
  rw [failed_of_again (by simp [Channel.failsAgain, again]), transferFailed]
  exact ((chanWork_endTransfer s c).trans (chanWork_updChan ..)).trans (chanWork_stopFailed ..)

/-- A failed write of a finished label's completion drops it and its index, and the channel stops at once, or when
the work in hand ends (R99, log 9). -/
theorem State.pendingCompletion_fails {p : Completion} {ps : List Completion}
    (pending : (s.chan c).pendingCompletions = p :: ps) :
    ∃ ch : Channel, ch.Settled ((s.failed c .pendingCompletion).finishEvent.chan c) ∧
      ch.held = (s.chan c).held.erase p.index ∧ ch.pendingCompletions = ps ∧
      ch.hand = (s.chan c).hand ∧ ((s.chan c).hand = none → ch.state = .stopped) ∧
      ((s.chan c).hand ≠ none → ch.failing = true) := by
  have settled := (s.failed c .pendingCompletion).settled_finishEvent c
  have pending' : ((s.endTransfer c).chan c).pendingCompletions = p :: ps := by
    rw [chan_endTransfer]
    exact pending
  rw [chan_failed, transferFailed_of_pending pending', chan_stopAfterHand, chan_dropPending,
    chan_endTransfer] at settled
  refine ⟨_, settled, ?_⟩
  cases hand : (s.chan c).hand <;>
    simp [Channel.pendingDropped, Channel.stoppedFailed, Channel.stoppedWith, Channel.stopBegun, hand,
      pending]

/-- A failed profile read leaves records and lanes as they are (R99). -/
theorem State.profile_fails {d : List Byte} {i : Nat} {w : Work}
    (hand : (s.chan c).hand = some ⟨d, i, w⟩) (quiet : s.quiet = true) :
    s.RaiseWork .ringError (s.failed c .profile).finishEvent := by
  have ended := chanWork_endTransfer s c
  have event := raiseWork_readFails (x := .profile) (.inr (.inl rfl)) hand (ended.sameLanes.quiet quiet)
  exact ended.then_raises event

/-- The record of a load whose burst fails has no loading body (R18, R99). -/
theorem State.unloaded_burst_fails {d : List Byte} {i : Nat} {w : Work}
    (hand : (s.chan c).hand = some ⟨d, i, w⟩) (canonical : s.canonical = true) :
    ((s.failed c .burst).finishEvent.record (ctlHandle d)).loading = none := by
  have work := raiseWork_failed_of_read (x := .burst) (.inl rfl) hand
  have ended := (chanWork_endTransfer s c).canonical canonical
  refine unloaded_finishEvent (work.canonical ((kept_dropLoading ..).canonical ended)) ?_
  rw [work.records.record]
  exact loading_dropLoading ended (ctlHandle d)

/-- With the lanes at rest, a failed burst leaves what giving up its load leaves (R18, R99). -/
theorem State.burst_fails {d : List Byte} {i : Nat} {w : Work}
    (hand : (s.chan c).hand = some ⟨d, i, w⟩) (canonical : s.canonical = true)
    (quiet : s.quiet = true) :
    s.SameLanes (s.failed c .burst).finishEvent ∧ s.SameMemory (s.failed c .burst).finishEvent ∧
      s.SameRecordsBut (s.failed c .burst).finishEvent (ctlHandle d) ∧
      (s.failed c .burst).finishEvent.free =
        s.free ++ ((s.record (ctlHandle d)).loading.elim [] fun b => b.blocks) ∧
      (s.failed c .burst).finishEvent.record (ctlHandle d) =
        (s.record (ctlHandle d)).withoutLoading := by
  have ended := chanWork_endTransfer s c
  have table := tableWork_dropLoading_any (s.endTransfer c) (ctlHandle d)
  have lanes := ended.sameLanes.trans table.sameLanes
  have event := raiseWork_readFails (x := .burst) (.inl rfl) hand (lanes.quiet quiet)
  have record : ∀ g, (s.failed c .burst).finishEvent.record g =
      if g = ctlHandle d then (s.record (ctlHandle d)).withoutLoading else s.record g := fun g => by
    rw [event.records.record, ← ended.record, ← ended.record]
    exact record_dropLoading_any (ended.canonical canonical) (ctlHandle d) g
  refine ⟨lanes.trans event.lanes, fun a => ?_, fun g other => ?_, ?_, ?_⟩
  · exact (event.sameMemory a).trans ((table.sameMemory a).trans (ended.sameMemory a))
  · rw [record, if_neg other]
  · refine event.records.free.trans ((dropLoading_free_any ..).trans ?_)
    rw [ended.record, ended.sameRecords.free]
  · rw [record, if_pos rfl]

/-- A failed data read gives the label up (R38, R99). -/
theorem State.data_fails {n : StationNo} {d : List Byte} {i : Nat} {w : Work}
    (hand : (s.chan (.station n)).hand = some ⟨d, i, w⟩) :
    ((s.failed (.station n) .data).finishEvent.station n).fetching = none ∧
      ∀ l, (s.station n).fetching = some l → s.quiet = true → s.canonical = true →
        s.GivesUp (s.failed (.station n) .data).finishEvent l ∧
          ((s.failed (.station n) .data).finishEvent.station n).queue = (s.station n).queue := by
  have ended := chanWork_endTransfer s (.station n)
  have reads : Xfer.data.Reads := .inr (.inr rfl)
  refine ⟨?_, fun l fetching quiet canonical => ?_⟩
  · rw [fetching_finishEvent, (raiseWork_failed_of_read reads hand).station]
    exact fetching_discardFetching ..
  · have rest := ended.sameLanes.sameRest.trans
      (sameRest_discardFetching (s.endTransfer (.station n)) n)
    have event := raiseWork_readFails reads hand (rest.quiet quiet)
    have given := givesUp_discardFetching (n := n) (ended.canonical canonical)
      (by rw [ended.station]; exact fetching)
    refine ⟨(given.of_before ended.sameRecords).of_after event.records, ?_⟩
    rw [event.station]
    exact (rest.stations n).queue

end

/-- Settles O41: the rows of R99 and R100, each worked out for its channel and followed over the end of the event. -/
theorem transferBusError : Obligations.TransferBusError := by
  intro s c x bus xfer
  have settled := (s.failed c x).settled_finishEvent c
  have ended := State.chanWork_endTransfer s c
  refine ⟨_, execTransferBusError_of_transfer bus xfer, ?_, fun first => ?_, ?_, ?_, ?_, ?_, ?_, ?_⟩
  · rw [settled.stopCause, State.chan_failed, State.stopCause_transferFailed]
  · refine State.raised_failed ?_
    rw [Channel.failsAgain, Bool.and_eq_false_iff]
    by_cases other : x = .handCompletion
    · exact .inl (Bool.not_eq_true _ ▸ fun failing => first ⟨other, failing⟩)
    · exact .inr (beq_eq_false_iff_ne.mpr other)
  · rintro rfl again quiet
    have work := (State.chanWork_failed_again again).trans (State.chanWork_settleBus _)
    rw [State.finishEvent_of_lanes quiet (State.chanWork_failed_again again).sameLanes]
    exact ⟨work.sameEvents, work.sameRecords, work.sameLanes⟩
  · rintro rfl
    have stopped := s.fetch_fails c
    exact ⟨stopped.state (.inl (by simp [Channel.stoppedFailed, Channel.stoppedWith])),
      stopped.stopPending, stopped.pollLatch rfl, stopped.autoPollTimer, stopped.hand,
      stopped.fetchIndex⟩
  · rintro rfl
    have stopped := s.handCompletion_fails c
    exact ⟨stopped.state (.inl (by simp [Channel.stoppedFailed, Channel.stoppedWith])), stopped.hand,
      stopped.stopPending, stopped.pollLatch rfl, stopped.autoPollTimer, stopped.written⟩
  · rintro p ps rfl pending
    obtain ⟨ch, after, held, written, hand, stopped, failing⟩ := State.pendingCompletion_fails pending
    refine ⟨after.held.trans held, written ▸ after.pending, after.hand.trans hand, fun empty => ?_,
      fun busy => after.failing.trans (failing busy)⟩
    rw [after.state (.inl (by simp [stopped empty])), stopped empty]
  · rintro d i w rfl hand read
    have reads : x.Reads := read.elim .inl fun h => .inr (.inl h)
    obtain ⟨answers, failing, state, record, other⟩ :=
      (State.readFails_finishEvent reads (c := .control) hand).answers
    refine ⟨answers, failing, state, record, other, ?_, ?_⟩
    · rintro rfl quiet
      have event := State.profile_fails (c := .control) hand quiet
      exact ⟨event.records, event.lanes⟩
    · rintro rfl canonical
      exact ⟨State.unloaded_burst_fails (c := .control) hand canonical,
        State.burst_fails (c := .control) hand canonical⟩
  · rintro d i w n rfl hand rfl
    have fails := State.readFails_finishEvent (x := .data) (.inr (.inr rfl)) hand
    obtain ⟨fetching, given⟩ := State.data_fails hand
    exact ⟨State.labelAnswers_of_hand fails.hand, fails.failing, fails.state, fetching, given⟩

end Sys2Proof.Machine
end

section
/-! The end of a descriptor fetch (R85, R87, R89, R92, R97), and what a command's descriptor says (R208). -/

namespace Sys2Proof.Machine

/-! ### A command's descriptor (R208) -/

/-- The code of each command, 0 for what names none (R208). -/
def ControlCode.number : ControlCode → Nat
  | .define => 1
  | .amend => 2
  | .retire => 3
  | .query => 4
  | .setProfile => 5
  | .setLimits => 6
  | .calibrate => 7
  | .dotcheck => 8
  | .unknown => 0

/-- The commands in the order of their codes. -/
def ControlCode.commands : List ControlCode :=
  [.define, .amend, .retire, .query, .setProfile, .setLimits, .calibrate, .dotcheck]

theorem ControlCode.number_of_commands {k : Nat} {c : ControlCode} (h : commands[k]? = some c) :
    c ≠ .unknown ∧ c.number = k + 1 := by
  have each : ∀ k : Fin commands.length, commands[k] ≠ .unknown ∧ commands[k].number = k + 1 := by
    decide
  obtain ⟨bound, rfl⟩ := List.getElem?_eq_some_iff.mp h
  exact each ⟨k, bound⟩

theorem controlCode_eq_iff {d : List Byte} {c : ControlCode} (known : c ≠ .unknown) :
    controlCode d = c ↔ (d.getD 0 0).toNat = c.number := by
  unfold controlCode
  generalize (d.getD 0 0).toNat = n
  split
  case h_9 => cases c <;> simp_all [ControlCode.number]
  all_goals cases c <;> simp [ControlCode.number]

theorem controlCode_eq_unknown_iff {d : List Byte} :
    controlCode d = .unknown ↔ (d.getD 0 0).toNat = 0 ∨ 8 < (d.getD 0 0).toNat := by
  unfold controlCode
  generalize (d.getD 0 0).toNat = n
  split
  case h_9 =>
    simp only [true_iff, imp_false] at *
    omega
  all_goals simp

theorem ControlCode.namesStation_iff (c : ControlCode) :
    c.namesStation = true ↔ c ∈ [ControlCode.setProfile, .setLimits, .calibrate, .dotcheck] := by
  cases c <;> decide

theorem stationNo_ofNat?_eq_some_iff {k : Nat} {n : StationNo} :
    StationNo.ofNat? k = some n ↔ k = n.toNat := by
  unfold StationNo.ofNat?
  split
  case h_5 => cases n <;> simp_all [StationNo.toNat]
  all_goals cases n <;> simp [StationNo.toNat]

theorem stationNo_ofNat?_isNone_iff {k : Nat} : (StationNo.ofNat? k).isNone = true ↔ 3 < k := by
  unfold StationNo.ofNat?
  split
  case h_5 =>
    simp only [Option.isNone_none, true_iff, imp_false] at *
    omega
  all_goals simp

/-- The code of each kind of record (R208). -/
def Kind.number : Kind → Nat
  | .form => 1
  | .font => 2
  | .symbology => 3
  | .counter => 4

theorem kindOf?_eq_some_iff {n : Nat} {c : Kind} : kindOf? n = some c ↔ n = c.number := by
  unfold kindOf?
  split
  case h_5 => cases c <;> simp_all [Kind.number]
  all_goals cases c <;> simp [Kind.number]

/-- The kinds in the order of their codes. -/
def Kind.all : List Kind := [.form, .font, .symbology, .counter]

theorem Kind.number_of_all {k : Nat} {c : Kind} (h : all[k]? = some c) : c.number = k + 1 := by
  have each : ∀ k : Fin all.length, all[k].number = k + 1 := by decide
  obtain ⟨bound, rfl⟩ := List.getElem?_eq_some_iff.mp h
  exact each ⟨k, bound⟩

theorem toNat_append_eq {m n : Nat} (a : BitVec m) (b : BitVec n) :
    (a ++ b).toNat = a.toNat * 2 ^ n + b.toNat := by
  rw [BitVec.toNat_append, ← Nat.shiftLeft_add_eq_or_of_lt b.isLt, Nat.shiftLeft_eq]

/-- Four bytes at a position, the lowest first (R208). -/
theorem le32_listReader (d : List Byte) (i : Nat) :
    (d.getD (i + 3) 0 ++ d.getD (i + 2) 0 ++ d.getD (i + 1) 0 ++ d.getD i 0).toNat =
      le32 (listReader d) i := by
  rw [toNat_append_eq, toNat_append_eq, toNat_append_eq]
  simp only [le32, le16, listReader, Nat.add_assoc, Nat.reduceAdd]
  omega

/-! ### A fetch that takes nothing into hand (R85, R87, R97) -/

/-- The auto-poll timer starts unless the interval is OFF (R87). -/
theorem State.autoPollStart_eq (s : State) :
    s.autoPollStart = if s.autoPoll = 0 then none else some s.clock := by
  have off : ∀ code : BitVec 3, (autoPollMs code).isSome = decide (code ≠ 0) := by decide
  have here := off s.autoPoll
  unfold autoPollStart
  split
  · next interval =>
    rw [if_neg]
    simpa [interval] using here
  · next interval =>
    rw [if_pos]
    simpa [interval] using here

/-- A channel whose fetch has found HOST (R85, R87, log 40). -/
def Channel.foundHost (ch : Channel) (start : Option Word) : Channel :=
  if ch.pollLatch then { ch with state := .running, autoPollTimer := none, refetchDue := false }
  else if ch.state = .suspended then { ch with autoPollTimer := start, refetchDue := false }
  else { ch with state := .suspended, autoPollTimer := start }

section

variable {ch : Channel} {start : Option Word}

theorem Channel.foundHost_of_latch (latch : ch.pollLatch = true) : ch.foundHost start =
    { ch with state := .running, autoPollTimer := none, refetchDue := false } := if_pos latch

theorem Channel.foundHost_of_refetch (clear : ch.pollLatch = false) (h : ch.state = .suspended) :
    ch.foundHost start = { ch with autoPollTimer := start, refetchDue := false } := by
  rw [foundHost, if_neg (by simp [clear]), if_pos h]

theorem Channel.foundHost_of_running (clear : ch.pollLatch = false) (h : ch.state = .running) :
    ch.foundHost start = { ch with state := .suspended, autoPollTimer := start } := by
  rw [foundHost, if_neg (by simp [clear]), if_neg (by simp [h])]

end

theorem Channel.foundHost_eq (ch : Channel) (start : Option Word) :
    (ch.foundHost start).hand = ch.hand ∧ (ch.foundHost start).held = ch.held ∧
      (ch.foundHost start).fetchIndex = ch.fetchIndex := by
  unfold foundHost
  split
  · exact ⟨rfl, rfl, rfl⟩
  · split <;> exact ⟨rfl, rfl, rfl⟩

namespace State

variable {s : State} {c : Chan} {d : List Byte}

theorem chan_foundHost (s : State) (c : Chan) :
    (s.foundHost c).chan c = (s.chan c).foundHost s.autoPollStart := by
  unfold foundHost Channel.foundHost
  dsimp only
  split
  · exact chan_updChan ..
  · split
    · exact chan_updChan ..
    · rw [suspend, chan_raise, chan_updChan]

/-- Found HOST with the latch set or in a refetch, a channel goes on without a cause. -/
theorem chanWork_foundHost (h : (s.chan c).pollLatch = true ∨ (s.chan c).state = .suspended) :
    s.ChanWork (s.foundHost c) := by
  unfold foundHost
  dsimp only
  split
  · exact chanWork_updChan ..
  · next clear =>
    rw [if_pos (h.resolve_left clear)]
    exact chanWork_updChan ..

/-- Found HOST, a channel is else SUSPENDED and raises RING_SUSPENDED (R85). -/
theorem raiseWork_foundHost (clear : (s.chan c).pollLatch = false)
    (running : (s.chan c).state ≠ .suspended) : s.RaiseWork (.ringSuspended c) (s.foundHost c) := by
  have suspends : s.foundHost c = s.suspend c := by
    rw [foundHost, if_neg (by simp [clear]), if_neg running]
  rw [suspends]
  exact (chanWork_updChan ..).raises (.refl _)

/-- The state in which the event of a fetch ends its own work (R85). -/
def fetched (s : State) (c : Chan) (d : List Byte) : State := (s.endTransfer c).fetchEnded c d

theorem execDescriptorFetchEnd_of_transfer (length : d.length = 64)
    (transfer : s.inTransfer c .fetch = true) :
    execDescriptorFetchEnd c d s = .next (s.fetched c d).finishEvent := by
  unfold execDescriptorFetchEnd
  rw [if_neg (by simp [Instr.wellFormed, length]), if_pos transfer]
  rfl

theorem stopPending_endTransfer (s : State) (c : Chan) :
    ((s.endTransfer c).chan c).stopPending = (s.chan c).stopPending := by rw [chan_endTransfer]

theorem fetched_of_stop (stop : (s.chan c).stopPending = true) :
    s.fetched c d = (s.endTransfer c).stopChannel c .host := by
  rw [fetched, fetchEnded, if_pos (by rw [stopPending_endTransfer, stop])]

theorem fetched_of_host (go : (s.chan c).stopPending = false) (host : d.getD 63 0 ≠ 1) :
    s.fetched c d = (s.endTransfer c).foundHost c := by
  rw [fetched, fetchEnded, if_neg (by simp [stopPending_endTransfer, go]),
    if_neg (by simpa [ownedByPart] using host)]

theorem fetched_of_part (go : (s.chan c).stopPending = false) (part : d.getD 63 0 = 1) :
    s.fetched c d = (s.endTransfer c).takeDescriptor c d := by
  rw [fetched, fetchEnded, if_neg (by simp [stopPending_endTransfer, go]),
    if_pos (by simpa [ownedByPart] using part)]

/-- Where no cause is raised, a fetch that finds HOST is work on the channels. -/
theorem chanWork_fetched (go : (s.chan c).stopPending = false) (host : d.getD 63 0 ≠ 1)
    (h : (s.chan c).pollLatch = true ∨ (s.chan c).state = .suspended) :
    s.ChanWork (s.fetched c d) := by
  rw [fetched_of_host go host]
  exact (chanWork_endTransfer s c).trans (chanWork_foundHost (by rw [chan_endTransfer]; exact h))

/-- A RUNNING channel that finds HOST with the latch clear raises RING_SUSPENDED (R85). -/
theorem raiseWork_fetched (go : (s.chan c).stopPending = false) (host : d.getD 63 0 ≠ 1)
    (clear : (s.chan c).pollLatch = false) (h : (s.chan c).state ≠ .suspended) :
    s.RaiseWork (.ringSuspended c) (s.fetched c d) := by
  rw [fetched_of_host go host]
  exact (chanWork_endTransfer s c).then_raises (raiseWork_foundHost
    (by rw [chan_endTransfer]; exact clear) (by rw [chan_endTransfer]; exact h))

/-- What a fetch that takes nothing into hand leaves before its event ends. -/
structure FetchedNone (s : State) (c : Chan) (y : State) : Prop where
  lanes : s.SameLanes y
  records : s.SameRecords y
  hand : (y.chan c).hand = (s.chan c).hand
  held : (y.chan c).held = (s.chan c).held
  fetchIndex : (y.chan c).fetchIndex = (s.chan c).fetchIndex

theorem fetchedNone_of_stop (stop : (s.chan c).stopPending = true) :
    s.FetchedNone c (s.fetched c d) := by
  have work := (chanWork_endTransfer s c).trans (chanWork_stopChannel _ c .host)
  rw [fetched_of_stop stop]
  constructor
  · exact work.sameLanes
  · exact work.sameRecords
  all_goals rw [stopChannel, chan_updChan, chan_endTransfer]

theorem chan_fetched_of_host (go : (s.chan c).stopPending = false) (host : d.getD 63 0 ≠ 1) :
    (s.fetched c d).chan c =
      { s.chan c with xfer := none }.foundHost (if s.autoPoll = 0 then none else some s.clock) := by
  have start : (s.endTransfer c).autoPollStart = if s.autoPoll = 0 then none else some s.clock := by
    cases c <;> exact autoPollStart_eq s
  rw [fetched_of_host go host, chan_foundHost, chan_endTransfer, start]

theorem fetchedNone_of_host (go : (s.chan c).stopPending = false) (host : d.getD 63 0 ≠ 1) :
    s.FetchedNone c (s.fetched c d) := by
  have chan := chan_fetched_of_host go host
  obtain ⟨hand, held, index⟩ := Channel.foundHost_eq { s.chan c with xfer := none }
    (if s.autoPoll = 0 then none else some s.clock)
  have left : s.SameLanes (s.fetched c d) ∧ s.SameRecords (s.fetched c d) := by
    by_cases h : (s.chan c).pollLatch = true ∨ (s.chan c).state = .suspended
    · have work := chanWork_fetched go host h
      exact ⟨work.sameLanes, work.sameRecords⟩
    · rw [not_or, Bool.not_eq_true] at h
      have work := raiseWork_fetched go host h.1 h.2
      exact ⟨work.lanes, work.records⟩
  exact ⟨left.1, left.2, by rw [chan, hand], by rw [chan, held], by rw [chan, index]⟩

theorem fetchedNone (nothing : (s.chan c).stopPending = true ∨ d.getD 63 0 ≠ 1) :
    s.FetchedNone c (s.fetched c d) := by
  cases stop : (s.chan c).stopPending with
  | true => exact fetchedNone_of_stop stop
  | false => exact fetchedNone_of_host stop (nothing.resolve_left (by simp [stop]))

theorem FetchedNone.chan {y : State} (h : s.FetchedNone c y) :
    y.settleBus.chan c = (y.chan c).request (s.fullCondition c) := by
  rw [chan_settleBus, h.lanes.fullCondition h.held h.fetchIndex]

/-! ### A fetch that takes a descriptor into hand (R85, R89, R92) -/

end State

/-- A channel that has taken a descriptor into hand at some work (R85, R87). -/
def Channel.handTaken (ch : Channel) (d : List Byte) (w : Work) : Channel :=
  { ch with state := .running, hand := some ⟨d, ch.fetchIndex, w⟩,
            fetchIndex := nextIndex ch.fetchIndex ch.size, autoPollTimer := none, refetchDue := false }

/-- The work a channel finds in a descriptor (R89, R92). -/
def foundWork : Chan → List Byte → Work
  | .control => controlWork
  | .station _ => stationWork

namespace State

variable {s : State} {c : Chan} {d : List Byte}

theorem chan_takeHand (s : State) (c : Chan) (d : List Byte) (w : Work) :
    (s.takeHand c d w).chan c = (s.chan c).handTaken d w := chan_updChan ..

/-- All but a LABEL descriptor at a station is taken into hand and no more. -/
theorem takeDescriptor_of_plain (plain : c = .control ∨ isLabel d = false) :
    s.takeDescriptor c d = s.takeHand c d (foundWork c d) := by
  unfold takeDescriptor
  split
  · rfl
  · next n =>
    dsimp only
    rw [if_neg (by simpa using plain)]
    rfl

/-- A LABEL descriptor at a station is accepted or refused in the same event (R92, R109). -/
theorem takeDescriptor_of_label {n : StationNo} (label : isLabel d = true) :
    s.takeDescriptor (.station n) d = (s.takeHand (.station n) d (stationWork d)).acceptLabel n d
      (s.rings.get n).fetchIndex := by
  unfold takeDescriptor
  exact if_pos label

/-- A pin taken touches the table alone. -/
theorem tableWork_pinAll (hs : List Nat) : ∀ s : State, s.TableWork (s.pinAll hs) := by
  induction hs with
  | nil => exact .refl
  | cons h hs ih =>
    intro s
    have head : s.TableWork (s.pinCurrent h) := by
      unfold pinCurrent
      dsimp only
      split
      · exact tableWork_setRecord ..
      · exact .refl s
    exact head.trans (ih _)

end State

/-- Dropping the descriptor in hand starts no auto-poll timer. -/
theorem Channel.autoPollTimer_handDropped {ch : Channel} (stopped : ch.autoPollTimer = none) :
    ch.handDropped.autoPollTimer = none := by
  unfold handDropped
  split
  · rfl
  · split
    · rfl
    · exact stopped

namespace State

variable {s : State}

theorem autoPollTimer_refuseLabel (n : StationNo) (st : Status)
    (stopped : (s.chan (.station n)).autoPollTimer = none) :
    ((s.refuseLabel n st).chan (.station n)).autoPollTimer = none := by
  rw [refuseLabel, setWork, chan_updChan]
  exact stopped

theorem autoPollTimer_joinLabel (n : StationNo) (l : Label)
    (stopped : (s.chan (.station n)).autoPollTimer = none) :
    ((s.joinLabel n l).chan (.station n)).autoPollTimer = none := by
  have joined : ((s.join n l).chan (.station n)).autoPollTimer = none := by
    unfold join
    dsimp only
    rw [chan_dropHand, chan_updChan]
    exact Channel.autoPollTimer_handDropped stopped
  unfold joinLabel
  dsimp only
  split
  · rw [wakeUp, chan_updStation, enter, chan_updStation]
    exact joined
  · exact joined

/-- An acceptance starts no auto-poll timer (R109 to R113). -/
theorem autoPollTimer_acceptLabel (n : StationNo) (d : List Byte) (i : Nat)
    (stopped : (s.chan (.station n)).autoPollTimer = none) :
    ((s.acceptLabel n d i).chan (.station n)).autoPollTimer = none := by
  unfold acceptLabel
  split
  · exact autoPollTimer_refuseLabel n _ stopped
  · split
    · exact autoPollTimer_refuseLabel n _ stopped
    · next granted =>
      have pinned := fun hs =>
        ((tableWork_allocate granted).trans (tableWork_pinAll hs _)).chan (.station n)
      dsimp only
      split
      · exact autoPollTimer_joinLabel n _ (by rw [pinned]; exact stopped)
      · rw [chan_updStation, pinned]
        exact stopped

end State

/-! ### The rules of the end of a fetch -/

namespace State

variable {s : State} {c : Chan} {d : List Byte}

/-- Whatever is found, a descriptor taken into hand advances the fetch index and leaves the timer stopped. -/
theorem fetched_part (go : (s.chan c).stopPending = false) (part : d.getD 63 0 = 1) :
    ((s.fetched c d).chan c).fetchIndex = nextIndex (s.chan c).fetchIndex (s.chan c).size ∧
      ((s.fetched c d).chan c).autoPollTimer = none := by
  have taken : ∀ w, (((s.endTransfer c).takeHand c d w).chan c) =
      { s.chan c with xfer := none }.handTaken d w := fun w => by
    rw [chan_takeHand, chan_endTransfer]
  rw [fetched_of_part go part]
  by_cases plain : c = .control ∨ isLabel d = false
  · rw [takeDescriptor_of_plain plain, taken]
    exact ⟨rfl, rfl⟩
  · rw [not_or, Bool.not_eq_false] at plain
    obtain ⟨station, label⟩ := plain
    cases c with
    | control => exact absurd rfl station
    | station n =>
      rw [takeDescriptor_of_label label]
      refine ⟨?_, autoPollTimer_acceptLabel n d _ (by rw [taken]; rfl)⟩
      rw [((kept_acceptLabel ..).regs (.station n)).fetchIndex, taken]
      rfl

/-- What a fetch that takes a descriptor into hand, and no more, leaves at the end of its event. -/
structure FetchedHand (s : State) (c : Chan) (d : List Byte) (t : State) : Prop where
  lanes : s.SameLanes t
  records : s.SameRecords t
  events : s.SameEvents t
  state : (t.chan c).state = .running
  hand : (t.chan c).hand = some ⟨d, (s.chan c).fetchIndex, foundWork c d⟩

theorem fetchedHand_of_part (quiet : s.quiet = true) (go : (s.chan c).stopPending = false)
    (part : d.getD 63 0 = 1) (plain : c = .control ∨ isLabel d = false) :
    s.FetchedHand c d (s.fetched c d).finishEvent := by
  have e : s.fetched c d = (s.endTransfer c).takeHand c d (foundWork c d) := by
    rw [fetched_of_part go part, takeDescriptor_of_plain plain]
  have chan : (s.fetched c d).chan c = { s.chan c with xfer := none }.handTaken d (foundWork c d) := by
    rw [e, chan_takeHand, chan_endTransfer]
  have work : s.ChanWork (s.fetched c d) := by
    rw [e]
    exact (chanWork_endTransfer s c).trans (chanWork_updChan ..)
  have settled := (s.fetched c d).settled_finishEvent c
  rw [chan] at settled
  have ended := work.trans (chanWork_settleBus _)
  rw [← finishEvent_of_lanes quiet work.sameLanes] at ended
  exact ⟨ended.sameLanes, ended.sameRecords, ended.sameEvents,
    settled.state (.inr (by simp [Channel.handTaken])), settled.hand⟩

/-- A station channel answers what is no LABEL descriptor with BAD_COMMAND (R92). -/
theorem FetchedHand.labelAnswers {n : StationNo} {t : State} (h : s.FetchedHand (.station n) d t)
    (plain : isLabel d = false) : t.labelAnswers n .badCommand := by
  have hand := h.hand
  rw [foundWork, stationWork, if_neg (by simp [plain])] at hand
  exact labelAnswers_of_hand hand

theorem ctlStation?_isNone_iff {d : List Byte} :
    (ctlStation? d).isNone = true ↔ 3 < (d.getD 1 0).toNat := stationNo_ofNat?_isNone_iff

/-- RCH-C answers what no owner is to have at once, reads a profile first, and hands on the rest (R89, R90). -/
theorem FetchedHand.answers {t : State} (h : s.FetchedHand .control d t) :
    if controlCode d = .unknown then t.answersAlone .badCommand
    else if (controlCode d).namesStation ∧ 3 < (d.getD 1 0).toNat then t.answersAlone .noHead
    else t.control.hand = some ⟨d, s.control.fetchIndex,
      if controlCode d = .setProfile then .profile else .owner⟩ := by
  have hand : t.control.hand = some ⟨d, s.control.fetchIndex, controlWork d⟩ := h.hand
  have alone : ∀ st, t.control.hand = some ⟨d, s.control.fetchIndex, .complete (statusCompletion .control st)⟩ →
      t.answersAlone st := fun st h => by
    have answer := controlAnswer?_of_hand h
    rw [statusCompletion, controlCompletion_nil] at answer
    exact ⟨answers_of_controlAnswer? answer, answer⟩
  unfold controlWork at hand
  simp only [ctlStation?_isNone_iff] at hand
  split
  · next unknown =>
    rw [if_pos unknown] at hand
    exact alone _ hand
  · next known =>
    rw [if_neg known] at hand
    split
    · next nowhere =>
      rw [if_pos nowhere] at hand
      exact alone _ hand
    · next somewhere =>
      rw [if_neg somewhere] at hand
      exact hand

end State

/-- A command's parameters stand in the bytes that R208 gives them. -/
theorem controlDescriptor_reads (d : List Byte) :
    (∀ k c, ControlCode.commands[k]? = some c → (controlCode d = c ↔ (d.getD 0 0).toNat = k + 1)) ∧
    (∀ k c, Kind.all[k]? = some c → (ctlKind? d = some c ↔ (d.getD 4 0).toNat = k + 1)) := by
  refine ⟨fun k c command => ?_, fun k c kind => ?_⟩
  · obtain ⟨known, number⟩ := ControlCode.number_of_commands command
    rw [controlCode_eq_iff known, number]
  · rw [ctlKind?, kindOf?_eq_some_iff, Kind.number_of_all kind]

/-- Settles O34: by what the fetch finds, each channel's part is worked out before the end of the event and followed
over it. -/
theorem fetchEnds : Obligations.FetchEnds := by
  refine ⟨fun s c d length transfer quiet nothing => ?_,
    fun s c d length part transfer quiet go => ?_, fun d => ?_⟩
  · have found := State.fetchedNone nothing
    have lanes := found.lanes.trans (State.chanWork_settleBus (s.fetched c d)).sameLanes
    have records := found.records.trans (State.chanWork_settleBus (s.fetched c d)).sameRecords
    have chan := found.chan
    have quietly : s.ChanWork (s.fetched c d) → s.SameEvents (s.fetched c d).settleBus :=
      fun h => (h.trans (State.chanWork_settleBus _)).sameEvents
    have host : (s.chan c).stopPending = false → d.getD 63 0 ≠ 1 :=
      fun go => nothing.resolve_left (by simp [go])
    refine ⟨_, (State.execDescriptorFetchEnd_of_transfer length transfer).trans
      (congrArg _ (State.finishEvent_of_lanes quiet found.lanes)), lanes, records, ?_, ?_, fun stop => ?_,
      fun go latch empty written => ?_, fun go clear running => ?_, fun go clear suspended => ?_⟩
    · rw [chan, Channel.request_hand, found.hand]
    · rw [chan, Channel.request_fetchIndex, found.fetchIndex]
    · have stopped : (s.fetched c d).chan c = { s.chan c with xfer := none }.stoppedWith .host := by
        rw [State.fetched_of_stop stop, State.stopChannel, State.chan_updChan, State.chan_endTransfer]
        rfl
      rw [chan, stopped, Channel.request_state (.inl (by simp [Channel.stoppedWith]))]
      refine ⟨rfl, Channel.request_stopCause .., Channel.request_stopPending .., quietly ?_⟩
      rw [State.fetched_of_stop stop]
      exact (State.chanWork_endTransfer s c).trans (State.chanWork_stopChannel ..)
    · rw [chan, State.chan_fetched_of_host go (host go),
        Channel.foundHost_of_latch (ch := { s.chan c with xfer := none }) latch,
        Channel.request_state_of_running _ rfl]
      refine ⟨by simp [empty, written], Channel.request_xfer_of_running _ rfl empty written rfl,
        Channel.request_autoPollTimer .., quietly (State.chanWork_fetched go (host go) (.inl latch))⟩
    · have raised := (State.raiseWork_fetched go (host go) clear (by simp [running])).trans
        (State.chanWork_settleBus _)
      rw [chan, State.chan_fetched_of_host go (host go),
        Channel.foundHost_of_running (ch := { s.chan c with xfer := none }) clear running,
        Channel.request_state (.inl (by simp))]
      exact ⟨rfl, Channel.request_autoPollTimer .., raised.raised⟩
    · rw [chan, State.chan_fetched_of_host go (host go),
        Channel.foundHost_of_refetch (ch := { s.chan c with xfer := none }) clear suspended,
        Channel.request_state (.inl (by simp [suspended]))]
      exact ⟨suspended, Channel.request_refetchDue rfl, Channel.request_autoPollTimer ..,
        quietly (State.chanWork_fetched go (host go) (.inr suspended))⟩
  · obtain ⟨index, timer⟩ := State.fetched_part go part
    have settled := (s.fetched c d).settled_finishEvent c
    refine ⟨_, State.execDescriptorFetchEnd_of_transfer length transfer, settled.fetchIndex.trans index,
      settled.autoPollTimer.trans timer, ?_, ?_⟩
    · rintro rfl
      have taken := State.fetchedHand_of_part quiet go part (.inl rfl)
      exact ⟨taken.lanes, taken.records, taken.events, taken.state, taken.answers⟩
    · rintro n rfl other
      have plain : isLabel d = false := beq_eq_false_iff_ne.mpr other
      have taken := State.fetchedHand_of_part quiet go part (.inr plain)
      exact ⟨taken.lanes, taken.records, taken.events, taken.state, taken.labelAnswers plain⟩
  · obtain ⟨commands, kinds⟩ := controlDescriptor_reads d
    refine ⟨commands, controlCode_eq_unknown_iff, ControlCode.namesStation_iff,
      fun n => stationNo_ofNat?_eq_some_iff, rfl, kinds, rfl, by simp [ctlTag], fun j hj => ?_, rfl,
      le32_listReader d 16, le32_listReader d 20⟩
    simp [ctlTag, List.getD_eq_getElem?_getD, hj]

end Sys2Proof.Machine
end

section
/-! The register window as the host writes and reads it: ring registers, settings of engine control, and the words
that show what the blocks hold (R83, R87, R102, R192 to R197). -/

namespace Sys2Proof.Machine

/-! ### Bits and fields of a word -/

section

variable {N : Nat}

theorem getLsbD_ofNat_of_digit {k : Nat} {b : Bool} (bound : k < 32) (digit : N / 2 ^ k % 2 = b.toNat) :
    (BitVec.ofNat 32 N).getLsbD k = b := by
  rw [BitVec.getLsbD_ofNat, Nat.testBit_eq_decide_div_mod_eq, digit, decide_eq_true bound, Bool.true_and]
  cases b <;> rfl

theorem getLsbD_ofNat_above {m i : Nat} (small : N < 2 ^ m) (above : m ≤ i) :
    (BitVec.ofNat 32 N).getLsbD i = false := by
  rw [BitVec.getLsbD_ofNat, Nat.testBit_lt_two_pow
    (lt_of_lt_of_le small (Nat.pow_le_pow_right Nat.two_pos above)), Bool.and_false]

theorem getLsbD_ofNat_below {m i : Nat} (multiple : 2 ^ m ∣ N) (below : i < m) :
    (BitVec.ofNat 32 N).getLsbD i = false := by
  obtain ⟨q, rfl⟩ := multiple
  rw [BitVec.getLsbD_ofNat, Nat.testBit_two_pow_mul, decide_eq_false (Nat.not_le.mpr below),
    Bool.false_and, Bool.and_false]

theorem toNat_extractLsb'_ofNat (a k : Nat) (small : N < 2 ^ 32) :
    ((BitVec.ofNat 32 N).extractLsb' a k).toNat = N / 2 ^ a % 2 ^ k := by
  rw [BitVec.extractLsb'_toNat, BitVec.toNat_ofNat, Nat.mod_eq_of_lt small, Nat.shiftRight_eq_div_pow]

theorem flagAt_eq (b : Bool) (k : Nat) : flagAt b k = b.toNat * 2 ^ k := by cases b <;> simp [flagAt]

end

/-! ### Engine control, engine status and station configuration (R194, R195) -/

theorem State.engineControl_reads (s : State) :
    s.engineControl.getLsbD 20 = decide (s.arbiter = .rotate) ∧
      s.engineControl.extractLsb' 24 3 = s.autoPoll ∧
      ∀ i, i ≠ 20 → (i < 24 ∨ 26 < i) → s.engineControl.getLsbD i = false := by
  have mode : (s.arbiter == .rotate) = decide (s.arbiter = .rotate) := rfl
  have interval := s.autoPoll.isLt
  unfold engineControl
  rw [flagAt_eq, mode]
  generalize decide (s.arbiter = .rotate) = b
  have flag := b.toNat_lt
  refine ⟨getLsbD_ofNat_of_digit (by decide) (by omega), BitVec.eq_of_toNat_eq ?_, fun i other place => ?_⟩
  · rw [toNat_extractLsb'_ofNat _ _ (by omega)]
    omega
  · by_cases low : i < 20
    · exact getLsbD_ofNat_below (m := 20) (by omega) low
    · rcases place with within | above
      · obtain rfl | rfl | rfl : i = 21 ∨ i = 22 ∨ i = 23 := by omega
        all_goals exact getLsbD_ofNat_of_digit (b := false) (by decide) (by simp only [Bool.toNat_false]; omega)
      · exact getLsbD_ofNat_above (m := 27) (by omega) above

theorem stationNo_toNat_lt (n : StationNo) : n.toNat < 4 := by cases n <;> decide

theorem State.checked_lt (s : State) : (s.check.elim 0 fun c => c.station.toNat) < 4 := by
  cases s.check with
  | none => exact Nat.zero_lt_succ _
  | some c => exact stationNo_toNat_lt c.station

theorem State.engineStatus_eq (s : State) : s.engineStatus = BitVec.ofNat 32
    (s.loading.toNat + s.defaulted.toNat * 2 + s.checkPending.s0.toNat * 2 ^ 4 +
      s.checkPending.s1.toNat * 2 ^ 5 + s.checkPending.s2.toNat * 2 ^ 6 +
      s.checkPending.s3.toNat * 2 ^ 7 + s.check.isSome.toNat * 2 ^ 8 +
      (s.check.elim 0 fun c => c.station.toNat) * 2 ^ 9) := by
  unfold engineStatus
  simp only [flagAt_eq]
  cases s.check with
  | none => simp
  | some c =>
    simp only [Option.isSome_some, Bool.toNat_true, Option.elim_some]
    congr 1
    omega

theorem State.engineStatus_reads (s : State) :
    s.engineStatus.getLsbD 0 = s.loading ∧ s.engineStatus.getLsbD 1 = s.defaulted ∧
      (∀ n : StationNo, s.engineStatus.getLsbD (4 + n.toNat) = s.checkPending.get n) ∧
      s.engineStatus.getLsbD 8 = s.check.isSome ∧
      (s.engineStatus.extractLsb' 9 2).toNat = (s.check.elim 0 fun c => c.station.toNat) ∧
      ∀ i, (i = 2 ∨ i = 3 ∨ 10 < i) → s.engineStatus.getLsbD i = false := by
  have station := s.checked_lt
  have l := s.loading.toNat_lt
  have d := s.defaulted.toNat_lt
  have p0 := s.checkPending.s0.toNat_lt
  have p1 := s.checkPending.s1.toNat_lt
  have p2 := s.checkPending.s2.toNat_lt
  have p3 := s.checkPending.s3.toNat_lt
  have c := s.check.isSome.toNat_lt
  rw [engineStatus_eq]
  refine ⟨getLsbD_ofNat_of_digit (by decide) (by omega), getLsbD_ofNat_of_digit (by decide) (by omega),
    fun n => ?_, getLsbD_ofNat_of_digit (by decide) (by omega), ?_, fun i place => ?_⟩
  · cases n <;> exact getLsbD_ofNat_of_digit (by decide) (by simp only [StationNo.toNat, Four.get]; omega)
  · rw [toNat_extractLsb'_ofNat _ _ (by omega)]
    omega
  · rcases place with rfl | rfl | above
    · exact getLsbD_ofNat_of_digit (b := false) (by decide) (by simp only [Bool.toNat_false]; omega)
    · exact getLsbD_ofNat_of_digit (b := false) (by decide) (by simp only [Bool.toNat_false]; omega)
    · exact getLsbD_ofNat_above (m := 11) (by omega) above

theorem State.stationConfig_reads {s : State} (bound : ∀ m, (s.station m).dotCount ≤ 1024)
    (n : StationNo) :
    (s.stationConfig.extractLsb' (8 * n.toNat) 8).toNat = (s.station n).dotCount / 8 := by
  have h0 : s.stations.s0.dotCount ≤ 1024 := bound .s0
  have h1 : s.stations.s1.dotCount ≤ 1024 := bound .s1
  have h2 : s.stations.s2.dotCount ≤ 1024 := bound .s2
  have h3 : s.stations.s3.dotCount ≤ 1024 := bound .s3
  rw [stationConfig, toNat_extractLsb'_ofNat _ _ (by omega)]
  cases n <;> simp only [StationNo.toNat, station, Four.get] <;> omega

/-! ### The state register of a ring (R196) -/

theorem ChanState.code_lt (k : ChanState) : k.code < 4 := by cases k <;> decide

theorem StopCause.code_lt (k : StopCause) : k.code < 8 := by cases k <;> decide

theorem Channel.stateWord_reads {ch : Channel} (held : ch.held.length ≤ 8)
    (pending : ch.pendingCompletions.length ≤ 8) :
    (ch.stateWord.extractLsb' 0 2).toNat = ch.state.code ∧
      (ch.stateWord.extractLsb' 4 3).toNat = ch.stopCause.code ∧
      ch.stateWord.getLsbD 8 = ch.stopPending ∧ ch.stateWord.getLsbD 9 = ch.hand.isSome ∧
      (ch.stateWord.extractLsb' 12 4).toNat = ch.held.length ∧
      (ch.stateWord.extractLsb' 16 4).toNat = ch.pendingCompletions.length ∧
      ∀ i, (i ∈ [2, 3, 7, 10, 11] ∨ 19 < i) → ch.stateWord.getLsbD i = false := by
  have state := ch.state.code_lt
  have cause := ch.stopCause.code_lt
  have stop := ch.stopPending.toNat_lt
  have hand := ch.hand.isSome.toNat_lt
  unfold stateWord
  rw [flagAt_eq, flagAt_eq]
  refine ⟨?_, ?_, getLsbD_ofNat_of_digit (by decide) (by omega),
    getLsbD_ofNat_of_digit (by decide) (by omega), ?_, ?_, fun i place => ?_⟩
  · rw [toNat_extractLsb'_ofNat _ _ (by omega)]
    omega
  · rw [toNat_extractLsb'_ofNat _ _ (by omega)]
    omega
  · rw [toNat_extractLsb'_ofNat _ _ (by omega)]
    omega
  · rw [toNat_extractLsb'_ofNat _ _ (by omega)]
    omega
  · rcases place with gap | above
    · simp only [List.mem_cons, List.not_mem_nil, or_false] at gap
      rcases gap with rfl | rfl | rfl | rfl | rfl
      all_goals exact getLsbD_ofNat_of_digit (b := false) (by decide) (by simp only [Bool.toNat_false]; omega)
    · exact getLsbD_ofNat_above (m := 20) (by omega) above

/-! ### The window (R192, R193) -/

theorem State.readRegister_ring (s : State) (c : Chan) :
    s.readRegister (0x40 + 16 * c.toNat) = (s.chan c).base ∧
      s.readRegister (0x44 + 16 * c.toNat) = BitVec.ofNat 32 (s.chan c).size ∧
      s.readRegister (0x48 + 16 * c.toNat) = BitVec.ofNat 32 (s.chan c).fetchIndex ∧
      s.readRegister (0x4C + 16 * c.toNat) = (s.chan c).stateWord := by
  rcases c with _ | ⟨_ | _ | _ | _⟩ <;> exact ⟨rfl, rfl, rfl, rfl⟩

theorem State.readRegister_unlisted (s : State) {o : Nat}
    (unlisted : (0x30 ≤ o ∧ o < 0x40) ∨ (0x90 ≤ o ∧ o < 0xA0) ∨ 0xE0 ≤ o) : s.readRegister o = 0 := by
  unfold readRegister
  iterate 13 rw [if_neg (by omega)]

/-! ### Writes (R83, R87, R102) -/

theorem Channel.writable_iff {ch : Channel} : ch.writable = true ↔
    ch.state = .stopped ∧ ch.held = [] ∧ ch.pendingCompletions = [] := by
  simp [writable, and_assoc]

section

variable {s : State} {c : Chan} (v : Word)

theorem execRingSizeWrite_of_writable (writable : (s.chan c).writable = true) :
    execRingSizeWrite c v s = .next (if 16 ≤ v.toNat % 2048 ∧ v.toNat % 2048 ≤ 1024 then
      s.updChan c fun ch => { ch with size := v.toNat % 2048, fetchIndex := 0 } else s) := by
  unfold execRingSizeWrite ringSizeOf
  simp only [writable, within_iff, true_and]
  split <;> rfl

theorem execRingFetchIndexWrite_of_writable (writable : (s.chan c).writable = true) :
    execRingFetchIndexWrite c v s = .next (if v.toNat % 1024 < (s.chan c).size then
      s.updChan c fun ch => { ch with fetchIndex := v.toNat % 1024 } else s) := by
  unfold execRingFetchIndexWrite ringIndexOf
  simp only [writable, true_and]
  split <;> rfl

/-- A channel that is not STOPPED and empty takes no write of its registers (R83). -/
theorem execRingWrites_of_not_writable (closed : (s.chan c).writable = false) :
    execRingBaseWrite c v s = .next s ∧ execRingSizeWrite c v s = .next s ∧
      execRingFetchIndexWrite c v s = .next s :=
  ⟨if_neg (by simp [closed]), if_neg (by simp [closed]), if_neg (by simp [closed])⟩

end

theorem State.setInterval_eq (s : State) (code : BitVec 3) : s.setInterval code =
    { s with autoPoll := code, control := (s.setInterval code).control,
             rings := (s.setInterval code).rings } := rfl

theorem State.chan_setInterval (s : State) (code : BitVec 3) (c : Chan) :
    (s.setInterval code).chan c = (s.chan c).repoll (if code = 0 then none else some s.clock) := by
  have start := State.autoPollStart_eq { s with autoPoll := code }
  rw [← start]
  rcases c with _ | ⟨_ | _ | _ | _⟩ <;> rfl

theorem Channel.repoll_eq (ch : Channel) (code : BitVec 3) (clock : Word) :
    ch.repoll (if code = 0 then none else some clock) = { ch with
      autoPollTimer := if code ≠ 0 ∧ ch.state = .suspended ∧ ch.stopPending = false then some clock
        else none } := by
  unfold repoll
  by_cases off : code = 0
  · simp [off]
  · rw [if_neg off]
    simp only [ne_eq, off, not_false_eq_true, true_and]

/-- Settles O14: a write is taken where its rule says; a read shows each item in its bits. -/
theorem registerWrites : Obligations.RegisterWrites := by
  refine ⟨fun s c v stopped held pending => ?_, fun s c v closed => ?_, fun s c => ?_, fun s w taken => ?_,
    fun s w ignored => ?_, fun s w read => ?_, fun s w read => ?_, fun s => ?_,
    fun s c w held pending read => ?_, fun s => ?_⟩
  · have writable := Channel.writable_iff.mpr ⟨stopped, held, pending⟩
    exact ⟨if_pos writable, ringBaseOf_toNat v, execRingSizeWrite_of_writable v writable,
      execRingFetchIndexWrite_of_writable v writable⟩
  · refine execRingWrites_of_not_writable v ?_
    rw [← Bool.not_eq_true, Channel.writable_iff]
    simpa only [not_and_or] using closed
  · obtain ⟨base, size, index, -⟩ := s.readRegister_ring c
    exact ⟨base, size, index⟩
  · exact ⟨if_pos taken, _, if_pos taken, s.setInterval_eq _, fun c => by
      rw [State.chan_setInterval, Channel.repoll_eq, ctlAutoPoll]⟩
  · have off : ¬ctlSettings w = true := by
      rw [ctlSettings, ignored]
      exact Bool.false_ne_true
    exact ⟨if_neg off, if_neg off⟩
  · subst read
    exact s.engineControl_reads
  · subst read
    exact s.engineStatus_reads
  · exact ⟨State.stationConfig_reads, rfl, rfl, rfl, rfl⟩
  · obtain ⟨-, -, -, word⟩ := s.readRegister_ring c
    obtain rfl := word.symm.trans read
    obtain ⟨state, cause, rest⟩ := Channel.stateWord_reads held pending
    exact ⟨state.trans (by cases (s.chan c).state <;> rfl),
      cause.trans (by cases (s.chan c).stopCause <;> rfl), rest⟩
  · refine ⟨rfl, fun n => ?_, fun o unlisted => s.readRegister_unlisted unlisted⟩
    cases n <;> exact ⟨rfl, rfl⟩

end Sys2Proof.Machine
end

section
/-! What writes no byte of record memory and gives no stamp: the release of pins, the work of the lanes, and all of
the end of an event but the Composer's draws (R11, R78, R108). -/

namespace Sys2Proof.Machine

/-- No byte of record memory has been written, and no label has been given a stamp. -/
structure State.NoWrite (s t : State) : Prop where
  memory : t.memory = s.memory
  elements : t.elements = s.elements
  nextStamp : t.nextStamp = s.nextStamp

namespace State.NoWrite

variable {s t u : State}

theorem refl (s : State) : s.NoWrite s := ⟨rfl, rfl, rfl⟩

theorem trans (h : s.NoWrite t) (k : t.NoWrite u) : s.NoWrite u :=
  ⟨k.memory.trans h.memory, k.elements.trans h.elements, k.nextStamp.trans h.nextStamp⟩

theorem of_tableWork (h : s.TableWork t) : s.NoWrite t := by
  obtain ⟨_, _, rfl⟩ := h
  exact ⟨rfl, rfl, rfl⟩

theorem of_chanWork (h : s.ChanWork t) : s.NoWrite t := by
  obtain ⟨_, _, _, _, _, rfl⟩ := h
  exact ⟨rfl, rfl, rfl⟩

theorem sameMemory (h : s.NoWrite t) : s.SameMemory t := fun a => by
  simp only [readByte, h.memory, h.elements]

theorem foldl {β : Type} {f : State → β → State} (h : ∀ s b, State.NoWrite s (f s b)) (l : List β) :
    ∀ s : State, s.NoWrite (l.foldl f s) := by
  induction l with
  | nil => exact .refl
  | cons b l ih => exact fun s => (h s b).trans (ih _)

end State.NoWrite

namespace State

theorem noWrite_updStation (s : State) (n : StationNo) (f : Station → Station) :
    s.NoWrite (s.updStation n f) := ⟨rfl, rfl, rfl⟩

theorem noWrite_updChan (s : State) (c : Chan) (f : Channel → Channel) :
    s.NoWrite (s.updChan c f) := .of_chanWork (chanWork_updChan s c f)

theorem noWrite_setRecord (s : State) (h : Nat) (r : Record) : s.NoWrite (s.setRecord h r) :=
  ⟨rfl, rfl, rfl⟩

/-! ### The release of pins (R7, R11 to R13) -/

theorem noWrite_freeBody (s : State) (b : Body) : s.NoWrite (s.freeBody b) :=
  .of_tableWork (tableWork_freeBody? s (some b))

theorem noWrite_freeIfRetired (s : State) (h : Nat) : s.NoWrite (s.freeIfRetired h) := by
  unfold freeIfRetired
  dsimp only
  split
  · exact (NoWrite.of_tableWork (tableWork_freeRecord s h)).trans ⟨rfl, rfl, rfl⟩
  · exact .refl s

theorem noWrite_unpinBody (s : State) (h v : Nat) : s.NoWrite (s.unpinBody h v) := by
  unfold unpinBody
  dsimp only
  split
  · split
    · exact (noWrite_setRecord ..).trans (noWrite_freeIfRetired ..)
    split
    · split
      · split
        · exact ((noWrite_setRecord ..).trans (noWrite_freeBody ..)).trans (noWrite_freeIfRetired ..)
        · exact noWrite_setRecord ..
      · exact .refl s
    · exact .refl s
  · exact .refl s

theorem noWrite_unpinCounter (s : State) (h : Nat) : s.NoWrite (s.unpinCounter h) := by
  unfold unpinCounter
  dsimp only
  split
  · exact (noWrite_setRecord ..).trans (noWrite_freeIfRetired ..)
  · exact .refl s

theorem noWrite_unpinBodies (l : List (Nat × Nat)) : ∀ s : State, s.NoWrite (s.unpinBodies l) := by
  induction l with
  | nil => exact .refl
  | cons p l ih => exact fun s => (noWrite_unpinBody ..).trans (ih _)

theorem noWrite_unpinCounters (l : List Nat) : ∀ s : State, s.NoWrite (s.unpinCounters l) := by
  induction l with
  | nil => exact .refl
  | cons h l ih => exact fun s => (noWrite_unpinCounter ..).trans (ih _)

theorem noWrite_releasePins (s : State) (l : Label) : s.NoWrite (s.releasePins l) :=
  (noWrite_unpinBodies ..).trans (noWrite_unpinCounters ..)

/-! ### The work of a lane -/

theorem noWrite_finishHead (s : State) (n : StationNo) (st : Status) : s.NoWrite (s.finishHead n st) := by
  unfold finishHead
  split
  · exact .refl s
  · exact (((noWrite_updStation ..).trans (.of_tableWork (tableWork_freeBlocks ..))).trans
      (noWrite_releasePins ..)).trans (noWrite_updChan ..)

theorem noWrite_abandon (s : State) (n : StationNo) (ctx : Nat) (st : Status) :
    s.NoWrite (s.abandon n ctx st) := by
  unfold abandon
  split
  · exact .refl s
  split
  · exact .refl s
  split
  · exact noWrite_finishHead ..
  · exact noWrite_updStation ..

theorem noWrite_skipOne (s : State) (n : StationNo) : s.NoWrite (s.skipOne n) := by
  unfold skipOne
  split
  · split
    · exact noWrite_abandon ..
    · exact .refl s
  · exact .refl s

theorem noWrite_skipMany (n : StationNo) (k : Nat) : ∀ s : State, s.NoWrite (s.skipMany n k) := by
  induction k with
  | zero => exact .refl
  | succ k ih => exact fun s => (noWrite_skipOne s n).trans (ih _)

theorem noWrite_enterFault (s : State) (n : StationNo) (c : FaultCause) : s.NoWrite (s.enterFault n c) := by
  have entered : s.NoWrite (((s.enter n .fault).updStation n fun t =>
      { t with faultCause := c, holdPending := false }).raise (.stationFault n)) := ⟨rfl, rfl, rfl⟩
  exact (entered.trans (noWrite_updStation ..)).trans (noWrite_skipMany ..)

theorem noWrite_finishWorking (s : State) (n : StationNo) (st : Status) :
    s.NoWrite (s.finishWorking n st) := by
  unfold finishWorking
  split
  · exact noWrite_finishHead ..
  · exact .refl s

theorem noWrite_mediaFault (s : State) (n : StationNo) : s.NoWrite (s.mediaFault n) :=
  ((noWrite_finishWorking ..).trans (noWrite_updStation ..)).trans (noWrite_enterFault ..)

theorem noWrite_firePrinted (s : State) (n : StationNo) : s.NoWrite (s.firePrinted n) := by
  unfold firePrinted
  dsimp only
  split <;> exact ⟨rfl, rfl, rfl⟩

theorem noWrite_beginPrinting (s : State) (n : StationNo) (k : LineKind) :
    s.NoWrite (s.beginPrinting n k) := by
  unfold beginPrinting
  dsimp only
  split
  · exact noWrite_updStation ..
  split
  · exact noWrite_mediaFault ..
  split
  · exact noWrite_mediaFault ..
  cases k with
  | printed => exact (noWrite_updStation ..).trans (noWrite_firePrinted ..)
  | leading | peel | eject | calibrate => exact ⟨rfl, rfl, rfl⟩

theorem noWrite_takeHead (s : State) (n : StationNo) (l : Label) : s.NoWrite (s.takeHead n l) := by
  unfold takeHead enter updLabel
  exact ((noWrite_updStation ..).trans (noWrite_updStation ..)).trans (noWrite_updStation ..)

theorem noWrite_printStart (s : State) (n : StationNo) (l : Label) : s.NoWrite (s.printStart n l) := by
  rw [printStart_eq]
  exact ((noWrite_takeHead ..).trans (noWrite_updStation ..)).trans (noWrite_beginPrinting ..)

theorem noWrite_startLoop (n : StationNo) (r : Nat) : ∀ s : State, s.NoWrite (State.startLoop n r s) := by
  induction r with
  | zero => exact .refl
  | succ r ih =>
    intro s
    unfold startLoop
    split
    · exact .refl s
    · exact noWrite_printStart ..
    · exact ((noWrite_updStation ..).trans (noWrite_finishHead ..)).trans (ih _)

theorem noWrite_expireEntry (s : State) (n : StationNo) (k : Nat) (l : Label) :
    s.NoWrite (s.expireEntry n k l) := by
  have dropped : s.NoWrite (s.dropTrigger n k) := noWrite_updStation ..
  unfold expireEntry
  dsimp only
  split
  · exact dropped.trans (noWrite_finishHead ..)
  · exact dropped.trans (noWrite_abandon ..)

theorem noWrite_pair (n : StationNo) (r : Nat) : ∀ s : State, s.NoWrite (State.pair n r s) := by
  induction r with
  | zero => exact .refl
  | succ r ih =>
    intro s
    unfold pair
    split
    · exact .refl s
    · dsimp only
      split
      · exact (noWrite_expireEntry ..).trans (ih _)
      · exact (noWrite_updStation ..).trans (ih _)

/-! ### The end of an event but for the Composer's choice -/

theorem noWrite_pairAll (s : State) : s.NoWrite s.pairAll :=
  .foldl (fun s n => noWrite_pair n _ s) _ s

theorem noWrite_startAll (s : State) : s.NoWrite s.startAll :=
  .foldl (fun s n => noWrite_startLoop n _ s) _ s

theorem noWrite_beginCheck (s : State) (n : StationNo) (o : CheckOrigin) :
    s.NoWrite (s.beginCheck n o) := by
  obtain ⟨f, e, -⟩ := beginAtStation_eq s n
  have begun : s.NoWrite (s.beginAtStation n) := e ▸ noWrite_updStation s n f
  exact begun.trans ⟨rfl, rfl, rfl⟩

theorem noWrite_serveAndStart (k : Nat) : ∀ s : State, s.NoWrite (s.serveAndStart k) := by
  induction k with
  | zero => exact noWrite_startAll
  | succ k ih =>
    intro s
    have counted : s.NoWrite { s with freeIndex := s.freeIndex + 1 } := ⟨rfl, rfl, rfl⟩
    unfold serveAndStart
    split
    · exact noWrite_startAll s
    split
    · dsimp only
      split
      · exact (counted.trans (noWrite_beginCheck ..)).trans (noWrite_startAll _)
      · exact (counted.trans (noWrite_startLoop ..)).trans (ih _)
    · exact (noWrite_beginCheck ..).trans (noWrite_startAll _)

/-- All that follows the Composer's choice. -/
theorem noWrite_afterChoice (s : State) : s.NoWrite (s.serveAndStart 5).parkTimers.settleBus :=
  ((noWrite_serveAndStart 5 s).trans (.foldl (fun s n => noWrite_updStation s n _) _ _)).trans
    (.of_chanWork (chanWork_settleBus _))

end State
end Sys2Proof.Machine
end

section
/-! The finish of the head of a label queue, the release of a pin, and the completion of a label (R7, R11, R13, R126,
R127, R208, R210). -/

namespace Sys2Proof.Machine

/-! ### The head that finishes (R126) -/

namespace State

variable {s : State} {n : StationNo} {l : Label} {rest : List Label}

/-- The state in which the pins of a finished head are released: it has left the queue, and its reservation has gone
back. -/
def headGone (s : State) (n : StationNo) (l : Label) (rest : List Label) : State :=
  (s.updStation n fun t => { t with queue := rest }).freeBlocks l.reservation

theorem finishHead_of_cons (queue : (s.station n).queue = l :: rest) (st : Status) :
    s.finishHead n st = ((s.headGone n l rest).releasePins l).updChan (.station n) fun ch =>
      { ch with pendingCompletions := ch.pendingCompletions ++ [⟨l.index, l.completion st⟩] } := by
  simp only [finishHead, queue, headGone]

theorem chan_finishHead (queue : (s.station n).queue = l :: rest) (st : Status) :
    ((s.finishHead n st).chan (.station n)).pendingCompletions
      = (s.chan (.station n)).pendingCompletions ++ [⟨l.index, l.completion st⟩] := by
  rw [finishHead_of_cons queue, chan_updChan, (storeWork_releasePins ..).chan, headGone,
    chan_freeBlocks, chan_updStation]

/-- R38, R126: the reservation goes back before what the pins free. -/
theorem free_finishHead (queue : (s.station n).queue = l :: rest) (st : Status) :
    (s.free ++ l.reservation) <+: (s.finishHead n st).free := by
  obtain ⟨freed, e⟩ := freesBehind_releasePins (s.headGone n l rest) l
  rw [finishHead_of_cons queue, updChan_free, e]
  exact List.prefix_append ..

/-- R11: the current body of a record that stays loses the pins that the head held on it. -/
theorem current_finishHead (queue : (s.station n).queue = l :: rest) (st : Status)
    (canonical : s.canonical = true) {h : Nat} {c : Body} (holds : s.Holds h c)
    (version : ∀ v, (h, v) ∈ l.pinned → v = c.version) :
    ((s.finishHead n st).record h).current = some (c.lessPins (l.pinHandles.count h)) := by
  have gone : (s.headGone n l rest).Holds h c := holds.of_record rfl
  have released := (holds_releasePins l (canonical_freeBlocks _ (canonical_updStation n _ canonical))
    gone version).current
  rw [finishHead_of_cons queue, record, updChan_table]
  exact released

end State

/-! ### MARKED_HEAD_FINISH (R126) -/

section

variable {s : State} {n : StationNo}

theorem execMarkedHeadFinish_of_marked {l : Label} {rest : List Label} {st : Status}
    (queue : (s.station n).queue = l :: rest) (mark : l.mark = some st) (idle : l.state ≠ .composing) :
    exec (.markedHeadFinish n) s = .next (s.finishHead n st).finishEvent := by
  have head : (s.station n).markedHead? = some st := by
    simp only [Station.markedHead?, queue, List.head?_cons, if_neg idle, mark]
  show execMarkedHeadFinish n s = _
  simp only [execMarkedHeadFinish, head]

theorem execMarkedHeadFinish_of_other
    (other : ∀ l rest, (s.station n).queue = l :: rest → l.mark = none ∨ l.state = .composing) :
    exec (.markedHeadFinish n) s = .next s := by
  have head : (s.station n).markedHead? = none := by
    cases queue : (s.station n).queue with
    | nil => simp [Station.markedHead?, queue]
    | cons l rest =>
      simp only [Station.markedHead?, queue, List.head?_cons, ite_eq_left_iff]
      exact (other l rest queue).resolve_right
  show execMarkedHeadFinish n s = _
  simp only [execMarkedHeadFinish, head]

end

/-! ### A pin released on the current body (R6, R13) -/

namespace State

variable {s : State} {h : Nat} {c : Body}

/-- A counter pin counts on the current body. -/
theorem unpinCounter_eq_unpinBody (current : (s.record h).current = some c) :
    s.unpinCounter h = s.unpinBody h c.version := by
  simp only [unpinCounter, unpinBody, current, if_true]

theorem unpinBody_of_kept (canonical : s.canonical = true) (current : (s.record h).current = some c)
    (kept : (s.record h).state ≠ .retiring ∨ 0 < c.pins - 1 + bodyPins (s.record h).prior) :
    s.unpinBody h c.version = s.setRecord h ((s.record h).unpinned c) := by
  rw [← unpinCounter_eq_unpinBody current, unpinCounter_of_kept canonical current kept]

/-- R13: where there is no prior body, the other records lose the referrers of the body freed alone. -/
theorem record_unpinCounter_of_last (canonical : s.canonical = true)
    (current : (s.record h).current = some c) (retiring : (s.record h).state = .retiring)
    (last : c.pins - 1 + bodyPins (s.record h).prior = 0) (prior : (s.record h).prior = none) {g : Nat}
    (other : g ≠ h) : (s.unpinCounter h).record g =
      { s.record g with referrers := (s.record g).referrers - c.refs.count g } := by
  have written := record_setRecord_canonical h ((s.record h).unpinned c) canonical
  have freed := record_freeRecord_ne (canonical_setRecord h ((s.record h).unpinned c) canonical) other
    (by rw [written]; rfl) (by rw [written]; exact prior)
  rw [record_setRecord_ne _ _ other] at freed
  rw [unpinCounter_of_current current, freeIfRetired_of_unpinned (by rw [written]; exact retiring)
    (by rw [written, Record.pins_unpinned, last])]
  exact freed

/-! ### A pin released on the prior body (R6, R7, R13) -/

/-- The state in which a prior body has just been freed (R7). -/
def priorFreed (s : State) (h : Nat) (b : Body) : State :=
  (s.setRecord h { s.record h with prior := none }).freeBody b

section

variable {b : Body} (current : (s.record h).current = some c) (prior : (s.record h).prior = some b)
  (newer : c.version ≠ b.version)

include current prior newer

theorem unpinBody_of_prior_kept (pinned : 1 < b.pins) : s.unpinBody h b.version =
    s.setRecord h { s.record h with prior := some (b.lessPins 1) } := by
  simp only [unpinBody, current, prior, if_neg newer, if_true, if_neg (Nat.not_le.mpr pinned)]
  rfl

theorem unpinBody_of_prior_last (last : b.pins ≤ 1) :
    s.unpinBody h b.version = (s.priorFreed h b).freeIfRetired h := by
  simp only [unpinBody, current, prior, if_neg newer, if_true, if_pos last, priorFreed]

end

variable (canonical : s.canonical = true) (b : Body)

theorem free_priorFreed : (s.priorFreed h b).free = s.free ++ b.blocks := freeBody_free ..

theorem eventStatus_priorFreed : (s.priorFreed h b).eventStatus = s.eventStatus := by
  obtain ⟨_, _, freed⟩ := tableWork_freeBody? (s.setRecord h { s.record h with prior := none }) (some b)
  exact (congrArg eventStatus freed).trans rfl

include canonical

theorem canonical_priorFreed : (s.priorFreed h b).canonical = true :=
  canonical_freeBody? (some b) (canonical_setRecord h _ canonical)

theorem record_priorFreed : (s.priorFreed h b).record h = { s.record h with
    prior := none, referrers := (s.record h).referrers - b.refs.count h } := by
  rw [priorFreed, record_freeBody (canonical_setRecord h _ canonical),
    record_setRecord_canonical h _ canonical]

theorem record_priorFreed_ne {g : Nat} (other : g ≠ h) : (s.priorFreed h b).record g =
    { s.record g with referrers := (s.record g).referrers - b.refs.count g } := by
  rw [priorFreed, record_freeBody (canonical_setRecord h _ canonical), record_setRecord_ne _ _ other]

theorem pins_priorFreed (current : (s.record h).current = some c) :
    ((s.priorFreed h b).record h).pins = c.pins := by
  rw [record_priorFreed canonical, Record.pins_eq, current]
  rfl

/-- R7, R13: the prior body's last pin, and with it the record's: the prior body is freed and then the record. -/
theorem freeIfRetired_priorFreed (current : (s.record h).current = some c)
    (retiring : (s.record h).state = .retiring) (unpinned : c.pins = 0) :
    let t := (s.priorFreed h b).freeIfRetired h
    t.record h = Record.empty ∧ t.free = s.free ++ b.blocks ++ c.blocks ∧
      t.raised .recordFreed = true ∧
      ∀ g, g ≠ h → t.record g = { s.record g with
        referrers := (s.record g).referrers - b.refs.count g - c.refs.count g } := by
  have same := record_priorFreed canonical b (h := h)
  have canonical' := canonical_priorFreed canonical b (h := h)
  have current' : ((s.priorFreed h b).record h).current = some c := by rw [same]; exact current
  have prior' : ((s.priorFreed h b).record h).prior = none := by rw [same]
  dsimp only
  rw [freeIfRetired_of_unpinned (by rw [same]; exact retiring)
    (by rw [pins_priorFreed canonical b current, unpinned])]
  refine ⟨record_freeRecord_same canonical' h, ?_, raised_raise_recordFreed _, fun g other => ?_⟩
  · have freed := freeRecord_free (s.priorFreed h b) h
    rw [current', prior', free_priorFreed] at freed
    exact freed.trans (List.append_nil _)
  · have freed := record_freeRecord_ne canonical' other current' prior'
    rw [record_priorFreed_ne canonical b other] at freed
    exact freed

end State

/-! ### The bytes of a completion (R127, R210) -/

/-- The bytes of a list of entries of one length, entry by entry. -/
theorem getD_flatten {m : Nat} {ls : List (List Byte)} (length : ∀ x ∈ ls, x.length = m) {j : Nat}
    (bound : j < m) : ∀ k, ls.flatten.getD (m * k + j) 0 = (ls.getD k []).getD j 0 := by
  induction ls with
  | nil => simp
  | cons x ls ih =>
    obtain ⟨here, later⟩ := List.forall_mem_cons.mp length
    intro k
    rw [List.flatten_cons]
    cases k with
    | zero => rw [List.getD_append _ _ _ _ (by omega), Nat.mul_zero, Nat.zero_add]; rfl
    | succ k =>
      rw [List.getD_append_right _ _ _ _ (by rw [here, Nat.mul_succ]; omega), here,
        show m * (k + 1) + j - m = m * k + j by rw [Nat.mul_succ]; omega, ih later]
      rfl

theorem length_packDigits (ds : List Nat) : (packDigits ds).length = (ds.length + 1) / 2 := by
  induction ds using packDigits.induct with
  | case1 => rfl
  | case2 a => simp [packDigits]
  | case3 a b rest ih =>
    rw [packDigits, List.length_cons, ih, List.length_cons, List.length_cons]
    omega

/-- R210: two digits to a byte, the first in the low half. -/
theorem digit_packDigits {ds : List Nat} (digits : ∀ d ∈ ds, d < 16) (j : Nat) :
    ((packDigits ds).getD (j / 2) 0).toNat / 16 ^ (j % 2) % 16 = ds.getD j 0 := by
  induction ds using packDigits.induct generalizing j with
  | case1 => simp [packDigits]
  | case2 a =>
    have ha := digits a (List.mem_cons_self ..)
    match j with
    | 0 =>
      simp only [packDigits, Nat.zero_div, Nat.zero_mod, pow_zero, List.getD_cons_zero, byte_toNat]
      omega
    | 1 =>
      simp only [packDigits, Nat.reduceDiv, Nat.reduceMod, pow_one, List.getD_cons_zero,
        List.getD_cons_succ, List.getD_nil, byte_toNat]
      omega
    | j + 2 => rw [show (j + 2) / 2 = j / 2 + 1 by omega]; simp [packDigits]
  | case3 a b rest ih =>
    obtain ⟨ha, hb, later⟩ : a < 16 ∧ b < 16 ∧ ∀ d ∈ rest, d < 16 := by simpa using digits
    match j with
    | 0 =>
      simp only [packDigits, Nat.zero_div, Nat.zero_mod, pow_zero, List.getD_cons_zero, byte_toNat]
      omega
    | 1 =>
      simp only [packDigits, Nat.reduceDiv, Nat.reduceMod, pow_one, List.getD_cons_zero,
        List.getD_cons_succ, byte_toNat]
      omega
    | j + 2 =>
      rw [show (j + 2) / 2 = j / 2 + 1 by omega, show (j + 2) % 2 = j % 2 by omega, packDigits,
        List.getD_cons_succ, ih later]
      rfl

/-- The digits of a drawn string (R210). -/
def drawnDigits (v : List Byte) : List Nat := v.map fun c => c.toNat % 16

section

variable {p : Nat × List Byte} (length : p.2.length ≤ 13)

include length

theorem length_packDigits_drawn : (packDigits (drawnDigits p.2)).length ≤ 7 := by
  rw [length_packDigits, drawnDigits, List.length_map]
  omega

theorem length_drawnEntry : (drawnEntry p).length = 9 := by
  have packed := length_packDigits_drawn length
  rw [drawnDigits] at packed
  simp only [drawnEntry, List.length_append, List.length_replicate, bytesLE, List.length_cons,
    List.length_nil]
  omega

omit length in
theorem getD_drawnEntry (j : Nat) :
    (drawnEntry p).getD (2 + j) 0 = (packDigits (drawnDigits p.2)).getD j 0 := by
  have pad (l : List Byte) (m j : Nat) : (l ++ List.replicate m 0).getD j 0 = l.getD j 0 := by
    by_cases inside : j < l.length
    · rw [List.getD_append _ _ _ _ inside]
    · rw [List.getD_append_right _ _ _ _ (by omega), List.getD_eq_default l _ (by omega),
        List.getD_eq_getElem?_getD, List.getElem?_getD_replicate_default_eq]
  rw [← pad _ (7 - (packDigits (drawnDigits p.2)).length) j, Nat.add_comm]
  rfl

theorem le16_drawnEntry : (((drawnEntry p).getD 0 0).toNat + 256 * ((drawnEntry p).getD 1 0).toNat)
    = p.1 % 1024 + 4096 * p.2.length := by
  refine (two_bytes (p.1 % 1024 + p.2.length * 4096)).trans ?_
  omega

omit length in
theorem digit_drawnEntry (j : Nat) : ((drawnEntry p).getD (2 + j / 2) 0).toNat / 16 ^ (j % 2) % 16
    = if j < p.2.length then (p.2.getD j 0).toNat % 16 else 0 := by
  rw [getD_drawnEntry, digit_packDigits (fun d hd => by
    obtain ⟨c, -, rfl⟩ := List.mem_map.mp hd
    exact Nat.mod_lt _ (by decide))]
  split
  · next inside => simp [drawnDigits, List.getD_eq_getElem?_getD, inside]
  · next outside => exact List.getD_eq_default _ _ (by simpa [drawnDigits] using outside)

end

/-- The fields of a label's completion, as Label.completion gives them (R127, R210). -/
def Label.completionFields (l : Label) (st : Status) : List CompletionField :=
  [ (17, [byte st.code]), (18, [l.warnings.byte]), (19, bytesLE 2 l.formVersion),
    (21, bytesLE 2 (l.elementCount.getD 0)), (23, (l.shifts.take 4).map shiftByte),
    (27, ((l.drawn.take 4).map drawnEntry).flatten) ]

namespace Label

variable (l : Label) (st : Status)

theorem getD_completion {j : Nat} (bound : j < 46) :
    (l.completion st).getD j 0 = fieldByte (l.completionFields st) (17 + j) := areaBytes_getD _ bound

theorem completion_head : (l.completion st).getD 0 0 = byte st.code ∧
    (l.completion st).getD 1 0 = l.warnings.byte ∧
    le16 (listReader (l.completion st)) 2 = l.formVersion % 65536 ∧
    le16 (listReader (l.completion st)) 4 = l.elementCount.getD 0 % 65536 := by
  simp only [le16, listReader, l.getD_completion st (show 0 < 46 by decide),
    l.getD_completion st (show 1 < 46 by decide), l.getD_completion st (show 2 < 46 by decide),
    l.getD_completion st (show 2 + 1 < 46 by decide), l.getD_completion st (show 4 < 46 by decide),
    l.getD_completion st (show 4 + 1 < 46 by decide)]
  exact ⟨rfl, rfl, two_bytes _, two_bytes _⟩

theorem completion_shift {k : Nat} (bound : k < 4) :
    (l.completion st).getD (6 + k) 0 = BitVec.ofInt 8 (l.shifts.getD k 0) := by
  rw [getD_completion _ _ (by omega), fieldByte_drop 4 (by simp [completionFields, bytesLE]; omega)]
  by_cases given : k < l.shifts.length
  · have inside : k < ((l.shifts.take 4).map shiftByte).length := by simp; omega
    rw [show 17 + (6 + k) = 23 + k by omega]
    refine (fieldByte_cons _ inside).trans ?_
    simp [List.getD_eq_getElem?_getD, given, bound, shiftByte]
  · have skip : fieldByte ((l.completionFields st).drop 4) (17 + (6 + k)) = 0 := by
      simp only [completionFields, List.drop_succ_cons, List.drop_zero, fieldByte]
      rw [if_neg (by simp; omega), if_neg (by omega)]
    rw [skip, List.getD_eq_default _ _ (by omega)]
    rfl

section

variable (drawn : ∀ p ∈ l.drawn, p.2.length ≤ 13)

include drawn

/-- The drawn values: an entry of 9 bytes for each, and 0 behind the last (R210). -/
theorem completion_drawn {k j : Nat} (hk : k < 4) (hj : j < 9) :
    (l.completion st).getD (10 + 9 * k + j) 0
      = (((l.drawn.take 4).map drawnEntry).getD k []).getD j 0 := by
  have entries : ∀ x ∈ (l.drawn.take 4).map drawnEntry, x.length = 9 := fun x hx => by
    obtain ⟨p, hp, rfl⟩ := List.mem_map.mp hx
    exact length_drawnEntry (drawn p (List.mem_of_mem_take hp))
  rw [getD_completion _ _ (by omega), fieldByte_drop 5 (by simp [completionFields, bytesLE]; omega),
    ← getD_flatten entries hj]
  by_cases inside : 9 * k + j < ((l.drawn.take 4).map drawnEntry).flatten.length
  · rw [show 17 + (10 + 9 * k + j) = 27 + (9 * k + j) by omega]
    exact fieldByte_cons _ inside
  · rw [List.getD_eq_default _ _ (by omega)]
    simp only [completionFields, List.drop_succ_cons, List.drop_zero, fieldByte]
    rw [if_neg (by omega)]

theorem completion_drawn_value {k h : Nat} {v : List Byte} (hk : k < 4)
    (value : l.drawn[k]? = some (h, v)) :
    le16 (listReader (l.completion st)) (10 + 9 * k) = h % 1024 + 4096 * v.length ∧
      ∀ j, j < 14 → ((l.completion st).getD (12 + 9 * k + j / 2) 0).toNat / 16 ^ (j % 2) % 16
        = if j < v.length then (v.getD j 0).toNat % 16 else 0 := by
  have length := drawn _ (List.mem_of_getElem? value)
  have entry : ((l.drawn.take 4).map drawnEntry).getD k [] = drawnEntry (h, v) := by
    simp [List.getD_eq_getElem?_getD, hk, value]
  have at_ {j : Nat} (hj : j < 9) := l.completion_drawn st drawn hk hj
  rw [entry] at at_
  refine ⟨?_, fun j hj => ?_⟩
  · rw [le16, listReader, listReader, ← Nat.add_zero (10 + 9 * k), at_ (by decide), Nat.add_zero,
      at_ (by decide), le16_drawnEntry length]
  · rw [show 12 + 9 * k + j / 2 = 10 + 9 * k + (2 + j / 2) by omega, at_ (by omega), digit_drawnEntry]

theorem completion_drawn_none {k j : Nat} (hk : k < 4) (none : l.drawn.length ≤ k) (hj : j < 9) :
    (l.completion st).getD (10 + 9 * k + j) 0 = 0 := by
  rw [completion_drawn l st drawn hk hj, List.getD_eq_default (n := k) _ _ (by simp; omega)]
  rfl

end

end Label

/-- Settles O46: the finish by the rules of the release of pins; the completion field by field. -/
theorem headFinishes : Obligations.HeadFinishes := by
  refine ⟨fun s n l rest st queue => ⟨?_, State.free_finishHead queue st, State.chan_finishHead queue st,
      (s.noWrite_finishHead n st).sameMemory, fun canonical h c current stays version =>
        State.current_finishHead queue st canonical ⟨current, stays⟩ version⟩,
    fun s n l rest st queue mark idle => ?_, fun s n => execMarkedHeadFinish_of_other,
    fun s h v c canonical current => ?_, fun l st b drawn completion => ?_, refusalCompletion_eq,
    ⟨rfl, rfl, rfl⟩⟩
  · rw [State.station_finishHead, queue]
    rfl
  · have event := execMarkedHeadFinish_of_marked queue mark idle
    refine ⟨event, _, event, ?_⟩
    rw [← State.chan_finishHead queue st]
    exact (State.settled_finishEvent _ _).pending
  · refine ⟨State.unpinCounter_eq_unpinBody current, ?_, ?_, ?_, ?_⟩
    · rintro stays rfl
      exact State.unpinBody_of_kept canonical current (.inl stays)
    · rintro b prior newer rfl
      have same := State.record_priorFreed canonical b (h := h)
      refine ⟨State.unpinBody_of_prior_kept current prior newer, fun last stays => ?_,
        fun last retiring unpinned => ?_, fun last retiring pinned => ?_⟩
      · rw [State.unpinBody_of_prior_last current prior newer last,
          State.freeIfRetired_of_kept (.inl (by rw [same]; exact stays)), same]
        exact ⟨rfl, current, State.free_priorFreed b,
          fun g other => State.record_priorFreed_ne canonical b other⟩
      · rw [State.unpinBody_of_prior_last current prior newer last]
        exact State.freeIfRetired_priorFreed canonical b current retiring unpinned
      · rw [State.unpinBody_of_prior_last current prior newer last, State.freeIfRetired_of_kept
          (.inr (by rw [State.pins_priorFreed canonical b current]; exact pinned)), same]
        exact ⟨retiring, rfl, current, rfl, State.free_priorFreed b, State.eventStatus_priorFreed b,
          fun g other => State.record_priorFreed_ne canonical b other⟩
    · rintro retiring rfl last unpinned
      have none : c.pins - 1 + bodyPins (s.record h).prior = 0 := by omega
      obtain ⟨empty, raised, free⟩ := State.unpinCounter_of_last canonical current retiring none
      rw [← State.unpinCounter_eq_unpinBody current]
      exact ⟨empty, free, raised, fun prior g other =>
        State.record_unpinCounter_of_last canonical current retiring none prior other⟩
    · rintro retiring rfl pinned
      exact State.unpinBody_of_kept canonical current (.inr pinned)
  · subst completion
    obtain ⟨code, warnings, version, count⟩ := l.completion_head st
    exact ⟨areaBytes_length .., code, warnings, version, count, fun k => l.completion_shift st,
      fun k h v => l.completion_drawn_value st drawn, fun k j => l.completion_drawn_none st drawn⟩

end Sys2Proof.Machine
end

section
/-! The Composer's choice and the draw of its label's counters (R79, R115, R116, R212). -/

namespace Sys2Proof.Machine

/-! ### The best of the stations (R115) -/

theorem StationNo.all_split (n : StationNo) : ∃ lower higher, StationNo.all = lower ++ n :: higher ∧
    (∀ m ∈ lower, m.toNat < n.toNat) ∧ ∀ m ∈ higher, n.toNat < m.toNat := by
  cases n with
  | s0 => exact ⟨[], [.s1, .s2, .s3], rfl, by decide, by decide⟩
  | s1 => exact ⟨[.s0], [.s2, .s3], rfl, by decide, by decide⟩
  | s2 => exact ⟨[.s0, .s1], [.s3], rfl, by decide, by decide⟩
  | s3 => exact ⟨[.s0, .s1, .s2], [], rfl, by decide, by decide⟩

section

variable {β : Type} {has : StationNo → Option β} {less : β → β → Prop} [DecidableRel less] {t : β}

/-- What the search has found so far gives way to a value. -/
def GivesWay (less : β → β → Prop) (t : β) (best : Option (StationNo × β)) : Prop :=
  ∀ p, best = some p → less t p.2

theorem givesWay_foldl {l : List StationNo} (worse : ∀ m ∈ l, ∀ u, has m = some u → less t u) :
    ∀ best, GivesWay less t best → GivesWay less t (l.foldl (bestStep has less) best) := by
  induction l with
  | nil => exact fun _ h => h
  | cons m l ih =>
    obtain ⟨here, later⟩ := List.forall_mem_cons.mp worse
    refine fun best h => ih later _ ?_
    cases found : has m with
    | none => rwa [bestStep_of_none has less found]
    | some u =>
      rcases bestStep_of_some has less found best with own | ⟨-, same⟩
      · rw [own]
        rintro _ ⟨⟩
        exact here u found
      · rwa [same]

theorem bestStep_of_givesWay {n : StationNo} (found : has n = some t) {best : Option (StationNo × β)}
    (h : GivesWay less t best) : bestStep has less best n = some (n, t) := by
  cases best with
  | none => simp only [bestStep, found]
  | some p => simp only [bestStep, found, if_pos (h p rfl)]

theorem foldl_bestStep_keeps {n : StationNo} {l : List StationNo}
    (worse : ∀ m ∈ l, ∀ u, has m = some u → ¬less u t) :
    l.foldl (bestStep has less) (some (n, t)) = some (n, t) := by
  induction l with
  | nil => rfl
  | cons m l ih =>
    obtain ⟨here, later⟩ := List.forall_mem_cons.mp worse
    rw [List.foldl_cons]
    cases found : has m with
    | none => rw [bestStep_of_none has less found, ih later]
    | some u => simp only [bestStep, found, if_neg (here u found), ih later]

/-- The search finds the station that beats those before it and is beaten by none behind it. -/
theorem foldl_bestStep_eq {n : StationNo} (found : has n = some t)
    (best : ∀ m u, has m = some u →
      (m.toNat < n.toNat → less t u) ∧ (n.toNat < m.toNat → ¬less u t)) :
    StationNo.all.foldl (bestStep has less) none = some (n, t) := by
  obtain ⟨lower, higher, split, before, behind⟩ := StationNo.all_split n
  rw [split, List.foldl_append, List.foldl_cons, bestStep_of_givesWay found (givesWay_foldl
    (fun m hm u hu => (best m u hu).1 (before m hm)) none nofun)]
  exact foldl_bestStep_keeps fun m hm u hu => (best m u hu).2 (behind m hm)

end

/-! ### Candidates and the pick (R115) -/

theorem Label.mayCompose_iff {l : Label} : l.mayCompose = true ↔ l.state = .accepted ∧ l.mark = none := by
  simp [Label.mayCompose]

theorem Station.candidate?_eq_some_iff {t : Station} {l : Label} : t.candidate? = some l ↔
    ∃ pre rest, t.queue = pre ++ l :: rest ∧ (l.state = .accepted ∧ l.mark = none) ∧
      ∀ x ∈ pre, ¬(x.state = .accepted ∧ x.mark = none) := by
  simp only [Station.candidate?, List.find?_eq_some_iff_append, Bool.not_eq_true',
    ← Bool.not_eq_true, Label.mayCompose_iff]
  exact ⟨fun ⟨may, pre, rest, queue, first⟩ => ⟨pre, rest, queue, may, first⟩,
    fun ⟨pre, rest, queue, may, first⟩ => ⟨may, pre, rest, queue, first⟩⟩

theorem Station.urgentTime?_eq_some_iff {t : Station} {u : Word} : t.urgentTime? = some u ↔
    ∃ l k e, t.candidate? = some l ∧ (t.eligible.findIdx fun x => x.ctx == l.ctx) = k ∧
      t.triggers[k]? = some e ∧ e.lastStart = some u := by
  unfold urgentTime?
  cases t.candidate? with
  | none => simp
  | some l => simp [pairedTrigger?, Option.bind_eq_some_iff]

namespace State

variable {s : State} {n : StationNo}

theorem composerPick?_of_urgent {t0 : Word} (urgent : (s.station n).urgentTime? = some t0)
    (first : ∀ m u, (s.station m).urgentTime? = some u →
      (m.toNat < n.toNat → t0 ≠ u ∧ (u - t0).toNat < 2 ^ 31) ∧
      (n.toNat < m.toNat → ¬(u ≠ t0 ∧ (t0 - u).toNat < 2 ^ 31))) :
    s.composerPick? = some n := by
  have earlier_iff (a b : Word) : earlier a b = true ↔ a ≠ b ∧ (b - a).toNat < 2 ^ 31 := by
    simp [earlier, atOrBefore]
  have found : s.urgentStation? = some n := by
    rw [urgentStation?_eq, foldl_bestStep_eq (n := n) urgent]
    · rfl
    · simp only [earlier_iff]
      exact first
  rw [composerPick?, found, Option.some_or]

theorem urgentStation?_of_none (unhurried : ∀ m, (s.station m).urgentTime? = none) :
    s.urgentStation? = none := by
  by_contra some
  obtain ⟨m, found⟩ := Option.ne_none_iff_exists'.mp some
  rw [urgentStation?_eq] at found
  obtain ⟨p, hp, rfl⟩ := Option.map_eq_some_iff.mp found
  obtain ⟨-, has⟩ := foldl_bestStep (fun n => (s.station n).urgentTime?)
    (fun t u => earlier t u = true) StationNo.all none
  exact (has p hp).resolve_left nofun (unhurried p.1)

theorem composerPick?_of_oldest {l : Label} (unhurried : ∀ m, (s.station m).urgentTime? = none)
    (candidate : (s.station n).candidate? = some l)
    (oldest : ∀ m x, (s.station m).candidate? = some x →
      (m.toNat < n.toNat → l.stamp.getD 0 < x.stamp.getD 0) ∧
      (n.toNat < m.toNat → l.stamp.getD 0 ≤ x.stamp.getD 0)) :
    s.composerPick? = some n := by
  have found : s.oldestStation? = some n := by
    rw [oldestStation?_eq, foldl_bestStep_eq (n := n) (t := l.stamp.getD 0) (by rw [candidate]; rfl)]
    · rfl
    · intro m u hu
      obtain ⟨x, hx, rfl⟩ := Option.map_eq_some_iff.mp hu
      exact ⟨(oldest m x hx).1, fun behind => Nat.not_lt.mpr ((oldest m x hx).2 behind)⟩
  rw [composerPick?, urgentStation?_of_none unhurried, found, Option.none_or]

/-! ### The label taken (R116) -/

/-- What is made of a candidate stands in its station's queue. -/
theorem mem_updCandidate {l : Label} (candidate : (s.station n).candidate? = some l) (f : Label → Label) :
    f l ∈ ((s.updCandidate n l.ctx f).station n).queue := by
  have may : l.mayCompose = true := List.find?_some candidate
  rw [updCandidate, updLabel, station_updStation]
  refine List.mem_map.mpr ⟨l, List.mem_of_find?_eq_some candidate, ?_⟩
  rw [if_pos rfl, if_pos may]

variable {l : Label}

/-- The state in which the Composer has taken a label whose counters it has drawn. -/
def drawnFor (s : State) (n : StationNo) (l : Label) : State :=
  { (s.drawAll l.counterPins).1.updCandidate n l.ctx fun l' =>
      { l' with state := .composing, drawn := (s.drawAll l.counterPins).2, counterPins := [] }
    with composer := some ⟨n, l.ctx, 0, 0⟩ }

theorem composerTake_of_fresh (fresh : ∀ h ∈ l.counterPins, s.exhausted h = false) :
    s.composerTake n l = s.drawnFor n l := by
  unfold composerTake
  rw [if_neg (by simpa using fresh)]
  rfl

theorem composerTake_of_exhausted {h : Nat} (pin : h ∈ l.counterPins) (exhausted : s.exhausted h = true) :
    s.composerTake n l = s.updCandidate n l.ctx fun l' =>
      { l' with state := .failed, failure := some .counterExhausted } := by
  unfold composerTake
  rw [if_pos (List.any_eq_true.mpr ⟨h, pin, exhausted⟩)]

theorem mem_drawnFor (candidate : (s.station n).candidate? = some l) :
    { l with state := .composing, counterPins := [], drawn := (s.drawAll l.counterPins).2 }
      ∈ ((s.drawnFor n l).station n).queue := by
  have drawn := (storeWork_drawAll l.counterPins s).station n
  exact mem_updCandidate (s := (s.drawAll l.counterPins).1) (by rw [drawn]; exact candidate) fun l' =>
    { l' with state := .composing, drawn := (s.drawAll l.counterPins).2, counterPins := [] }

/-! ### Round after round (R115, R116) -/

theorem composerChoose_of_pick (k : Nat) (idle : s.composer = none) (pick : s.composerPick? = some n)
    (candidate : (s.station n).candidate? = some l) :
    State.composerChoose (k + 1) s = State.composerChoose k (s.composerTake n l) := by
  simp only [composerChoose, idle, pick, candidate, Option.isSome_none, Bool.false_eq_true, if_false]

/-- Rounds beyond the number of candidates choose nothing more. -/
theorem composerChoose_enough (k : Nat) : ∀ (j : Nat) (s : State), s.candidates < k → s.candidates < j →
    State.composerChoose k s = State.composerChoose j s := by
  induction k with
  | zero => exact fun _ _ h => absurd h (Nat.not_lt_zero _)
  | succ k ih =>
    intro j s hk hj
    cases j with
    | zero => exact absurd hj (Nat.not_lt_zero _)
    | succ j =>
      unfold composerChoose
      split
      · rfl
      split
      · rfl
      split
      · rfl
      · next candidate =>
        have fewer := candidates_composerTake candidate
        exact ih j _ (by omega) (by omega)

theorem chooseLabels_of_pick (idle : s.composer = none) (pick : s.composerPick? = some n)
    (candidate : (s.station n).candidate? = some l) :
    s.chooseLabels = (s.composerTake n l).chooseLabels := by
  have fewer := candidates_composerTake candidate
  have rounds := s.candidates_lt_choiceRounds
  refine (composerChoose_of_pick _ idle pick candidate).trans (composerChoose_enough _ _ _ ?_
    (s.composerTake n l).candidates_lt_choiceRounds)
  rw [choiceRounds] at rounds
  omega

/-- A label whose counters are not exhausted ends the choice. -/
theorem chooseLabels_of_fresh (idle : s.composer = none) (pick : s.composerPick? = some n)
    (candidate : (s.station n).candidate? = some l)
    (fresh : ∀ h ∈ l.counterPins, s.exhausted h = false) : s.chooseLabels = s.drawnFor n l := by
  rw [chooseLabels_of_pick idle pick candidate, composerTake_of_fresh fresh]
  exact composerChoose_self _ (.inl rfl)

end State

/-- Settles O42: the search over the stations, then the rounds of the choice one by one. -/
theorem composerChooses : Obligations.ComposerChooses := by
  refine ⟨fun t l => Station.candidate?_eq_some_iff, fun t u => Station.urgentTime?_eq_some_iff,
    fun s n t0 => State.composerPick?_of_urgent, fun s n l => State.composerPick?_of_oldest,
    fun s none => State.composerChoose_self _ (none.imp_right State.composerPick?_eq_none_iff.mpr),
    fun s n l idle pick candidate => ⟨fun fresh => ?_, fun h pin exhausted => ?_⟩,
    fun s h hs => ⟨rfl, rfl, rfl⟩, fun s n l => State.chooseLabels_of_pick, fun s h => beq_iff_eq⟩
  · rw [State.chooseLabels_of_fresh idle pick candidate fresh]
    exact ⟨rfl, State.mem_drawnFor candidate, rfl, rfl⟩
  · rw [State.composerTake_of_exhausted pin exhausted]
    exact ⟨idle, rfl, (s.noWrite_updStation n _).sameMemory, State.mem_updCandidate candidate fun l' =>
      { l' with state := .failed, failure := some .counterExhausted }⟩

end Sys2Proof.Machine
end

section
/-! The Composer's steps on its label in hand: where the entries of a field stand, the sort, and the end of a marked
label (R37, R117 to R125). -/

namespace Sys2Proof.Machine

/-! ### Element entries in record memory (R36, R37, R122) -/

namespace State

variable {s t u : State} {a : Nat}

/-- What stands at an address of record memory is the same. -/
structure SameAt (s t : State) (a : Nat) : Prop where
  memory : t.memory.read a = s.memory.read a
  elements : sparseGet none t.elements a = sparseGet none s.elements a

theorem SameAt.refl (s : State) (a : Nat) : s.SameAt s a := ⟨rfl, rfl⟩

theorem SameAt.trans (h : s.SameAt t a) (k : t.SameAt u a) : s.SameAt u a :=
  ⟨k.memory.trans h.memory, k.elements.trans h.elements⟩

theorem SameAt.readByte (h : s.SameAt t a) : t.readByte a = s.readByte a := by
  simp only [State.readByte, h.memory, h.elements]

variable {blocks : List Nat} {e : Nat}

theorem entryAddress?_eq (blocks : List Nat) (e : Nat) :
    entryAddress? blocks e = (blocks[e / 16]?).map fun b => 256 * b + 16 * (e % 16) := by
  simp only [entryAddress?, entriesPerBlock, blockAddress, Config.blockBytes, Nat.mul_comm]

theorem entryAt?_of_address (address : entryAddress? blocks e = some a) :
    s.entryAt? blocks e = (sparseGet none s.elements a).map fun b => b.entry := by
  simp only [entryAt?, address]

theorem entryAddress?_of_lt (inside : e < 16 * blocks.length) :
    ∃ a, entryAddress? blocks e = some a := by
  rw [entryAddress?_eq, List.getElem?_eq_getElem (by omega)]
  exact ⟨_, rfl⟩

/-- Two entries of the same element blocks have no byte in common. -/
theorem entryAddress?_apart (nodup : blocks.Nodup) {e' b : Nat} (other : e ≠ e')
    (here : entryAddress? blocks e = some a) (there : entryAddress? blocks e' = some b) :
    a + 16 ≤ b ∨ b + 16 ≤ a := by
  rw [entryAddress?_eq] at here there
  obtain ⟨x, hx, rfl⟩ := Option.map_eq_some_iff.mp here
  obtain ⟨y, hy, rfl⟩ := Option.map_eq_some_iff.mp there
  by_cases same : e / 16 = e' / 16
  · rw [same] at hx
    cases hx.symm.trans hy
    omega
  · obtain ⟨-, rfl⟩ := List.getElem?_eq_some_iff.mp hx
    obtain ⟨-, rfl⟩ := List.getElem?_eq_some_iff.mp hy
    have distinct : blocks[e / 16] ≠ blocks[e' / 16] := fun equal =>
      same ((List.Nodup.getElem_inj_iff nodup).mp equal)
    omega

theorem sameAt_writeEntryFrom (x : Element) (k : Nat) : ∀ (s : State) (j : Nat) {y : Nat},
    (y < a + j ∨ a + j + k ≤ y) → s.SameAt (s.writeEntryFrom a x k j) y := by
  induction k with
  | zero => exact fun s _ _ _ => .refl s _
  | succ k ih =>
    intro s j y outside
    have apart : y ≠ a + j := by omega
    have written : s.SameAt { s with
        memory := s.memory.write (a + j) unwrittenByte,
        elements := sparseSet none s.elements (a + j) (some ⟨x, j⟩) } y :=
      ⟨Memory.read_write_ne s.memory unwrittenByte apart, sparseGet_set_ne none s.elements (some ⟨x, j⟩) apart⟩
    exact written.trans (ih _ (j + 1) (by omega))

theorem elements_writeEntryFrom (s : State) (a : Nat) (x : Element) (k : Nat) :
    sparseGet none (s.writeEntryFrom a x (k + 1) 0).elements a = some ⟨x, 0⟩ := by
  rw [writeEntryFrom, (sameAt_writeEntryFrom x k _ 1 (.inl (Nat.lt_succ_self a))).elements]
  exact sparseGet_set_same_of_ne none s.elements (a + 0) (v := some ⟨x, 0⟩) (by simp)

theorem sameAt_writeEntry (s : State) (x : Element)
    (outside : ∀ b, entryAddress? blocks e = some b → a < b ∨ b + 16 ≤ a) :
    s.SameAt (s.writeEntry blocks e x) a := by
  unfold writeEntry
  split
  · next b address => exact sameAt_writeEntryFrom x 16 s 0 (outside b address)
  · exact .refl s a

theorem entryAt?_writeEntry (s : State) (x : Element) (inside : e < 16 * blocks.length) :
    (s.writeEntry blocks e x).entryAt? blocks e = some x := by
  obtain ⟨a, address⟩ := entryAddress?_of_lt inside
  rw [entryAt?_of_address address]
  simp only [writeEntry, address, elements_writeEntryFrom s a x 15, Option.map_some]

theorem sameAt_writeEntries (xs : List Element) : ∀ (s : State) (k : Nat),
    (∀ e, e < xs.length → ∀ b, entryAddress? blocks (k + e) = some b → a < b ∨ b + 16 ≤ a) →
    s.SameAt (s.writeEntries blocks k xs) a := by
  induction xs with
  | nil => exact fun s _ _ => .refl s a
  | cons x xs ih =>
    intro s k outside
    refine (sameAt_writeEntry s x (outside 0 (Nat.zero_lt_succ _))).trans (ih _ (k + 1) fun e he => ?_)
    rw [Nat.add_assoc, Nat.add_comm 1]
    exact outside (e + 1) (Nat.succ_lt_succ he)

/-- Each entry stands at its place. -/
theorem entryAt?_writeEntries (nodup : blocks.Nodup) (xs : List Element) : ∀ (s : State) (k : Nat),
    k + xs.length ≤ 16 * blocks.length → ∀ e, e < xs.length →
      (s.writeEntries blocks k xs).entryAt? blocks (k + e) = xs[e]? := by
  induction xs with
  | nil => exact fun _ _ _ _ h => absurd h (Nat.not_lt_zero _)
  | cons x xs ih =>
    intro s k room e he
    rw [List.length_cons] at room he
    cases e with
    | zero =>
      have here := entryAt?_writeEntry s x (blocks := blocks) (e := k) (by omega)
      obtain ⟨a, address⟩ := entryAddress?_of_lt (blocks := blocks) (e := k) (by omega)
      have later := sameAt_writeEntries (a := a) xs (s.writeEntry blocks k x) (k + 1)
        fun e _ b there => by
          have apart := entryAddress?_apart nodup (by omega) address there
          omega
      rw [entryAt?_of_address address] at here
      rw [Nat.add_zero, entryAt?_of_address address, writeEntries, later.elements, here]
      rfl
    | succ e =>
      rw [writeEntries, Nat.add_comm e, ← Nat.add_assoc, ih _ (k + 1) (by omega) e (by omega),
        Nat.add_comm 1, List.getElem?_cons_succ]

theorem writeEntryFrom_rest (a : Nat) (x : Element) (k : Nat) : ∀ (s : State) (j : Nat),
    ∃ memory elements, s.writeEntryFrom a x k j = { s with memory := memory, elements := elements } := by
  induction k with
  | zero => exact fun s _ => ⟨s.memory, s.elements, rfl⟩
  | succ k ih =>
    intro s j
    obtain ⟨_, _, e⟩ := ih { s with
      memory := s.memory.write (a + j) unwrittenByte,
      elements := sparseSet none s.elements (a + j) (some ⟨x, j⟩) } (j + 1)
    exact ⟨_, _, e⟩

theorem writeEntries_rest (blocks : List Nat) (xs : List Element) : ∀ (s : State) (k : Nat),
    ∃ memory elements, s.writeEntries blocks k xs = { s with memory := memory, elements := elements } := by
  induction xs with
  | nil => exact fun s _ => ⟨s.memory, s.elements, rfl⟩
  | cons x xs ih =>
    intro s k
    obtain ⟨_, _, tail⟩ := ih (s.writeEntry blocks k x) (k + 1)
    have head : ∃ memory elements,
        s.writeEntry blocks k x = { s with memory := memory, elements := elements } := by
      unfold writeEntry
      split
      · exact writeEntryFrom_rest _ x 16 s 0
      · exact ⟨s.memory, s.elements, rfl⟩
    obtain ⟨_, _, head⟩ := head
    rw [writeEntries, tail, head]
    exact ⟨_, _, rfl⟩

theorem entries_eq {xs : List Element} {k : Nat} (length : xs.length = k)
    (each : ∀ e, e < k → s.entryAt? blocks e = xs[e]?) : s.entries blocks k = xs := by
  have all (xs : List Element) : ((List.range xs.length).filterMap fun e => xs[e]?) = xs := by
    induction xs with
    | nil => rfl
    | cons x xs ih =>
      rw [List.length_cons, List.range_succ_eq_map, List.filterMap_cons, List.filterMap_map]
      exact congrArg (x :: ·) ih
  subst length
  rw [entries, List.filterMap_congr fun e he => each e (List.mem_range.mp he), all]

end State

/-! ### The sort (R123) -/

theorem elementBefore_iff {a b : Element} :
    elementBefore a b = true ↔ a.top < b.top ∨ (a.top = b.top ∧ a.left < b.left) := by
  simp [elementBefore]

theorem elementBefore_eq_false_iff {a b : Element} :
    elementBefore a b = false ↔ b.top < a.top ∨ (b.top = a.top ∧ b.left ≤ a.left) := by
  rw [← Bool.not_eq_true, elementBefore_iff]
  omega

theorem insertElement_perm (x : Element) (ys : List Element) : (insertElement x ys).Perm (x :: ys) := by
  induction ys with
  | nil => exact .refl _
  | cons y ys ih =>
    unfold insertElement
    split
    · exact (ih.cons y).trans (.swap x y ys)
    · exact .refl _

theorem sortElements_perm (xs : List Element) : (sortElements xs).Perm xs := by
  induction xs with
  | nil => exact .refl _
  | cons x xs ih => exact (insertElement_perm x _).trans (ih.cons x)

theorem insertElement_sorted (x : Element) {ys : List Element}
    (sorted : ys.Pairwise fun a b => elementBefore b a = false) :
    (insertElement x ys).Pairwise fun a b => elementBefore b a = false := by
  induction ys with
  | nil => exact List.pairwise_singleton ..
  | cons y ys ih =>
    obtain ⟨first, rest⟩ := List.pairwise_cons.mp sorted
    unfold insertElement
    split
    · next before =>
      refine List.pairwise_cons.mpr ⟨fun z hz => ?_, ih rest⟩
      rcases List.mem_cons.mp ((insertElement_perm x ys).subset hz) with rfl | later
      · rw [elementBefore_iff] at before
        rw [elementBefore_eq_false_iff]
        omega
      · exact first z later
    · next behind =>
      rw [Bool.not_eq_true] at behind
      refine List.pairwise_cons.mpr ⟨fun z hz => ?_, sorted⟩
      rcases List.mem_cons.mp hz with rfl | later
      · exact behind
      · have order := first z later
        rw [elementBefore_eq_false_iff] at order behind ⊢
        omega

theorem sortElements_sorted (xs : List Element) :
    (sortElements xs).Pairwise fun a b => elementBefore b a = false := by
  induction xs with
  | nil => exact .nil
  | cons x xs ih => exact insertElement_sorted x ih

/-- An entry is inserted before all that equal it. -/
theorem filter_insertElement (top left : Nat) (x : Element) (ys : List Element) :
    ((insertElement x ys).filter fun z => z.top == top && z.left == left)
      = (x :: ys).filter fun z => z.top == top && z.left == left := by
  induction ys with
  | nil => rfl
  | cons y ys ih =>
    unfold insertElement
    split
    · next before =>
      rw [elementBefore_iff] at before
      have apart : ¬((x.top = top ∧ x.left = left) ∧ (y.top = top ∧ y.left = left)) := by omega
      rw [List.filter_cons, ih]
      simp only [List.filter_cons, Bool.and_eq_true, beq_iff_eq]
      split
      · next hy => rw [if_neg fun hx => apart ⟨hx, hy⟩, if_neg fun hx => apart ⟨hx, hy⟩]
      · rfl
    · rfl

theorem sortElements_stable (top left : Nat) (xs : List Element) :
    ((sortElements xs).filter fun z => z.top == top && z.left == left)
      = xs.filter fun z => z.top == top && z.left == left := by
  induction xs with
  | nil => rfl
  | cons x xs ih =>
    rw [sortElements, filter_insertElement, List.filter_cons, List.filter_cons, ih]

/-! ### The label in hand (R114) -/

theorem Station.label?_eq_some_iff {t : Station} {ctx : Nat} {l : Label} : t.label? ctx = some l ↔
    ∃ pre rest, t.queue = pre ++ l :: rest ∧ l.ctx = ctx ∧ ∀ x ∈ pre, x.ctx ≠ ctx := by
  simp only [Station.label?, List.find?_eq_some_iff_append, beq_iff_eq, Bool.not_eq_true',
    beq_eq_false_iff_ne]
  exact ⟨fun ⟨here, pre, rest, queue, first⟩ => ⟨pre, rest, queue, here, first⟩,
    fun ⟨pre, rest, queue, here, first⟩ => ⟨here, pre, rest, queue, first⟩⟩

theorem State.inHand?_eq_some_iff {s : State} {j : Job} {l : Label} : s.inHand? = some (j, l) ↔
    s.composer = some j ∧ (s.station j.station).label? j.ctx = some l := by
  unfold inHand?
  cases s.composer with
  | none => simp
  | some i =>
    simp only [Option.map_eq_some_iff, Prod.mk.injEq, Option.some.injEq]
    constructor
    · rintro ⟨_, label, rfl, rfl⟩
      exact ⟨rfl, label⟩
    · rintro ⟨rfl, label⟩
      exact ⟨l, label, rfl, rfl⟩

/-- The labels of a context number changed, those of a queue. -/
def relabel (ctx : Nat) (f : Label → Label) (l : Label) : Label := if l.ctx = ctx then f l else l

theorem Station.label?_relabel {t u : Station} {ctx : Nat} {f : Label → Label}
    (queue : u.queue = t.queue.map (relabel ctx f)) (number : ∀ l, (f l).ctx = l.ctx) :
    u.label? ctx = (t.label? ctx).map f := by
  have same (l : Label) : (relabel ctx f l).ctx = l.ctx := by
    unfold relabel
    split
    · exact number l
    · rfl
  simp only [Station.label?, queue, List.find?_map, Function.comp_def, same]
  cases found : t.queue.find? fun l => l.ctx == ctx with
  | none => rfl
  | some l => simp [relabel, show l.ctx = ctx by simpa using List.find?_some found]

/-! ### A queue whose labels keep their states and marks leaves the lanes at rest -/

theorem Station.rests_map {t : Station} {g : Label → Label} (state : ∀ l, (g l).state = l.state)
    (mark : ∀ l, (g l).mark = l.mark) (r : t.Rests) :
    Station.Rests { t with queue := t.queue.map g } := by
  have eligible : Label.eligible ∘ g = Label.eligible :=
    funext fun l => by simp only [Function.comp_apply, Label.eligible, state, mark]
  refine ⟨r.paired.of_drop (j := 0) rfl (le_of_eq ?_), fun l head => ?_, ?_⟩
  · simp only [Station.eligible, List.filter_map, List.length_map, eligible, add_zero]
  · rw [List.head?_map] at head
    obtain ⟨x, hx, rfl⟩ := Option.map_eq_some_iff.mp head
    rw [state, mark]
    exact r.waits x hx
  · simp only [Station.Parks, List.map_eq_nil_iff]
    exact r.parks

/-- The Composer's work on a label that keeps its state and mark leaves nothing to do at the stations. -/
theorem State.quiet_updLabel {s : State} {n : StationNo} {ctx : Nat} {f : Label → Label} {j : Job}
    (quiet : s.quiet = true) (state : ∀ l, (f l).state = l.state)
    (mark : ∀ l, (f l).mark = l.mark) :
    State.quiet { s.updLabel n ctx f with composer := some j } = true := by
  obtain ⟨rests, -, served⟩ := quiet_iff_rests.mp quiet
  have state' (l : Label) : (relabel ctx f l).state = l.state := by
    unfold relabel
    split
    · exact state l
    · rfl
  have mark' (l : Label) : (relabel ctx f l).mark = l.mark := by
    unfold relabel
    split
    · exact mark l
    · rfl
  have station (m : StationNo) : (s.updLabel n ctx f).station m =
      if m = n then { s.station m with queue := (s.station m).queue.map (relabel ctx f) }
      else s.station m := by
    split
    · next e =>
      subst e
      exact station_updStation ..
    · next e => exact station_updStation_ne s _ e
  refine quiet_iff_rests.mpr ⟨fun m => ?_, .inl rfl, served.imp_right fun away m asked => ?_⟩
  · show ((s.updLabel n ctx f).station m).Rests
    rw [station]
    split
    · exact Station.rests_map state' mark' (rests m)
    · exact rests m
  · show ((s.updLabel n ctx f).station m).state.checkable = false
    rw [station]
    split <;> exact away m asked

/-! ### The field step (R117, R119, R122) -/

theorem ceilDiv_256 (x : Nat) : ceilDiv x 256 = (x + 255) / 256 := by
  rw [ceilDiv, Nat.add_sub_assoc (by decide)]

theorem Label.elementBlocks_eq (l : Label) :
    l.elementBlocks = l.reservation.drop ((l.dataLength + 255) / 256) := by
  rw [elementBlocks, ceilDiv_256]

theorem State.missingBlock?_of_card {s : State} {blocks : List Nat} (card : ∀ x ∈ blocks, x < s.total) :
    s.missingBlock? blocks = none := by
  rw [missingBlock?, List.find?_eq_none]
  exact fun x hx => by simpa using card x hx

theorem barcodesBefore_eq (rd : Reader) (i : Nat) :
    barcodesBefore rd i = ((formFields rd).take i).countP fun f => f.kind == some .barcode :=
  List.countP_eq_length_filter.symm

section

variable {s : State} {j : Job} {l : Label} (hand : s.inHand? = some (j, l))

include hand

section

variable (unmarked : l.mark = none)

include unmarked

section

variable (more : j.nextField < s.fieldCount l)

include more

theorem execComposerFieldStep_of_placed {es : List Element} {w : Warnings} {shift : Option Int}
    (placed : s.layField j.station l j.nextField = .placed es w shift)
    (card : ∀ x ∈ l.elementBlocks, x < s.total) :
    exec .composerFieldStep s = .next (s.placeField j l es w shift).finishEvent := by
  show execComposerFieldStep s = _
  simp only [execComposerFieldStep, hand, if_neg (Nat.not_le.mpr more), unmarked, placed,
    State.missingBlock?_of_card card]

theorem execComposerFieldStep_of_rejected (rejected : s.layField j.station l j.nextField = .rejected) :
    exec .composerFieldStep s = .next (s.rejectField j).finishEvent := by
  show execComposerFieldStep s = _
  simp only [execComposerFieldStep, hand, if_neg (Nat.not_le.mpr more), unmarked, rejected]

end

theorem execComposerComplete_of_last (last : s.fieldCount l ≤ j.nextField)
    (card : ∀ x ∈ l.elementBlocks, x < s.total) :
    exec .composerComplete s = .next (s.completeLabel j l).finishEvent := by
  show execComposerComplete s = _
  simp only [execComposerComplete, hand, if_neg (Nat.not_lt.mpr last), unmarked,
    State.missingBlock?_of_card card]

end

theorem exec_of_marked {st : Status} {c : Instr} (mark : l.mark = some st)
    (step : (c = .composerFieldStep ∧ j.nextField < s.fieldCount l) ∨
      (c = .composerComplete ∧ s.fieldCount l ≤ j.nextField)) :
    exec c s = .next (s.endMarked j st).finishEvent := by
  rcases step with ⟨rfl, more⟩ | ⟨rfl, last⟩
  · show execComposerFieldStep s = _
    simp only [execComposerFieldStep, hand, if_neg (Nat.not_le.mpr more), mark]
  · show execComposerComplete s = _
    simp only [execComposerComplete, hand, if_neg (Nat.not_lt.mpr last), mark]

/-- The label in hand with a field's warnings and shift recorded (R117, R119). -/
theorem State.label?_placeField (es : List Element) (w : Warnings) (shift : Option Int) :
    ((s.placeField j l es w shift).station j.station).label? j.ctx = some { l with
      warnings := l.warnings.or w,
      shifts := l.withShift (s.formContent l) j.nextField shift } := by
  obtain ⟨-, label⟩ := inHand?_eq_some_iff.mp hand
  obtain ⟨_, _, written⟩ := writeEntries_rest l.elementBlocks es s j.entries
  have station : (s.placeField j l es w shift).station j.station =
      ((s.writeEntries l.elementBlocks j.entries es).updLabel j.station j.ctx fun l' =>
        { l' with warnings := l'.warnings.or w,
                  shifts := l.withShift (s.formContent l) j.nextField shift }).station j.station := rfl
  have queue : ((s.placeField j l es w shift).station j.station).queue =
      (s.station j.station).queue.map (relabel j.ctx fun l' =>
        { l' with warnings := l'.warnings.or w,
                  shifts := l.withShift (s.formContent l) j.nextField shift }) := by
    rw [station, updLabel, station_updStation, written]
    rfl
  rw [Station.label?_relabel queue fun _ => rfl, label]
  rfl

theorem State.quiet_placeField (quiet : s.quiet = true) (es : List Element) (w : Warnings)
    (shift : Option Int) : (s.placeField j l es w shift).quiet = true := by
  obtain ⟨composer, -⟩ := inHand?_eq_some_iff.mp hand
  obtain ⟨_, _, written⟩ := writeEntries_rest l.elementBlocks es s j.entries
  have wrote : (s.writeEntries l.elementBlocks j.entries es).quiet = true :=
    quiet_of_same quiet (by rw [written]; exact .refl s) (by rw [written]; exact ⟨rfl, rfl, rfl⟩)
  exact quiet_updLabel wrote (fun _ => rfl) fun _ => rfl

end

/-! ### The end of a marked label (R125) -/

/-- The label whose composition ends with a mark (R125). -/
def Label.ended (ctx : Nat) (st : Status) : Label → Label := relabel ctx fun l =>
  { l with state := .failed, failure := some st, warnings := Warnings.none,
           shifts := l.shifts.map fun _ => 0 }

namespace State

/-- The state in which a marked label has just failed and the Composer is IDLE. -/
def failMarked (s : State) (j : Job) (st : Status) : State :=
  { s with
    composer := none
    stations := s.stations.set j.station { s.station j.station with
      queue := (s.station j.station).queue.map (Label.ended j.ctx st) } }

variable (s : State) (j : Job) (st : Status)

theorem endMarked_eq : s.endMarked j st =
    if ((s.station j.station).queue.head?.map fun h => h.ctx) = some j.ctx then
      (s.failMarked j st).finishHead j.station st
    else s.failMarked j st := rfl

theorem station_failMarked : (s.failMarked j st).station j.station = { s.station j.station with
    queue := (s.station j.station).queue.map (Label.ended j.ctx st) } := Four.get_set_same ..

theorem laneWork_endMarked : (s.failMarked j st).LaneWork j.station (s.endMarked j st) := by
  rw [endMarked_eq]
  split
  · exact laneWork_finishHead ..
  · exact .refl _

theorem sameMemory_endMarked : s.SameMemory (s.endMarked j st) := by
  have failed : s.NoWrite (s.failMarked j st) := ⟨rfl, rfl, rfl⟩
  rw [endMarked_eq]
  split
  · exact (failed.trans (noWrite_finishHead ..)).sameMemory
  · exact failed.sameMemory

variable {s j}

theorem endMarked_of_waiting (waiting : ∀ l rest, (s.station j.station).queue = l :: rest → l.ctx ≠ j.ctx) :
    s.endMarked j st = s.failMarked j st := by
  rw [endMarked_eq, if_neg]
  cases queue : (s.station j.station).queue with
  | nil => simp
  | cons l rest => simpa using waiting l rest queue

section

variable {l : Label} {rest : List Label} (queue : (s.station j.station).queue = l :: rest)
  (here : l.ctx = j.ctx)

include queue

theorem queue_failMarked : ((s.failMarked j st).station j.station).queue =
    Label.ended j.ctx st l :: rest.map (Label.ended j.ctx st) := by
  rw [station_failMarked, queue, List.map_cons]

include here

theorem endMarked_of_head : s.endMarked j st = (s.failMarked j st).finishHead j.station st := by
  rw [endMarked_eq, if_pos (by rw [queue, List.head?_cons, Option.map_some, here])]

theorem station_endMarked_of_head : (s.endMarked j st).station j.station =
    { s.station j.station with queue := rest.map (Label.ended j.ctx st) } := by
  rw [endMarked_of_head st queue here, station_finishHead, queue_failMarked st queue,
    station_failMarked, List.tail_cons]

theorem chan_endMarked_of_head :
    ((s.endMarked j st).chan (.station j.station)).pendingCompletions
      = (s.chan (.station j.station)).pendingCompletions ++
        [⟨l.index, (Label.ended j.ctx st l).completion st⟩] := by
  rw [endMarked_of_head st queue here, chan_finishHead (queue_failMarked st queue), Label.ended,
    relabel, if_pos here]
  rfl

theorem free_endMarked_of_head : (s.free ++ l.reservation) <+: (s.endMarked j st).free := by
  have freed := free_finishHead (queue_failMarked st queue) st
  rw [endMarked_of_head st queue here]
  rwa [Label.ended, relabel, if_pos here] at freed

end

end State

/-- Settles O43: each step's answer, its label found again in the queue, and its entries at their places. -/
theorem composerSteps : Obligations.ComposerSteps := by
  refine ⟨fun s j l es w shift quiet canonical hand unmarked more placed card nodup room => ?_,
    fun s j l hand unmarked more rejected =>
      execComposerFieldStep_of_rejected hand unmarked more rejected,
    fun s j l hand unmarked last card => execComposerComplete_of_last hand unmarked last card,
    fun s j l st c hand mark step => ⟨exec_of_marked hand mark step, fun rest queue => ?_⟩,
    fun s j st => ⟨?_, State.sameMemory_endMarked s j st, fun n other => ?_, fun waiting => ?_,
      fun l rest queue here => ⟨State.station_endMarked_of_head st queue here,
        State.chan_endMarked_of_head st queue here, State.free_endMarked_of_head st queue here⟩⟩,
    fun xs => ⟨sortElements_perm xs, sortElements_sorted xs,
      fun top left => sortElements_stable top left xs⟩,
    fun a b => elementBefore_iff, fun s j l => State.inHand?_eq_some_iff,
    fun t ctx l => Station.label?_eq_some_iff, fun s n ctx f => rfl, Label.elementBlocks_eq,
    State.entryAddress?_eq, fun s blocks k xs length each => State.entries_eq length each,
    fun s blocks k xs canonical nodup room => ?_⟩
  · obtain ⟨m, e, written⟩ := State.writeEntries_rest l.elementBlocks es s j.entries
    have rest : s.placeField j l es w shift = { s with
        memory := (s.writeEntries l.elementBlocks j.entries es).memory
        elements := (s.writeEntries l.elementBlocks j.entries es).elements
        composer := (s.placeField j l es w shift).composer
        stations := (s.placeField j l es w shift).stations } := by
      unfold State.placeField
      rw [written]
      rfl
    have work := State.chanWork_settleBus (s.placeField j l es w shift)
    obtain ⟨-, composer, -⟩ := work.sameLanes
    obtain ⟨table, free, -, elements⟩ := work.sameRecords
    obtain ⟨events, clock, pending⟩ := work.sameEvents
    refine ⟨_, execComposerFieldStep_of_placed hand unmarked more placed card, ?_⟩
    have label := State.label?_placeField hand es w shift
    rw [← work.station] at label
    rw [State.finishEvent_of_quiet (State.quiet_placeField hand quiet es w shift)]
    refine ⟨composer, ⟨events.trans ?_, clock.trans ?_, pending.trans ?_⟩, table.trans ?_, free.trans ?_,
      fun e he => ?_, fun a outside => ?_, _, label, rfl, rfl, ?_, ?_⟩
    · rw [rest]
    · rw [rest]
    · rw [rest]
    · rw [rest]
    · rw [rest]
    · rw [← State.entryAt?_writeEntries nodup es s j.entries room e he]
      simp only [State.entryAt?, elements]
      rfl
    · rw [work.sameMemory]
      exact (State.sameAt_writeEntries es s j.entries outside).readByte
    · rintro rfl
      rfl
    · rintro x rfl
      rw [← barcodesBefore_eq]
      rfl
  · obtain ⟨-, label⟩ := State.inHand?_eq_some_iff.mp hand
    have here : l.ctx = j.ctx := by simpa using List.find?_some label
    have pending := (State.settled_finishEvent (s.endMarked j st) (.station j.station)).pending
    rw [State.chan_endMarked_of_head st queue here] at pending
    rwa [Label.ended, relabel, if_pos here] at pending
  · exact (State.laneWork_endMarked s j st).composer
  · rw [(State.laneWork_endMarked s j st).others n other]
    exact Four.get_set_ne _ _ other
  · rw [State.endMarked_of_waiting st waiting]
    exact ⟨rfl, State.station_failMarked s j st⟩
  · obtain ⟨m, e, written⟩ := State.writeEntries_rest blocks xs s k
    exact ⟨by rw [written], State.entryAt?_writeEntries nodup xs s k room,
      fun a outside => (State.sameAt_writeEntries xs s k outside).readByte⟩

end Sys2Proof.Machine
end

section
/-! The join of a label (R111, R112), and what the end of an event leaves of the stations, of the acceptance stamps
and of record memory. -/

namespace Sys2Proof.Machine

/-! ### The station a label joins -/

/-- The label as it stands at the tail of its queue (R111). -/
def Label.joined (l : Label) (stamp : Nat) : Label := { l with state := .accepted, stamp := some stamp }

/-- The station with a label joined, which wakes it out of PARKED (R111, R112). -/
def Station.joined (t : Station) (l : Label) (stamp : Nat) (clock : Word) : Station :=
  let u := { t with queue := t.queue ++ [l.joined stamp], fetching := none, parkTimer := none }
  if t.state = .parked then { u.enter .waking clock with wakeCause := .label } else u

namespace Station

variable (t : Station) (l : Label) (stamp : Nat) (clock : Word)

theorem joined_eq : ((t.joined l stamp clock).queue = t.queue ++ [l.joined stamp] ∧
    (t.joined l stamp clock).triggers = t.triggers ∧ (t.joined l stamp clock).fetching = none) ∧
    (t.joined l stamp clock).profile = t.profile ∧ (t.joined l stamp clock).parkTimer = none := by
  unfold joined
  dsimp only
  split <;> exact ⟨⟨rfl, rfl, rfl⟩, rfl, rfl⟩

variable {t}

theorem joined_of_parked (parked : t.state = .parked) : (t.joined l stamp clock).state = .waking ∧
    (t.joined l stamp clock).wakeCause = .label := by
  rw [joined, if_pos parked]
  exact ⟨rfl, rfl⟩

theorem state_joined (awake : t.state ≠ .parked) : (t.joined l stamp clock).state = t.state := by
  rw [joined, if_neg awake]

theorem checkable_joined (checkable : (t.joined l stamp clock).state.checkable = true) :
    (t.joined l stamp clock).state = t.state := by
  by_cases parked : t.state = .parked
  · rw [(joined_of_parked l stamp clock parked).1] at checkable
    cases checkable
  · exact state_joined l stamp clock parked

/-- A station that is not IDLE takes up no check once a label has joined it. -/
theorem away_joined (busy : t.state ≠ .idle) : (t.joined l stamp clock).state.checkable = false := by
  by_contra checkable
  rw [Bool.not_eq_false] at checkable
  have same := checkable_joined l stamp clock checkable
  by_cases parked : t.state = .parked
  · rw [(joined_of_parked l stamp clock parked).1, parked] at same
    cases same
  · rw [same] at checkable
    simp [StationState.checkable, busy, parked] at checkable

/-- Where every entry was paired, a label that joins finds none to be paired with. -/
theorem paired_joined (paired : t.Paired) (covered : t.triggers.length ≤ t.eligible.length) :
    (t.joined l stamp clock).Paired := by
  obtain ⟨⟨queue, triggers, -⟩, -⟩ := joined_eq t l stamp clock
  intro k e x trigger _
  rw [triggers] at trigger
  have inside := (List.getElem?_eq_some_iff.mp trigger).1
  exact paired k e _ trigger (List.getElem?_eq_getElem (by omega))

theorem rests_joined (r : t.Rests) (covered : t.triggers.length ≤ t.eligible.length) :
    (t.joined l stamp clock).Rests := by
  obtain ⟨⟨queue, triggers, -⟩, profile, parkTimer⟩ := joined_eq t l stamp clock
  refine ⟨paired_joined l stamp clock r.paired covered, fun x head idle unmarked served => ?_, ?_⟩
  · have same := checkable_joined l stamp clock (by rw [idle]; rfl)
    rw [queue] at head
    cases old : t.queue with
    | nil =>
      rw [old] at head
      cases head
      exact ⟨nofun, nofun⟩
    | cons y rest =>
      rw [old] at head
      refine r.waits x (by rw [old]; exact head) (same.symm.trans idle) unmarked ?_
      simpa only [headServed, mode?, profile, triggers] using served
  · have waiting : ¬(t.joined l stamp clock).Parks := fun ⟨_, _, _, empty, _⟩ => by
      rw [queue] at empty
      simp at empty
    simp [parkTimer, waiting]

end Station

/-! ### The join -/

/-- What the join of a label changes: its station, the next stamp, and its channel. -/
structure State.Joins (s : State) (n : StationNo) (l : Label) (x : State) : Prop where
  station : x.station n = (s.station n).joined l s.nextStamp s.clock
  others : ∀ m, m ≠ n → x.station m = s.station m
  composer : x.composer = s.composer
  check : x.check = s.check
  checkPending : x.checkPending = s.checkPending
  stamp : x.nextStamp = s.nextStamp + 1
  records : s.SameRecords x
  hand : (x.chan (.station n)).hand = none
  held : (x.chan (.station n)).held = (s.chan (.station n)).held ++ [l.index]

namespace State

variable (s : State) (n : StationNo) (l : Label)

/-- The label at the tail of its queue, before its channel takes notice. -/
def queued : State :=
  { s.updStation n fun t =>
      { t with queue := t.queue ++ [l.joined s.nextStamp], fetching := none, parkTimer := none }
    with nextStamp := s.nextStamp + 1 }

theorem chanWork_join : (s.queued n l).ChanWork (s.join n l) :=
  (chanWork_updChan ..).trans (chanWork_dropHand ..)

theorem station_join : (s.join n l).station n = { s.station n with
    queue := (s.station n).queue ++ [l.joined s.nextStamp], fetching := none, parkTimer := none } := by
  rw [(chanWork_join s n l).station]
  exact Four.get_set_same ..

theorem chan_join : (s.join n l).chan (.station n) = Channel.handDropped { s.chan (.station n) with
    held := (s.chan (.station n)).held ++ [l.index] } := by
  rw [join, chan_dropHand, chan_updChan]
  rfl

theorem joins_joinLabel : s.Joins n l (s.joinLabel n l) := by
  have work := chanWork_join s n l
  obtain ⟨-, composer, stamp, check, checkPending, -⟩ := work.sameLanes
  obtain ⟨-, clock, -⟩ := work.sameEvents
  have others (m : StationNo) (other : m ≠ n) : (s.join n l).station m = s.station m :=
    (work.station m).trans (Four.get_set_ne _ _ other)
  obtain ⟨hand, -, held, -⟩ := Channel.handDropped_eq { s.chan (.station n) with
    held := (s.chan (.station n)).held ++ [l.index] }
  rw [← chan_join] at hand held
  unfold joinLabel
  dsimp only
  rw [station_join]
  dsimp only
  split
  · next parked =>
    refine ⟨?_, fun m other => ?_, composer, check, checkPending, stamp, work.sameRecords, ?_, ?_⟩
    · rw [wakeUp, station_updStation, enter, station_updStation, station_join, clock, Station.joined,
        if_pos parked]
      rfl
    · rw [wakeUp, station_updStation_ne _ _ other, enter, station_updStation_ne _ _ other, others m other]
    · rw [wakeUp, chan_updStation, enter, chan_updStation, hand]
    · rw [wakeUp, chan_updStation, enter, chan_updStation, held]
  · next awake =>
    refine ⟨?_, others, composer, check, checkPending, stamp, work.sameRecords, hand, held⟩
    rw [station_join, Station.joined, if_neg awake]

end State

namespace State.Joins

variable {s x : State} {n : StationNo} {l : Label} (h : s.Joins n l x)

include h

theorem queue : (x.station n).queue = (s.station n).queue ++ [l.joined s.nextStamp] := by
  obtain ⟨⟨queue, -⟩, -⟩ := Station.joined_eq (s.station n) l s.nextStamp s.clock
  rw [h.station, queue]

theorem fetching : (x.station n).fetching = none := by
  obtain ⟨⟨-, -, fetching⟩, -⟩ := Station.joined_eq (s.station n) l s.nextStamp s.clock
  rw [h.station, fetching]

section

variable (quiet : s.quiet = true) (covered : (s.station n).triggers.length ≤ (s.station n).eligible.length)

include quiet covered

theorem rests (m : StationNo) : (x.station m).Rests := by
  obtain ⟨rests, -⟩ := quiet_iff_rests.mp quiet
  by_cases e : m = n
  · subst e
    rw [h.station]
    exact Station.rests_joined l s.nextStamp s.clock (rests m) covered
  · rw [h.others m e]
    exact rests m

/-- Where the Composer is BUSY and no entry waits for a label, the join leaves nothing to do. -/
theorem quiet_joined (busy : s.composer.isSome = true) : x.quiet = true := by
  obtain ⟨-, -, served⟩ := quiet_iff_rests.mp quiet
  refine quiet_iff_rests.mpr ⟨h.rests quiet covered, .inl (by rw [h.composer, busy]), ?_⟩
  rw [h.check, h.checkPending]
  refine served.imp_right fun away m asked => ?_
  by_cases e : m = n
  · subst e
    by_contra checkable
    rw [Bool.not_eq_false, h.station] at checkable
    rw [Station.checkable_joined _ _ _ checkable, away m asked] at checkable
    cases checkable
  · rw [h.others m e, away m asked]

end

/-- No label but the one that joins can be a candidate where the Composer had none. -/
theorem candidates_of_idle (quiet : s.quiet = true) (idle : s.composer = none) :
    ∀ m, ∀ y ∈ (x.station m).queue, y.mayCompose = true → y = l.joined s.nextStamp := by
  obtain ⟨-, chosen, -⟩ := quiet_iff_rests.mp quiet
  have old (m : StationNo) : ∀ y ∈ (s.station m).queue, ¬y.mayCompose = true :=
    List.find?_eq_none.mp (chosen.resolve_left (by simp [idle]) m)
  intro m y member may
  by_cases e : m = n
  · subst e
    rw [h.queue, List.mem_append, List.mem_singleton] at member
    exact member.resolve_left fun before => old m y before may
  · rw [h.others m e] at member
    exact absurd may (old m y member)

end State.Joins

/-! ### Pairing leaves a station its state, and makes no candidate (R136, R137) -/

/-- What pairing may do to a station: entries change, and labels leave the queue or are marked. -/
structure Station.PairWork (a b : Station) : Prop where
  rest : ∃ q ts, b = { a with queue := q, triggers := ts }
  candidates : ∀ y ∈ b.queue, y.mayCompose = true → y ∈ a.queue

namespace Station.PairWork

variable {a b c : Station}

theorem refl (a : Station) : a.PairWork a := ⟨⟨_, _, rfl⟩, fun _ member _ => member⟩

theorem trans (h : a.PairWork b) (k : b.PairWork c) : a.PairWork c := by
  obtain ⟨⟨_, _, rfl⟩, old⟩ := h
  obtain ⟨⟨_, _, rfl⟩, older⟩ := k
  exact ⟨⟨_, _, rfl⟩, fun y member may => old y (older y member may) may⟩

end Station.PairWork

namespace State

theorem pairWork_finishHead (s : State) (n : StationNo) (st : Status) :
    (s.station n).PairWork ((s.finishHead n st).station n) := by
  rw [station_finishHead]
  exact ⟨⟨_, _, rfl⟩, fun _ member _ => List.mem_of_mem_tail member⟩

theorem pairWork_mark (s : State) (n : StationNo) (ctx : Nat) (st : Status) :
    (s.station n).PairWork ((s.updLabel n ctx fun l => { l with mark := some st }).station n) := by
  rw [updLabel, station_updStation]
  refine ⟨⟨_, _, rfl⟩, fun y member may => ?_⟩
  obtain ⟨x, old, rfl⟩ := List.mem_map.mp member
  split at may
  · simp [Label.mayCompose] at may
  · next other => rwa [if_neg other]

theorem pairWork_abandon (s : State) (n : StationNo) (ctx : Nat) (st : Status) :
    (s.station n).PairWork ((s.abandon n ctx st).station n) := by
  unfold abandon
  split
  · exact .refl _
  · split
    · exact .refl _
    · split
      · exact pairWork_finishHead ..
      · exact pairWork_mark ..

theorem pairWork_expireEntry (s : State) (n : StationNo) (k : Nat) (l : Label) :
    (s.station n).PairWork ((s.expireEntry n k l).station n) := by
  have dropped : (s.station n).PairWork ((s.dropTrigger n k).station n) := by
    rw [dropTrigger, station_updStation]
    exact ⟨⟨_, _, rfl⟩, fun _ member _ => member⟩
  unfold expireEntry
  dsimp only
  split
  · exact dropped.trans (pairWork_finishHead ..)
  · exact dropped.trans (pairWork_abandon ..)

theorem pairWork_pair (n : StationNo) (r : Nat) :
    ∀ s : State, (s.station n).PairWork ((State.pair n r s).station n) := by
  induction r with
  | zero => exact fun s => .refl _
  | succ r ih =>
    intro s
    unfold pair
    split
    · exact .refl _
    · dsimp only
      split
      · exact (pairWork_expireEntry ..).trans (ih _)
      · refine Station.PairWork.trans ?_ (ih _)
        rw [station_updStation]
        exact ⟨⟨_, _, rfl⟩, fun _ member _ => member⟩

theorem pairWork_pairAll (s : State) (n : StationNo) :
    (s.station n).PairWork (s.pairAll.station n) := by
  refine foldl_keeps (P := fun x => (s.station n).PairWork (x.station n)) (fun x m h => ?_) _ s (.refl _)
  by_cases e : n = m
  · subst e
    exact h.trans (pairWork_pair n _ x)
  · rw [(laneWork_pairStation x m).others n e]
    exact h

/-! ### The Composer's choice leaves the labels their places (R115, R116) -/

/-- What the Composer's choice keeps: the next stamp, and of the stations all but what it writes into labels, which
keep their descriptors. -/
structure ChoiceKeeps (s t : State) : Prop where
  stamp : t.nextStamp = s.nextStamp
  stations : ∀ n, ∃ g : Label → Label, (∀ l, (g l).index = l.index) ∧
    t.station n = { s.station n with queue := (s.station n).queue.map g }

theorem ChoiceKeeps.refl (s : State) : s.ChoiceKeeps s :=
  ⟨rfl, fun n => ⟨id, fun _ => rfl, by rw [List.map_id]⟩⟩

theorem ChoiceKeeps.trans {s t u : State} (h : s.ChoiceKeeps t) (k : t.ChoiceKeeps u) :
    s.ChoiceKeeps u := by
  refine ⟨k.stamp.trans h.stamp, fun n => ?_⟩
  obtain ⟨g, index, here⟩ := h.stations n
  obtain ⟨g', index', there⟩ := k.stations n
  refine ⟨g' ∘ g, fun l => (index' _).trans (index l), ?_⟩
  rw [there, here, List.map_map]

theorem ChoiceKeeps.of_storeWork {s t : State} (h : s.StoreWork t) : s.ChoiceKeeps t := by
  obtain ⟨-, -, stamp, -⟩ := h.sameLanes
  exact ⟨stamp, fun n => ⟨id, fun _ => rfl, by rw [List.map_id, h.station]⟩⟩

theorem choiceKeeps_setComposer (s : State) (composer : Option Job) :
    s.ChoiceKeeps { s with composer := composer } :=
  ⟨rfl, fun _ => ⟨id, fun _ => rfl, by rw [List.map_id]; rfl⟩⟩

theorem choiceKeeps_updCandidate (s : State) (n : StationNo) (ctx : Nat) {f : Label → Label}
    (index : ∀ l, (f l).index = l.index) : s.ChoiceKeeps (s.updCandidate n ctx f) := by
  refine ⟨rfl, fun m => ?_⟩
  by_cases e : m = n
  · subst e
    refine ⟨_, fun l => ?_, station_updStation ..⟩
    dsimp only
    split
    · split
      · exact index l
      · rfl
    · rfl
  · exact ⟨id, fun _ => rfl, by rw [List.map_id]; exact station_updStation_ne s _ e⟩

theorem choiceKeeps_composerTake (s : State) (n : StationNo) (l : Label) :
    s.ChoiceKeeps (s.composerTake n l) := by
  unfold composerTake
  split
  · exact choiceKeeps_updCandidate s n l.ctx fun _ => rfl
  · dsimp only
    refine ChoiceKeeps.trans ?_ (choiceKeeps_setComposer _ _)
    exact (ChoiceKeeps.of_storeWork (storeWork_drawAll ..)).trans
      (choiceKeeps_updCandidate _ n l.ctx fun _ => rfl)

theorem choiceKeeps_composerChoose (k : Nat) :
    ∀ s : State, s.ChoiceKeeps (State.composerChoose k s) := by
  induction k with
  | zero => exact .refl
  | succ k ih =>
    intro s
    unfold composerChoose
    split
    · exact .refl s
    split
    · exact .refl s
    split
    · exact .refl s
    · exact (choiceKeeps_composerTake ..).trans (ih _)

theorem choiceKeeps_chooseLabels (s : State) : s.ChoiceKeeps s.chooseLabels :=
  choiceKeeps_composerChoose ..

/-- The choice writes no byte where no candidate has a counter to draw. -/
theorem sameMemory_chooseLabels {s : State} (plain : s.composer.isSome = true ∨
    ∀ n, ∀ l ∈ (s.station n).queue, l.mayCompose = true → l.counterPins = []) :
    s.SameMemory s.chooseLabels := by
  have same (none : s.composer.isSome = true ∨ s.composerPick? = none) : s.SameMemory s.chooseLabels := by
    rw [chooseLabels, composerChoose_self _ none]
    exact fun _ => rfl
  rcases plain with busy | plain
  · exact same (.inl busy)
  cases idle : s.composer with
  | some j => exact same (.inl (by rw [idle]; rfl))
  | none =>
    cases pick : s.composerPick? with
    | none => exact same (.inr pick)
    | some n =>
      obtain ⟨l, candidate⟩ := Option.ne_none_iff_exists'.mp (candidate?_of_pick pick)
      have counters := plain n l (List.mem_of_find?_eq_some candidate) (List.find?_some candidate)
      rw [chooseLabels_of_fresh idle pick candidate (by simp [counters]), drawnFor, counters]
      exact fun _ => rfl

/-! ### The service test and the start tests at a station that is neither IDLE nor PARKED -/

section

variable {n : StationNo}

theorem station_startAll_of_away {s : State} (away : (s.station n).state.checkable = false) :
    s.startAll.station n = s.station n := by
  refine foldl_keeps (P := fun x => x.station n = s.station n) (fun x m h => ?_) _ s rfl
  by_cases e : n = m
  · subst e
    have waits : (x.station n).Waits := fun _ _ idle => by
      rw [← h, idle] at away
      cases away
    rw [startStation, startLoop_self _ (startTest_eq_wait_iff.mpr waits), h]
  · rw [(laneWork_startStation x m).others n e, h]

theorem station_beginCheck_ne (s : State) {m : StationNo} (o : CheckOrigin) (other : n ≠ m) :
    (s.beginCheck m o).station n = s.station n := by
  obtain ⟨f, begun, -⟩ := beginAtStation_eq s m
  have station : (s.beginCheck m o).station n = (s.beginAtStation m).station n := rfl
  rw [station, begun, station_updStation_ne s f other]

theorem checkable_of_serviceStation? {s : State} {m : StationNo} (h : s.serviceStation? = some m) :
    (s.station m).state.checkable = true := by
  unfold serviceStation? at h
  split at h
  · cases h
  · have eligible := List.find?_some h
    simpa [checkEligible, StationState.checkable] using Bool.and_elim_right eligible

theorem station_serveAndStart_of_away (k : Nat) : ∀ {s : State},
    (s.station n).state.checkable = false → (s.serveAndStart k).station n = s.station n := by
  induction k with
  | zero => exact station_startAll_of_away
  | succ k ih =>
    intro s away
    have begun (x : State) (m : StationNo) (other : n ≠ m) (same : x.station n = s.station n) :
        (x.beginCheck m .auto).startAll.station n = s.station n := by
      have here := (station_beginCheck_ne x .auto other).trans same
      rw [station_startAll_of_away (by rw [here]; exact away), here]
    unfold serveAndStart
    split
    · exact station_startAll_of_away away
    · next m serviced =>
      have other : n ≠ m := fun e => by
        rw [← e] at serviced
        rw [checkable_of_serviceStation? serviced] at away
        cases away
      split
      · dsimp only
        split
        · exact begun _ m other rfl
        · have here : (State.station (startStation { s with freeIndex := s.freeIndex + 1 } m) n) =
              s.station n := (laneWork_startStation _ m).others n other
          rw [ih (by rw [here]; exact away), here]
      · exact begun s m other rfl

end

/-! ### The end of the event -/

variable (s : State)

theorem nextStamp_finishEvent : s.finishEvent.nextStamp = s.nextStamp :=
  calc s.finishEvent.nextStamp
    _ = s.pairAll.chooseLabels.nextStamp := (noWrite_afterChoice _).nextStamp
    _ = s.pairAll.nextStamp := (choiceKeeps_chooseLabels _).stamp
    _ = s.nextStamp := (noWrite_pairAll s).nextStamp

theorem composer_pairAll : s.pairAll.composer = s.composer :=
  foldl_keeps (P := fun x => x.composer = s.composer)
    (fun x m h => (laneWork_pairStation x m).composer.trans h) _ s rfl

variable {s}

/-- Record memory stands at the end of an event whose choice has no counter to draw. -/
theorem sameMemory_finishEvent (plain : s.composer.isSome = true ∨
    ∀ n, ∀ l ∈ (s.station n).queue, l.mayCompose = true → l.counterPins = []) :
    s.SameMemory s.finishEvent := by
  have chosen : s.pairAll.SameMemory s.pairAll.chooseLabels := by
    refine sameMemory_chooseLabels (plain.imp (fun busy => by rw [composer_pairAll, busy])
      fun plain n l member may => plain n l ?_ may)
    exact (pairWork_pairAll s n).candidates l member may
  intro a
  calc s.finishEvent.readByte a
    _ = s.pairAll.chooseLabels.readByte a := (noWrite_afterChoice _).sameMemory a
    _ = s.pairAll.readByte a := chosen a
    _ = s.readByte a := (noWrite_pairAll s).sameMemory a

section

variable {n : StationNo} (away : (s.station n).state.checkable = false)

include away

/-- What the end of an event may do at a station that is neither IDLE nor PARKED: pairing and the choice. -/
theorem station_finishEvent_of_away : ∃ g : Label → Label, (∀ l, (g l).index = l.index) ∧
    ∃ parkTimer, s.finishEvent.station n = { s.pairAll.station n with
      queue := (s.pairAll.station n).queue.map g, parkTimer := parkTimer } := by
  obtain ⟨_, _, paired⟩ := (pairWork_pairAll s n).rest
  obtain ⟨g, index, chosen⟩ := (choiceKeeps_chooseLabels s.pairAll).stations n
  have still : (s.pairAll.chooseLabels.station n).state.checkable = false := by
    rw [chosen, paired]
    exact away
  rw [finishEvent, (chanWork_settleBus _).station, settleStations, station_parkTimers,
    station_serveAndStart_of_away 5 still, chosen]
  exact ⟨g, index, _, rfl⟩

theorem state_finishEvent_of_away : (s.finishEvent.station n).state = (s.station n).state ∧
    (s.finishEvent.station n).wakeCause = (s.station n).wakeCause := by
  obtain ⟨_, _, paired⟩ := (pairWork_pairAll s n).rest
  obtain ⟨_, -, _, ended⟩ := station_finishEvent_of_away away
  rw [ended, paired]
  exact ⟨rfl, rfl⟩

/-- With no entry left to pair, the labels stand in their order. -/
theorem indices_finishEvent_of_away (paired : ∀ m, (s.station m).Paired) :
    (s.finishEvent.station n).queue.map (fun x => x.index) = (s.station n).queue.map fun x => x.index := by
  obtain ⟨g, index, _, ended⟩ := station_finishEvent_of_away away
  rw [ended, pairAll_self fun m => Station.newPair?_eq_none_iff.mpr (paired m)]
  simp only [List.map_map, Function.comp_def, index]

end

end State

/-! ### The end of the event in which a label joins -/

namespace State.Joins

variable {s x : State} {n : StationNo} {l : Label} (h : s.Joins n l x)

include h

theorem fetching_finishEvent : (x.finishEvent.station n).fetching = none := by
  rw [State.fetching_finishEvent, h.fetching]

theorem hand_finishEvent : (x.finishEvent.chan (.station n)).hand = none :=
  (x.settled_finishEvent (.station n)).hand.trans h.hand

theorem held_finishEvent : (x.finishEvent.chan (.station n)).held =
    (s.chan (.station n)).held ++ [l.index] := (x.settled_finishEvent (.station n)).held.trans h.held

theorem stamp_finishEvent : x.finishEvent.nextStamp = s.nextStamp + 1 :=
  x.nextStamp_finishEvent.trans h.stamp

/-- A PARKED station wakes (R112). -/
theorem wakes (parked : (s.station n).state = .parked) :
    (x.finishEvent.station n).state = .waking ∧ (x.finishEvent.station n).wakeCause = .label := by
  obtain ⟨waking, cause⟩ := Station.joined_of_parked l s.nextStamp s.clock parked
  rw [← h.station] at waking cause
  obtain ⟨state, kept⟩ := state_finishEvent_of_away (s := x) (n := n) (by rw [waking]; rfl)
  exact ⟨state.trans waking, kept.trans cause⟩

section

variable (quiet : s.quiet = true)

include quiet

/-- The Composer draws no counter where it is BUSY or the label has none. -/
theorem sameMemory_finishEvent (plain : s.composer.isSome = true ∨ l.counterPins = []) :
    s.SameMemory x.finishEvent := by
  have undrawn : x.composer.isSome = true ∨
      ∀ m, ∀ y ∈ (x.station m).queue, y.mayCompose = true → y.counterPins = [] := by
    cases idle : s.composer with
    | some j => exact .inl (by rw [h.composer, idle]; rfl)
    | none =>
      refine .inr fun m y member may => ?_
      rw [h.candidates_of_idle quiet idle m y member may]
      exact plain.resolve_left (by simp [idle])
  intro a
  obtain ⟨-, -, memory, elements⟩ := h.records
  rw [State.sameMemory_finishEvent undrawn a, readByte, memory, elements, readByte]

variable (covered : (s.station n).triggers.length ≤ (s.station n).eligible.length)

include covered

/-- Where the Composer is BUSY and no entry waits for a label, the event ends at the channels. -/
theorem finishEvent_of_busy (busy : s.composer.isSome = true) : x.finishEvent = x.settleBus :=
  finishEvent_of_quiet (h.quiet_joined quiet covered busy)

theorem queue_of_busy (busy : s.composer.isSome = true) :
    (x.finishEvent.station n).queue = (s.station n).queue ++ [l.joined s.nextStamp] := by
  rw [h.finishEvent_of_busy quiet covered busy, (chanWork_settleBus _).station, h.queue]

theorem indices (busy : (s.station n).state ≠ .idle) :
    (x.finishEvent.station n).queue.map (fun y => y.index) =
      (s.station n).queue.map (fun y => y.index) ++ [l.index] := by
  have away := Station.away_joined l s.nextStamp s.clock busy
  rw [← h.station] at away
  rw [indices_finishEvent_of_away away fun m => (h.rests quiet covered m).paired, h.queue,
    List.map_append]
  rfl

end

end State.Joins

end Sys2Proof.Machine
end

section
/-! The end of a label data transfer (R92, R111): its bytes in their block, the parse of the data, and the join or the
refusal of the label. -/

namespace Sys2Proof.Machine

/-! ### The slot directory (R111) -/

theorem parseSlots_eq_none_iff {rd : Reader} {count length : Nat} : parseSlots rd count length = none ↔
    (∃ j, j < count ∧ 96 < rd j) ∨ count + ((List.range count).map rd).sum ≠ length := by
  simp [parseSlots, imp_iff_not_or]

theorem parseSlots_eq_some {rd : Reader} {count length : Nat} {slots : List (Nat × Nat)}
    (parsed : parseSlots rd count length = some slots) :
    slots = (List.range count).map fun j => (count + ((List.range j).map rd).sum, rd j) := by
  unfold parseSlots at parsed
  dsimp only at parsed
  split at parsed
  · cases parsed
  · cases parsed
    refine List.map_congr_left fun j member => ?_
    have inside := List.mem_range.mp member
    simp [← List.map_take, List.take_range, inside, Nat.le_of_lt inside]

/-! ### The bytes of a transfer in their block (R30) -/

namespace State

variable {s t u : State}

/-- What storing bytes in block k of a list does. -/
structure BlockStored (s t : State) (blk : Nat) (bytes : List Byte) : Prop where
  rest : t = { s with memory := t.memory, elements := t.elements }
  stored : ∀ j, j < bytes.length → t.readByte (256 * blk + j) = bytes.getD j 0
  outside : s.SameMemoryBut t (256 * blk) bytes.length

theorem blockStored_writeContents {blocks : List Nat} {k blk : Nat} {bytes : List Byte}
    (canonical : s.canonical = true) (block : blocks[k]? = some blk) (room : bytes.length ≤ 256) :
    s.BlockStored (s.writeContents blocks (256 * k) bytes) blk bytes := by
  have written := writeContents_block block bytes s 0 (by omega)
  rw [Nat.add_zero, Nat.add_zero] at written
  rw [written]
  exact ⟨writeBytes_rest .., fun j inside => readByte_writeBytes_inside bytes canonical _ inside,
    fun x outside => readByte_writeBytes_outside bytes s outside⟩

/-- What stands as the bytes were stored reads so. -/
theorem BlockStored.of_sameMemory {blk : Nat} {bytes : List Byte} (h : s.BlockStored t blk bytes)
    (same : t.SameMemory u) : (∀ j, j < bytes.length → u.readByte (256 * blk + j) = bytes.getD j 0) ∧
      s.SameMemoryBut u (256 * blk) bytes.length :=
  ⟨fun j inside => (same _).trans (h.stored j inside), fun x outside => (same x).trans (h.outside x outside)⟩

/-- The end of a station's transfer and the storing of its bytes touch different items. -/
theorem writeContents_endTransfer_station (n : StationNo) (blocks : List Nat) (bytes : List Byte) :
    ∀ (s : State) (i : Nat), (s.endTransfer (.station n)).writeContents blocks i bytes =
      (s.writeContents blocks i bytes).endTransfer (.station n) := by
  induction bytes with
  | nil => exact fun _ _ => rfl
  | cons b bs ih =>
    intro s i
    have here : (s.endTransfer (.station n)).writeContent blocks i b =
        (s.writeContent blocks i b).endTransfer (.station n) := by
      unfold writeContent
      split <;> rfl
    rw [writeContents, writeContents, here, ih]

/-! ### The label in hand refused (R113), and a label given up -/

theorem hand_setWork {c : Chan} {d : List Byte} {i : Nat} {w : Work}
    (hand : (s.chan c).hand = some ⟨d, i, w⟩) (w' : Work) :
    ((s.setWork c w').chan c).hand = some ⟨d, i, w'⟩ := by
  rw [setWork, chan_updChan, hand]
  rfl

theorem labelAnswers_refuseLabel {n : StationNo} {d : List Byte} {i : Nat} {w : Work}
    (hand : (s.chan (.station n)).hand = some ⟨d, i, w⟩) (st : Status) :
    (s.refuseLabel n st).finishEvent.labelAnswers n st :=
  labelAnswers_of_hand (((s.refuseLabel n st).settled_finishEvent (.station n)).hand.trans
    (hand_setWork hand _))

theorem GivesUp.of_table {l : Label} (h : t.GivesUp u l) (table : t.table = s.table)
    (free : t.free = s.free) : s.GivesUp u l := by
  have record (g : Nat) : t.record g = s.record g := by rw [State.record, table, State.record]
  obtain ⟨freed, bodies, whole⟩ := h
  simp only [record, free] at freed bodies whole
  exact ⟨freed, bodies, whole⟩

theorem noWrite_discardFetching (s : State) (n : StationNo) : s.NoWrite (s.discardFetching n) := by
  cases fetching : (s.station n).fetching with
  | none =>
    rw [discardFetching_of_none fetching]
    exact .refl s
  | some l =>
    rw [discardFetching_of_some fetching]
    exact ((noWrite_updStation ..).trans (noWrite_releasePins ..)).trans
      (.of_tableWork (tableWork_freeBlocks ..))

end State

/-! ### The event -/

/-- RCH-n's transfer k of the data of the label it fetches ends, with a block for it in the label's reservation and as
many bytes as R101 gives it. -/
structure State.DataEnds (s : State) (n : StationNo) (d : List Byte) (i k : Nat) (l : Label) (blk : Nat)
    (bytes : List Byte) : Prop where
  quiet : s.quiet = true
  canonical : s.canonical = true
  transfer : s.inTransfer (.station n) .data = true
  hand : (s.chan (.station n)).hand = some ⟨d, i, .data k⟩
  fetching : (s.station n).fetching = some l
  card : ∀ x ∈ l.dataBlocks, x < s.total
  block : l.dataBlocks[k]? = some blk
  positive : 1 ≤ bytes.length
  length : bytes.length = min 256 (l.dataLength - 256 * k)

/-- The state in which transfer k is stored and over. -/
def State.dataStored (s : State) (n : StationNo) (l : Label) (k : Nat) (bytes : List Byte) : State :=
  (s.writeContents l.dataBlocks (256 * k) bytes).endTransfer (.station n)

namespace State

variable (s : State) (n : StationNo) (l : Label) (k : Nat) (bytes : List Byte)

theorem chanWork_dataStored :
    (s.writeContents l.dataBlocks (256 * k) bytes).ChanWork (s.dataStored n l k bytes) :=
  chanWork_endTransfer ..

theorem sameLanes_dataStored : s.SameLanes (s.dataStored n l k bytes) :=
  (storeWork_writeContents ..).sameLanes.trans (chanWork_dataStored ..).sameLanes

theorem station_dataStored (m : StationNo) : (s.dataStored n l k bytes).station m = s.station m :=
  ((chanWork_dataStored ..).station m).trans ((storeWork_writeContents ..).station m)

theorem chan_dataStored : (s.dataStored n l k bytes).chan (.station n) =
    { s.chan (.station n) with xfer := none } := by
  rw [dataStored, chan_endTransfer, (storeWork_writeContents ..).chan]

/-- The content that is parsed is the one the bytes were stored in. -/
theorem content_dataStored : (s.dataStored n l k bytes).content l.dataBlocks =
    (s.writeContents l.dataBlocks (256 * k) bytes).content l.dataBlocks := rfl

variable {s n l k bytes}

theorem dataEnded_of_unparsed
    (unparsed : parseSlots ((s.writeContents l.dataBlocks (256 * k) bytes).content l.dataBlocks)
      l.slotCount l.dataLength = none) : (s.dataStored n l k bytes).dataEnded n l =
    ((s.dataStored n l k bytes).discardFetching n).refuseLabel n .badData := by
  rw [dataEnded, content_dataStored, unparsed]

theorem joins_dataEnded {slots : List (Nat × Nat)}
    (parsed : parseSlots ((s.writeContents l.dataBlocks (256 * k) bytes).content l.dataBlocks)
      l.slotCount l.dataLength = some slots) : (s.dataStored n l k bytes).Joins n { l with slots := slots }
    ((s.dataStored n l k bytes).dataEnded n l) := by
  rw [dataEnded, content_dataStored, parsed]
  exact joins_joinLabel ..

end State

namespace State.DataEnds

variable {s : State} {n : StationNo} {d : List Byte} {i k : Nat} {l : Label} {blk : Nat}
  {bytes : List Byte} (e : s.DataEnds n d i k l blk bytes)

include e

theorem room : bytes.length ≤ 256 := by
  have := e.length
  omega

theorem stored : s.BlockStored (s.writeContents l.dataBlocks (256 * k) bytes) blk bytes :=
  blockStored_writeContents e.canonical e.block e.room

theorem exec_eq : exec (.labelDataTransferEnd n bytes) s = .next
    (if l.dataLength ≤ 256 * k + bytes.length then (s.dataStored n l k bytes).dataEnded n l
      else (s.dataStored n l k bytes).setWork (.station n) (.data (k + 1))).finishEvent := by
  have wellFormed : (Instr.labelDataTransferEnd n bytes).wellFormed = true := by
    simp [Instr.wellFormed, e.positive, e.room]
  have inHand : s.dataInHand? n = some k := by
    have hand : (s.rings.get n).hand = some ⟨d, i, .data k⟩ := e.hand
    simp only [dataInHand?, hand]
  show execLabelDataTransferEnd n bytes s = _
  simp only [execLabelDataTransferEnd, wellFormed, e.transfer, inHand, e.fetching, burstLength, e.length,
    missingBlock?_of_card e.card, Bool.true_eq_false, if_false, ne_eq, not_true_eq_false]
  rw [← e.length, dataTransferEnded, writeContents_endTransfer_station]
  rfl

/-! The state in which the transfer is stored -/

theorem table : (s.dataStored n l k bytes).table = s.table ∧ (s.dataStored n l k bytes).free = s.free := by
  obtain ⟨table, free, -⟩ := (chanWork_dataStored ..).sameRecords
  rw [table, free, e.stored.rest]
  exact ⟨rfl, rfl⟩

theorem events : s.SameEvents (s.dataStored n l k bytes) := by
  obtain ⟨events, clock, pending⟩ := (chanWork_dataStored ..).sameEvents
  rw [e.stored.rest] at events clock pending
  exact ⟨events, clock, pending⟩

theorem hand_stored : ((s.dataStored n l k bytes).chan (.station n)).hand = some ⟨d, i, .data k⟩ := by
  rw [chan_dataStored, e.hand]

theorem quiet_stored : (s.dataStored n l k bytes).quiet = true := (sameLanes_dataStored ..).quiet e.quiet

theorem canonical_stored : (s.dataStored n l k bytes).canonical = true :=
  (chanWork_dataStored ..).canonical ((storeWork_writeContents ..).canonical e.canonical)

/-- Where no byte is written after the transfer is stored, record memory holds its bytes (R30). -/
theorem memory {t : State} (same : (s.dataStored n l k bytes).SameMemory t) :
    (∀ j, j < bytes.length → t.readByte (256 * blk + j) = bytes.getD j 0) ∧
      s.SameMemoryBut t (256 * blk) bytes.length :=
  e.stored.of_sameMemory same

/-! A transfer that is not the last -/

theorem next_asked {t : State} (ended : t = ((s.dataStored n l k bytes).setWork (.station n)
    (.data (k + 1))).finishEvent) : s.SameLanes t ∧ s.SameEvents t ∧ t.table = s.table ∧ t.free = s.free ∧
      (t.chan (.station n)).hand = some ⟨d, i, .data (k + 1)⟩ ∧
      (∀ j, j < bytes.length → t.readByte (256 * blk + j) = bytes.getD j 0) ∧
      s.SameMemoryBut t (256 * blk) bytes.length := by
  have asked := chanWork_setWork (s.dataStored n l k bytes) (.station n) (.data (k + 1))
  have hand := (((s.dataStored n l k bytes).setWork (.station n) (.data (k + 1))).settled_finishEvent
    (.station n)).hand
  rw [hand_setWork e.hand_stored, ← ended] at hand
  rw [finishEvent_of_lanes e.quiet_stored asked.sameLanes] at ended
  have work := asked.trans (chanWork_settleBus _)
  rw [← ended] at work
  obtain ⟨table, free, -⟩ := work.sameRecords
  obtain ⟨stored, kept⟩ := e.table
  obtain ⟨events, clock, pending⟩ := work.sameEvents
  obtain ⟨events', clock', pending'⟩ := e.events
  exact ⟨(sameLanes_dataStored ..).trans work.sameLanes,
    ⟨events.trans events', clock.trans clock', pending.trans pending'⟩, table.trans stored,
    free.trans kept, hand, e.memory work.sameMemory⟩

/-! The last transfer, with data that does not parse -/

section

variable (unparsed : parseSlots ((s.writeContents l.dataBlocks (256 * k) bytes).content l.dataBlocks)
  l.slotCount l.dataLength = none)

include unparsed

theorem refused {t : State} (ended : t = ((s.dataStored n l k bytes).dataEnded n l).finishEvent) :
    (t.station n).fetching = none ∧
      (s.dataStored n l k bytes).SameMemory t ∧ t.labelAnswers n .badData ∧ s.GivesUp t l ∧
      (t.station n).queue = (s.station n).queue ∧ t.nextStamp = s.nextStamp := by
  obtain ⟨table, free⟩ := e.table
  have fetching : ((s.dataStored n l k bytes).station n).fetching = some l := by
    rw [station_dataStored, e.fetching]
  have discarded := noWrite_discardFetching (s.dataStored n l k bytes) n
  have rest := sameRest_discardFetching (s.dataStored n l k bytes) n
  have gives := givesUp_discardFetching e.canonical_stored fetching
  have hand := e.hand_stored
  rw [← chan_discardFetching] at hand
  have answers := labelAnswers_refuseLabel hand .badData
  rw [dataEnded_of_unparsed unparsed] at ended
  rw [← ended] at answers
  have refused := chanWork_setWork ((s.dataStored n l k bytes).discardFetching n) (.station n)
    (.complete (refusalCompletion .badData))
  rw [refuseLabel, finishEvent_of_lanes (rest.quiet e.quiet_stored) refused.sameLanes] at ended
  have work := refused.trans (chanWork_settleBus _)
  rw [← ended] at work
  obtain ⟨-, -, stamp, -⟩ := work.sameLanes
  obtain ⟨-, -, stamp', -⟩ := sameLanes_dataStored s n l k bytes
  refine ⟨?_, fun a => (work.sameMemory a).trans (discarded.sameMemory a), answers,
    (gives.of_after work.sameRecords).of_table table free, ?_,
    (stamp.trans discarded.nextStamp).trans stamp'⟩
  · rw [work.station, fetching_discardFetching]
  · rw [work.station, (rest.stations n).queue, station_dataStored]

end

/-! The last transfer, with data that parses -/

section

variable {slots : List (Nat × Nat)}
  (parsed : parseSlots ((s.writeContents l.dataBlocks (256 * k) bytes).content l.dataBlocks)
    l.slotCount l.dataLength = some slots)

include parsed

theorem joined {t : State} (ended : t = ((s.dataStored n l k bytes).dataEnded n l).finishEvent) :
    (t.station n).fetching = none ∧
      (s.composer.isSome = true ∨ l.counterPins = [] → (s.dataStored n l k bytes).SameMemory t) ∧
      (t.chan (.station n)).held = (s.chan (.station n)).held ++ [l.index] ∧
      (t.chan (.station n)).hand = none ∧ t.nextStamp = s.nextStamp + 1 := by
  have join := joins_dataEnded (n := n) parsed
  obtain ⟨-, composer, stamp, -⟩ := sameLanes_dataStored s n l k bytes
  rw [ended]
  refine ⟨join.fetching_finishEvent, fun plain => join.sameMemory_finishEvent e.quiet_stored ?_, ?_,
    join.hand_finishEvent, ?_⟩
  · exact plain.imp_left fun busy => by rw [composer, busy]
  · rw [join.held_finishEvent, chan_dataStored]
  · rw [join.stamp_finishEvent, stamp]

theorem queue_joined {t : State} (ended : t = ((s.dataStored n l k bytes).dataEnded n l).finishEvent)
    (covered : (s.station n).triggers.length ≤ (s.station n).eligible.length) :
    (s.composer.isSome = true → (t.station n).queue =
      (s.station n).queue ++ [{ l with slots := slots, state := .accepted, stamp := some s.nextStamp }]) ∧
    ((s.station n).state ≠ .idle → (t.station n).queue.map (fun x => x.index) =
      (s.station n).queue.map (fun x => x.index) ++ [l.index]) := by
  have join := joins_dataEnded (n := n) parsed
  obtain ⟨-, composer, stamp, -⟩ := sameLanes_dataStored s n l k bytes
  have station := station_dataStored s n l k bytes n
  rw [← station] at covered
  rw [ended]
  refine ⟨fun busy => ?_, fun awake => ?_⟩
  · rw [join.queue_of_busy e.quiet_stored covered (by rw [composer, busy]), station, stamp]
    rfl
  · rw [join.indices e.quiet_stored covered (by rw [station]; exact awake), station]

end

end State.DataEnds

/-- Settles O39: a transfer that is not the last, data that does not parse, and the join. -/
theorem labelDataEnds : Obligations.LabelDataEnds := by
  refine ⟨fun s n d i k l blk bytes quiet canonical transfer hand fetching card block positive length => ?_,
    fun rd count length => ⟨parseSlots_eq_none_iff, fun slots parsed => ?_⟩,
    fun l => ?_, fun s blocks k blk bytes canonical block room => ?_⟩
  · have e : s.DataEnds n d i k l blk bytes :=
      ⟨quiet, canonical, transfer, hand, fetching, card, block, positive, length⟩
    refine ⟨_, e.exec_eq, fun more => ?_, fun last => ?_⟩
    · rw [if_neg (Nat.not_le.mpr more)]
      exact e.next_asked rfl
    · rw [if_pos last]
      dsimp only
      cases parsed : parseSlots ((s.writeContents l.dataBlocks (256 * k) bytes).content l.dataBlocks)
          l.slotCount l.dataLength with
      | none =>
        obtain ⟨fetched, memory, refused⟩ := e.refused parsed rfl
        exact ⟨fetched, fun _ => e.memory memory, fun _ => refused, nofun⟩
      | some slots =>
        obtain ⟨fetched, memory, held, dropped, stamp⟩ := e.joined parsed rfl
        refine ⟨fetched, fun plain => e.memory (memory ?_), nofun, fun other same => ?_⟩
        · exact plain.imp_right fun plain => plain.resolve_right nofun
        · obtain rfl := Option.some.inj same
          exact ⟨held, dropped, stamp, e.queue_joined parsed rfl, fun parked =>
            (State.joins_dataEnded parsed).wakes (by rw [State.station_dataStored, parked])⟩
  · rw [parseSlots_eq_some parsed]
    refine ⟨by simp, fun j inside => by simp [inside]⟩
  · rw [Label.dataBlocks, ceilDiv_256]
  · have stored := State.blockStored_writeContents canonical block room
    exact ⟨stored.rest, stored.stored, stored.outside⟩

end Sys2Proof.Machine
end

section
/-! The acceptance of a LABEL descriptor (R107 to R111): its checks, its context and its pins. -/

namespace Sys2Proof.Machine

/-! ### The parameters and the terms of the checks (R36, R109, R210) -/

theorem formTooLarge_iff {t : Station} {p : Profile} (profile : t.profile = some p) (rd : Reader) :
    formTooLarge t rd = true ↔ p.pitch < formLength rd ∨ t.dotCount < formWidth rd + p.leftMargin := by
  simp [formTooLarge, profile]

theorem labelDataBad_iff (d : List Byte) (fields : List Field) : labelDataBad d fields = true ↔
    16 < labelSlotCount d ∨ 1536 < labelDataLength d ∨
    (labelSlotCount d = 0 ∧ 0 < labelDataLength d) ∨
    (0 < labelSlotCount d ∧ labelDataLength d < labelSlotCount d) ∨
    ∃ f ∈ fields, (f.kind = some .text ∨ f.kind = some .barcode) ∧ f.source = some .slot ∧
      labelSlotCount d ≤ f.slot := by
  simp [labelDataBad, Field.sourced, or_assoc, and_assoc]

theorem le_listMax {l : List Nat} {x : Nat} (member : x ∈ l) : x ≤ listMax l := by
  rw [listMax, List.foldl_eq_foldr]
  induction l with
  | nil => cases member
  | cons y l ih =>
    rw [List.foldr_cons]
    rcases List.mem_cons.mp member with rfl | later
    · exact le_max_left ..
    · exact (ih later).trans (le_max_right ..)

theorem listMax_mem {l : List Nat} (some : l ≠ []) : listMax l ∈ l := by
  rw [listMax, List.foldl_eq_foldr]
  induction l with
  | nil => exact absurd rfl some
  | cons y l ih =>
    rw [List.foldr_cons]
    by_cases single : l = []
    · subst single
      simp
    · rcases max_choice y (l.foldr max 0) with here | there
      · rw [here]
        exact List.mem_cons_self ..
      · rw [there]
        exact List.mem_cons_of_mem y (ih single)

theorem ceilDiv_16 (x : Nat) : ceilDiv x 16 = (x + 15) / 16 := by
  rw [ceilDiv, Nat.add_sub_assoc (by decide)]

/-- R36: the most elements a BARCODE field may place. -/
theorem symbolMaximum_eq (rd : Reader) (m : Nat) : ∃ most, symbolMaximum rd m =
    (m + 1) * most + (((symStart rd).length + 1) / 2 + ((symStop rd).length + 1) / 2) ∧
  (∀ e ∈ symEntries rd, (e.pattern.length + 1) / 2 ≤ most) ∧
  (symEntries rd = [] → most = 0) ∧
  (symEntries rd ≠ [] → ∃ e ∈ symEntries rd, (e.pattern.length + 1) / 2 = most) := by
  refine ⟨listMax ((symEntries rd).map fun e => barCount e.pattern), ?_, fun e member => ?_, fun empty => ?_,
    fun some => ?_⟩
  · rw [symbolMaximum, Nat.add_assoc]
    rfl
  · exact le_listMax (List.mem_map_of_mem (f := fun e => barCount e.pattern) member)
  · rw [empty]
    rfl
  · exact List.mem_map.mp (listMax_mem (by simpa using some))

/-! ### Pins taken (R10) -/

namespace State

variable {s t : State}

theorem current_pinCurrent (canonical : s.canonical = true) (g h : Nat) :
    ((s.pinCurrent g).record h).current = (s.record h).current.map fun b =>
      if h = g then { b with pins := b.pins + 1 } else b := by
  unfold pinCurrent
  dsimp only
  by_cases here : h = g
  · subst here
    simp only [if_true]
    split
    · next b current => rw [record_setRecord_canonical h _ canonical, current]; rfl
    · next none => rw [none]; rfl
  · simp only [if_neg here, Option.map_id']
    split
    · rw [record_setRecord_ne s _ here]
    · rfl

/-- Each place of a list takes a pin on the current body of the handle that stands there. -/
theorem bodyPins_pinAll (hs : List Nat) : ∀ {s : State}, s.canonical = true → ∀ {h : Nat},
    (s.record h).current.isSome = true → bodyPins ((s.pinAll hs).record h).current =
      bodyPins (s.record h).current + hs.count h := by
  induction hs with
  | nil => exact fun _ _ _ => rfl
  | cons g hs ih =>
    intro s canonical h present
    obtain ⟨b, current⟩ := Option.isSome_iff_exists.mp present
    have pinned := current_pinCurrent canonical g h
    rw [current] at pinned
    rw [pinAll, ih ((kept_pinCurrent s g).canonical canonical) (by rw [pinned]; rfl), pinned, current]
    by_cases here : h = g
    · simp only [here, Option.map_some, if_true, bodyPins, List.count_cons_self]
      omega
    · rw [List.count_cons_of_ne (Ne.symm here), Option.map_some, if_neg here]

end State

/-! ### The context number (log 24) -/

theorem Station.freeContext_spec {t : Station} (room : t.queue.length < 8) (free : t.fetching = none) :
    (∀ x ∈ t.queue, x.ctx ≠ t.freeContext) ∧
      ∀ c, c < t.freeContext → ∃ x ∈ t.queue, x.ctx = c := by
  have search : ∀ c, (!(t.queue.any fun l => l.ctx == c) && !(t.fetching.any fun l => l.ctx == c)) = true ↔
      ∀ x ∈ t.queue, x.ctx ≠ c := fun c => by simp [free]
  unfold freeContext
  cases found : (List.range 8).find? fun c =>
      !(t.queue.any fun l => l.ctx == c) && !(t.fetching.any fun l => l.ctx == c) with
  | none =>
    have all : List.range 8 ⊆ t.queue.map fun x => x.ctx := fun c member => by
      have used := mt (search c).mpr (List.find?_eq_none.mp found c member)
      simpa using used
    have length := (List.nodup_range.subperm all).length_le
    rw [List.length_range, List.length_map] at length
    omega
  | some c =>
    obtain ⟨unused, -, lower⟩ := List.find?_range_eq_some.mp found
    refine ⟨(search c).mp unused, fun b below => ?_⟩
    have used := mt (search b).mpr (by simpa only [Bool.not_eq_true, Bool.not_eq_true'] using lower b below)
    simpa using used

/-! ### The checks in their order (R109) -/

theorem elim_refuseIf_or {P : Prop} {refused : Status → Prop} (b : Bool) (st : Status)
    (later : Option Status) : ((refuseIf b st).or later).elim P refused ↔
      if b = true then refused st else later.elim P refused := by
  cases b <;> exact Iff.rfl

theorem elim_refuseIf {P : Prop} {refused : Status → Prop} (b : Bool) (st : Status) :
    (refuseIf b st).elim P refused ↔ if b = true then refused st else P := by
  cases b <;> exact Iff.rfl

theorem State.formFound_iff {s : State} {h : Nat} : s.formFound h = true ↔
    h ≤ 1023 ∧ (s.record h).state = .active ∧ (s.record h).kind = some .form := by
  simp [formFound, and_assoc]

/-- The first check that fails decides. -/
theorem State.acceptanceFault?_elim_iff {s : State} {n : StationNo} {d : List Byte} {P : Prop}
    {refused : Status → Prop} : (s.acceptanceFault? n d).elim P refused ↔
      if (s.station n).dotCount = 0 then refused .noHead
      else if (s.station n).state = .offline then refused .stationOffline
      else if ¬(labelForm d ≤ 1023 ∧ (s.record (labelForm d)).state = .active ∧
        (s.record (labelForm d)).kind = some .form) then refused .formMissing
      else if labelVersion d ≠ 0 ∧ labelVersion d ≠ (s.record (labelForm d)).version then
        refused .versionMismatch
      else if formTooLarge (s.station n) (s.currentContent (labelForm d)) then refused .formTooLarge
      else if labelDataBad d (formFields (s.currentContent (labelForm d))) then refused .badData
      else P := by
  simp only [acceptanceFault?, elim_refuseIf_or, elim_refuseIf, Station.fitted, Bool.not_eq_true',
    beq_iff_eq, ← Bool.not_eq_true, formFound_iff, Bool.and_eq_true, bne_iff_ne, ne_eq, not_not]

/-! ### The context (R110) -/

namespace State

variable (s : State) (n : StationNo) (d : List Byte) (i : Nat)

/-- The context of a label that is accepted, with its reservation. -/
def contextFor : Label := s.newContext n d i (s.free.take (s.reservationFor d))

/-- What the context of an accepted label holds (R10, R53, R110). -/
structure ContextHolds (l : Label) : Prop where
  handles : l.pinHandles.Perm (labelForm d :: bodyRefs (s.record (labelForm d)).current)
  pinned : l.pinned.map (fun p => p.1) = labelForm d ::
    ((bodyRefs (s.record (labelForm d)).current).filter fun h =>
      decide ((s.record h).kind ≠ some .counter))
  counters : l.counterPins = (bodyRefs (s.record (labelForm d)).current).filter fun h =>
    decide ((s.record h).kind = some .counter)
  begun : l.mark = none ∧ l.failure = none ∧ l.warnings = Warnings.none ∧ l.drawn = [] ∧ l.slots = [] ∧
    l.elementCount = none
  parameters : l.dotAvoid = labelDotAvoid d ∧ l.slotCount = labelSlotCount d ∧
    l.dataLength = labelDataLength d
  shifts : l.shifts = List.replicate
    ((formFields (s.currentContent (labelForm d))).countP fun f => f.kind == some .barcode) 0
  number : (s.station n).queue.length < 8 → (s.station n).fetching = none →
    (∀ x ∈ (s.station n).queue, x.ctx ≠ l.ctx) ∧
    ∀ c, c < l.ctx → ∃ x ∈ (s.station n).queue, x.ctx = c
  versions : ∀ p ∈ l.pinned, ∀ b, (s.record p.1).current = some b → p.2 = b.version
  form : l.form = labelForm d
  version : l.formVersion = (s.record (labelForm d)).version
  index : l.index = i
  reservation : l.reservation = s.free.take (s.reservationFor d)

theorem pinned_contextFor : (s.contextFor n d i).pinned.map (fun p => p.1) =
    labelForm d :: s.drawnOf (bodyRefs (s.record (labelForm d)).current) :=
  (List.map_map ..).trans (List.map_id _)

theorem contextHolds_contextFor : s.ContextHolds n d i (s.contextFor n d i) := by
  refine ⟨?_, ?_, ?_, ⟨rfl, rfl, rfl, rfl, rfl, rfl⟩, ⟨rfl, rfl, rfl⟩, ?_, Station.freeContext_spec,
    fun p member b current => ?_, rfl, rfl, rfl, rfl⟩
  · rw [Label.pinHandles, pinned_contextFor]
    refine .cons _ (List.perm_append_comm.trans ?_)
    exact List.filter_append_perm (fun h => (s.record h).kind == some .counter) _
  · rw [pinned_contextFor, drawnOf]
    exact congrArg _ (List.filter_congr fun h _ => by simp [bne, Bool.beq_eq_decide_eq])
  · exact List.filter_congr fun h _ => by simp [Bool.beq_eq_decide_eq]
  · exact (List.map_const' ..).trans (by rw [List.countP_eq_length_filter])
  · obtain ⟨h, -, rfl⟩ := List.mem_map.mp member
    dsimp only at current ⊢
    rw [current]

variable {s n d i} in
theorem ContextHolds.joined {l : Label} (h : s.ContextHolds n d i l) (stamp : Nat) :
    s.ContextHolds n d i (l.joined stamp) :=
  ⟨h.handles, h.pinned, h.counters, h.begun, h.parameters, h.shifts, h.number, h.versions, h.form, h.version,
    h.index, h.reservation⟩

end State

/-! ### Reservation and pins (R32, R110) -/

namespace State

variable (s : State) (n : StationNo) (d : List Byte) (i : Nat)

/-- The state in which an accepted label has its reservation and its pins. -/
def reserved : State :=
  State.pinAll { s with free := s.free.drop (s.reservationFor d) } (s.contextFor n d i).pinHandles

theorem tableWork_reserved : s.TableWork (s.reserved n d i) :=
  TableWork.trans ⟨_, _, rfl⟩ (tableWork_pinAll ..)

theorem free_pinAll (hs : List Nat) : ∀ s : State, (s.pinAll hs).free = s.free := by
  induction hs with
  | nil => exact fun _ => rfl
  | cons h hs ih =>
    intro s
    have head : (s.pinCurrent h).free = s.free := by
      unfold pinCurrent
      dsimp only
      split <;> rfl
    rw [pinAll, ih, head]

theorem free_reserved : (s.reserved n d i).free = s.free.drop (s.reservationFor d) := free_pinAll ..

variable {s}

theorem bodyPins_reserved (canonical : s.canonical = true) {h : Nat}
    (present : (s.record h).current.isSome = true) :
    bodyPins ((s.reserved n d i).record h).current = bodyPins (s.record h).current +
      (labelForm d :: bodyRefs (s.record (labelForm d)).current).count h := by
  have shortened : State.canonical { s with free := s.free.drop (s.reservationFor d) } = true :=
    canonical_of_same canonical rfl rfl rfl
  rw [reserved, bodyPins_pinAll _ shortened present,
    (contextHolds_contextFor s n d i).handles.count_eq]
  rfl

variable {n d}

theorem acceptLabel_of_fault {st : Status} (fault : s.acceptanceFault? n d = some st) :
    s.acceptLabel n d i = s.refuseLabel n st := by
  unfold acceptLabel
  rw [fault]

section

variable (passes : s.acceptanceFault? n d = none)

include passes

theorem acceptLabel_of_full (full : s.free.length < s.reservationFor d) :
    s.acceptLabel n d i = s.refuseLabel n .noSpace := by
  unfold acceptLabel
  rw [passes, allocate_of_lt full]

theorem acceptLabel_of_room (room : ¬s.free.length < s.reservationFor d) : s.acceptLabel n d i =
    if labelDataLength d = 0 then (s.reserved n d i).joinLabel n (s.contextFor n d i)
    else (s.reserved n d i).updStation n fun t => { t with fetching := some (s.contextFor n d i) } := by
  unfold acceptLabel
  rw [passes, allocate_of_le (Nat.not_lt.mp room)]
  rfl

end

/-! ### The descriptor in hand -/

theorem ChanWork.acceptance {t : State} (h : s.ChanWork t) (n : StationNo) (d : List Byte) (i : Nat) :
    t.acceptanceFault? n d = s.acceptanceFault? n d ∧ t.reservationFor d = s.reservationFor d ∧
      t.contextFor n d i = s.contextFor n d i := by
  obtain ⟨_, _, _, _, _, rfl⟩ := h
  exact ⟨rfl, rfl, rfl⟩

variable (s n d)

/-- The state in which RCH-n has taken a descriptor into hand (R92). -/
def handed : State := (s.endTransfer (.station n)).takeHand (.station n) d (stationWork d)

theorem chanWork_handed : s.ChanWork (s.handed n d) := by
  rw [handed, takeHand]
  exact (chanWork_endTransfer ..).trans (chanWork_updChan ..)

theorem chan_handed : (s.handed n d).chan (.station n) =
    { s.chan (.station n) with xfer := none }.handTaken d (stationWork d) := by
  rw [handed, chan_takeHand, chan_endTransfer]

variable {s n d}

theorem fetched_of_label (go : (s.chan (.station n)).stopPending = false) (part : d.getD 63 0 = 1)
    (label : isLabel d = true) : s.fetched (.station n) d =
      (s.handed n d).acceptLabel n d (s.chan (.station n)).fetchIndex := by
  have index : ((s.endTransfer (.station n)).chan (.station n)).fetchIndex =
      (s.chan (.station n)).fetchIndex := by rw [chan_endTransfer]
  rw [fetched_of_part go part, takeDescriptor_of_label label]
  exact congrArg (State.acceptLabel _ n d) index

end State

/-! ### The event -/

/-- RCH-n's fetch of a LABEL descriptor ends, with no STOP pending (R109). -/
structure State.LabelFound (s : State) (n : StationNo) (d : List Byte) : Prop where
  length : d.length = 64
  part : d.getD 63 0 = 1
  label : isLabel d = true
  transfer : s.inTransfer (.station n) .fetch = true
  quiet : s.quiet = true
  go : (s.chan (.station n)).stopPending = false

namespace State.LabelFound

variable {s : State} {n : StationNo} {d : List Byte} (e : s.LabelFound n d)

include e

theorem exec_eq : exec (.descriptorFetchEnd (.station n) d) s =
    .next ((s.handed n d).acceptLabel n d (s.chan (.station n)).fetchIndex).finishEvent := by
  show execDescriptorFetchEnd (.station n) d s = _
  rw [execDescriptorFetchEnd_of_transfer e.length e.transfer, fetched_of_label e.go e.part e.label]

theorem hand : ((s.handed n d).chan (.station n)).hand =
    some ⟨d, (s.chan (.station n)).fetchIndex, .data 0⟩ := by
  rw [chan_handed, stationWork, if_pos e.label]
  rfl

/-- A refusal answers with its status and leaves the stations and the records (R113). -/
theorem refused {t : State} {st : Status}
    (ended : t = ((s.handed n d).refuseLabel n st).finishEvent) :
    t.labelAnswers n st ∧ s.SameLanes t ∧ s.SameRecords t := by
  have answers := labelAnswers_refuseLabel e.hand st
  have work := (chanWork_handed s n d).trans
    (chanWork_setWork (s.handed n d) (.station n) (.complete (refusalCompletion st)))
  have whole := work.trans (chanWork_settleBus _)
  rw [← finishEvent_of_lanes e.quiet work.sameLanes] at whole
  rw [ended]
  exact ⟨answers, whole.sameLanes, whole.sameRecords⟩

end State.LabelFound

/-! The state in which the label has its reservation and its pins -/

/-- The state in which a label that passes has its reservation and its pins, before it is fetched for or joins. -/
def State.taken (s : State) (n : StationNo) (d : List Byte) : State :=
  (s.handed n d).reserved n d (s.chan (.station n)).fetchIndex

/-- The context of the label that RCH-n finds. -/
def State.found (s : State) (n : StationNo) (d : List Byte) : Label :=
  s.contextFor n d (s.chan (.station n)).fetchIndex

namespace State

variable (s : State) (n : StationNo) (d : List Byte)

theorem tableWork_taken : (s.handed n d).TableWork (s.taken n d) := tableWork_reserved ..

theorem sameLanes_taken : s.SameLanes (s.taken n d) :=
  (chanWork_handed s n d).sameLanes.trans (tableWork_taken s n d).sameLanes

theorem station_taken (m : StationNo) : (s.taken n d).station m = s.station m := by
  obtain ⟨stations, -⟩ := sameLanes_taken s n d
  rw [station, station, stations]

theorem free_taken : (s.taken n d).free = s.free.drop (s.reservationFor d) := by
  obtain ⟨-, free, -⟩ := (chanWork_handed s n d).sameRecords
  obtain ⟨-, reservation, -⟩ := (chanWork_handed s n d).acceptance n d 0
  rw [taken, free_reserved, free, reservation]

theorem chan_taken : (s.taken n d).chan (.station n) =
    { s.chan (.station n) with xfer := none }.handTaken d (stationWork d) := by
  rw [(tableWork_taken s n d).chan, chan_handed]

theorem bodyPins_taken (canonical : s.canonical = true) {h : Nat}
    (present : (s.record h).current.isSome = true) :
    bodyPins ((s.taken n d).record h).current = bodyPins (s.record h).current +
      (labelForm d :: bodyRefs (s.record (labelForm d)).current).count h := by
  have work := chanWork_handed s n d
  rw [← work.record] at present ⊢
  rw [← work.record (labelForm d)]
  exact bodyPins_reserved n d _ (work.canonical canonical) present

variable {s n d} in
/-- Each handle that the label names has a pin more on its current body (R10). -/
theorem bodyPins_of_taken {t : State} (record : ∀ h, t.record h = (s.taken n d).record h)
    (canonical : s.canonical = true) (h : Nat) (present : (s.record h).current.isSome = true) :
    bodyPins (t.record h).current = bodyPins (s.record h).current +
      (labelForm d :: bodyRefs (s.record (labelForm d)).current).count h := by
  rw [record, bodyPins_taken s n d canonical present]

/-- What an acceptance leaves before the event ends (R110, R111). -/
structure Leaves (u : State) (l : Label) : Prop where
  free : u.free = s.free.drop (s.reservationFor d)
  record : ∀ h, u.record h = (s.taken n d).record h
  context : s.ContextHolds n d (s.chan (.station n)).fetchIndex l
  fetching : 0 < labelDataLength d → (u.station n).fetching = some l
  queue : labelDataLength d = 0 → (u.station n).queue = (s.station n).queue ++ [l] ∧
    l.state = .accepted ∧ l.stamp = some s.nextStamp

/-- A label with data waits for its transfers (R111). -/
def dataAwaited : State := (s.taken n d).updStation n fun t => { t with fetching := some (s.found n d) }

variable {s n d}

theorem acceptLabel_handed (passes : s.acceptanceFault? n d = none)
    (room : ¬s.free.length < s.reservationFor d) :
    (s.handed n d).acceptLabel n d (s.chan (.station n)).fetchIndex =
      if labelDataLength d = 0 then (s.taken n d).joinLabel n (s.found n d) else s.dataAwaited n d := by
  obtain ⟨fault, reservation, context⟩ :=
    (chanWork_handed s n d).acceptance n d (s.chan (.station n)).fetchIndex
  obtain ⟨-, free, -⟩ := (chanWork_handed s n d).sameRecords
  rw [acceptLabel_of_room _ (fault.trans passes) (by rw [free, reservation]; exact room), context]
  rfl

theorem leaves_dataAwaited (data : 0 < labelDataLength d) :
    s.Leaves n d (s.dataAwaited n d) (s.found n d) := by
  refine ⟨free_taken s n d, fun _ => rfl, contextHolds_contextFor .., fun _ => ?_, fun empty => ?_⟩
  · rw [dataAwaited, station_updStation]
  · omega

theorem joins_taken : (s.taken n d).Joins n (s.found n d) ((s.taken n d).joinLabel n (s.found n d)) :=
  joins_joinLabel ..

theorem stamp_taken : (s.taken n d).nextStamp = s.nextStamp := by
  obtain ⟨-, -, stamp, -⟩ := sameLanes_taken s n d
  exact stamp

theorem leaves_joined (empty : labelDataLength d = 0) :
    s.Leaves n d ((s.taken n d).joinLabel n (s.found n d)) ((s.found n d).joined s.nextStamp) := by
  have join := joins_taken (s := s) (n := n) (d := d)
  obtain ⟨-, free, -⟩ := join.records
  refine ⟨free.trans (free_taken s n d), join.records.record, (contextHolds_contextFor ..).joined _,
    fun data => absurd empty (Nat.ne_of_gt data), fun _ => ⟨?_, rfl, rfl⟩⟩
  rw [join.queue, station_taken, stamp_taken]

theorem leaves_acceptLabel (passes : s.acceptanceFault? n d = none)
    (room : ¬s.free.length < s.reservationFor d) :
    ∃ l, s.Leaves n d ((s.handed n d).acceptLabel n d (s.chan (.station n)).fetchIndex) l := by
  rw [acceptLabel_handed passes room]
  split
  · next empty => exact ⟨_, leaves_joined empty⟩
  · next data => exact ⟨_, leaves_dataAwaited (Nat.pos_of_ne_zero data)⟩

end State

/-! ### The end of the event of an acceptance -/

namespace State.LabelFound

variable {s : State} {n : StationNo} {d : List Byte} (e : s.LabelFound n d)

include e

theorem quiet_dataAwaited : (s.dataAwaited n d).quiet = true := by
  have rest := sameRest_updStation (s.taken n d) n
    (f := fun t => { t with fetching := some (s.found n d) }) ⟨rfl, rfl, rfl, rfl, rfl⟩
  exact rest.quiet ((sameLanes_taken s n d).quiet e.quiet)

/-- A label with data leaves the lanes at rest, so the event ends at the channels. -/
theorem chanWork_dataAwaited : (s.dataAwaited n d).ChanWork (s.dataAwaited n d).finishEvent := by
  rw [finishEvent_of_quiet e.quiet_dataAwaited]
  exact chanWork_settleBus _

theorem hand_dataAwaited : ((s.dataAwaited n d).finishEvent.chan (.station n)).hand =
    some ⟨d, (s.chan (.station n)).fetchIndex, .data 0⟩ := by
  rw [((s.dataAwaited n d).settled_finishEvent (.station n)).hand, dataAwaited, chan_updStation,
    (tableWork_taken s n d).chan, e.hand]

theorem quiet_taken : (s.taken n d).quiet = true := (sameLanes_taken s n d).quiet e.quiet

/-- Where no entry waits for a label and the Composer is BUSY, a label that joins leaves no more to do. -/
theorem chanWork_joined (empty : (s.station n).triggers = []) (busy : s.composer.isSome = true) :
    ((s.taken n d).joinLabel n (s.found n d)).ChanWork
      ((s.taken n d).joinLabel n (s.found n d)).finishEvent := by
  obtain ⟨-, composer, -⟩ := sameLanes_taken s n d
  rw [joins_taken.finishEvent_of_busy e.quiet_taken (by simp [station_taken, empty])
    (by rw [composer, busy])]
  exact chanWork_settleBus _

end State.LabelFound

/-- Settles O35: the checks in their order, and of the label that passes the pins, the context and the two ways on. -/
theorem labelAcceptance : Obligations.LabelAcceptance := by
  refine ⟨fun s n d length part label transfer quiet go => ?_,
    fun d => ⟨rfl, rfl, rfl, rfl, rfl, (le32_listReader d 13).symm⟩,
    fun t p rd profile => formTooLarge_iff profile rd, labelDataBad_iff,
    fun s h b current => by simp only [State.currentContent, current], fun _ => rfl, rfl, fun _ => rfl,
    fun s d => ?_, symbolMaximum_eq⟩
  · have e : s.LabelFound n d := ⟨length, part, beq_iff_eq.mpr label, transfer, quiet, go⟩
    refine ⟨_, e.exec_eq, ?_⟩
    intro refused form rd pinned
    obtain ⟨faults, reservation, -⟩ := (State.chanWork_handed s n d).acceptance n d 0
    obtain ⟨-, free, -⟩ := (State.chanWork_handed s n d).sameRecords
    refine State.acceptanceFault?_elim_iff.mp ?_
    cases fault : s.acceptanceFault? n d with
    | some st => exact e.refused (congrArg _ (State.acceptLabel_of_fault _ (faults.trans fault)))
    | none =>
      rw [Option.elim_none]
      split
      · next full =>
        exact e.refused (congrArg _ (State.acceptLabel_of_full _ (faults.trans fault)
          (by rw [free, reservation]; exact full)))
      · next room =>
        obtain ⟨l, leaves⟩ := State.leaves_acceptLabel fault room
        obtain ⟨handles, pinned, counters, ⟨mark, failure, warnings, drawn, slots, elements⟩,
          ⟨dotAvoid, slotCount, dataLength⟩, shifts, number, versions, named, version, index,
          reserved⟩ := leaves.context
        refine ⟨⟨_, l, rfl, leaves.free, State.bodyPins_of_taken leaves.record, handles, pinned, counters, mark,
          failure, warnings, drawn, slots, elements, dotAvoid, slotCount, dataLength, shifts, number, versions,
          named, version, index, reserved, leaves.fetching, leaves.queue⟩, fun data => ?_, fun empty => ?_⟩
        · have context := State.contextHolds_contextFor s n d (s.chan (.station n)).fetchIndex
          rw [State.acceptLabel_handed fault room, if_neg (Nat.ne_of_gt data)]
          have work := e.chanWork_dataAwaited
          have begun := State.leaves_dataAwaited (s := s) (n := n) data
          obtain ⟨-, kept, -⟩ := work.sameRecords
          refine ⟨s.found n d, ?_, context.form, context.version, context.index, context.reservation,
            context.handles, kept.trans begun.free, e.hand_dataAwaited, ?_,
            State.bodyPins_of_taken fun h => (work.record h).trans (begun.record h)⟩
          · rw [work.station, begun.fetching data]
          · rw [work.station, State.dataAwaited, State.station_updStation, State.station_taken]
        · rw [State.acceptLabel_handed fault room, if_pos empty]
          have join := State.joins_taken (s := s) (n := n) (d := d)
          have begun := State.leaves_joined (s := s) (n := n) empty
          refine ⟨?_, join.hand_finishEvent, ?_, fun parked => ?_, fun none busy => ?_,
            fun _ none busy => ?_⟩
          · rw [join.held_finishEvent, State.chan_taken]
            rfl
          · rw [join.stamp_finishEvent, State.stamp_taken]
          · exact join.wakes (by rw [State.station_taken, parked])
          · have work := e.chanWork_joined none busy
            exact State.bodyPins_of_taken fun h => (work.record h).trans (begun.record h)
          · have work := e.chanWork_joined none busy
            obtain ⟨queue, state, stamp⟩ := begun.queue empty
            exact ⟨_, (congrArg Station.queue (work.station n)).trans queue, state, begun.context.form, stamp,
              begun.context.index⟩
  · rw [State.reservationFor, reservationBlocks, entriesPerBlock, ceilDiv_16, ceilDiv_256]
    rfl

end Sys2Proof.Machine
end

section
/-! Head power and the lane items of a station stay legal under the shared operations of the stations, the Composer and
the end of an event (R133, R143, R144, R147, R157, R158, R164). -/

namespace Sys2Proof.Machine

/-- Head power and the work of a station are as its state has them. -/
def Station.Legal (t : Station) : Prop := t.powerLegal = true ∧ t.workLegal = true

theorem State.lanesLegal_iff {s : State} : s.lanesLegal = true ↔ ∀ n, (s.station n).Legal := by
  simp only [State.lanesLegal, List.all_eq_true, Bool.and_eq_true]
  exact ⟨fun h n => h n (StationNo.mem_all n), fun h n _ => h n⟩

namespace Station.Legal

variable {t : Station}

theorem enter (t : Station) (new : StationState) (clock : Word) : (t.enter new clock).Legal :=
  ⟨enter_powerLegal .., enter_workLegal ..⟩

/-- A line stands only in a state that feeds (R133). -/
theorem feeds (h : t.Legal) (line : t.feed ≠ none) : t.state.feeds = true := by
  obtain ⟨-, work⟩ := h
  simp only [workLegal, Bool.and_eq_true, Bool.or_eq_true, Option.isNone_iff_eq_none] at work
  tauto

/-- The Head Drive has a label only in PRINTING (R163). -/
theorem printing (h : t.Legal) (drive : t.drive ≠ none) : t.state = .printing := by
  obtain ⟨-, work⟩ := h
  simp only [workLegal, Bool.and_eq_true, Bool.or_eq_true, Option.isNone_iff_eq_none, beq_iff_eq] at work
  tauto

/-- A line in progress, with MOTOR stepping where hot hold does not pause it (R144, R164). -/
theorem withFeed (h : t.Legal) (feeds : t.state.feeds = true) (f : Feed) :
    Station.Legal { t with feed := some f, motor := !f.paused } := by
  obtain ⟨power, work⟩ := h
  refine ⟨power, ?_⟩
  simp only [workLegal, Bool.and_eq_true] at work ⊢
  simp [work, feeds]

/-- The Head Drive may have a label in PRINTING (R163). -/
theorem withDrive (h : t.Legal) (printing : t.state = .printing) (d : Option Drive) :
    Station.Legal { t with drive := d } := by
  obtain ⟨power, work⟩ := h
  refine ⟨power, ?_⟩
  simp only [workLegal, Bool.and_eq_true, printing] at work ⊢
  simp [work]

/-- Without a park timer a station is as legal as with one (R157). -/
theorem withoutParkTimer (h : t.Legal) : Station.Legal { t with parkTimer := none } := by
  obtain ⟨power, work⟩ := h
  refine ⟨power, ?_⟩
  simp only [workLegal, Bool.and_eq_true] at work ⊢
  simp [work]

theorem withParkTimer (h : t.Legal) (idle : t.state = .idle) (timer : Option Word) :
    Station.Legal { t with parkTimer := timer } := by
  obtain ⟨power, work⟩ := h
  refine ⟨power, ?_⟩
  simp only [workLegal, Bool.and_eq_true, idle] at work ⊢
  simp [work]

/-- A return state may stand in the states that have one (R130). -/
theorem withReturn (h : t.Legal) (returns : t.state = .checking ∨ t.state = .calibrating ∨
    t.state = .ejecting) (back : Option ReturnState) :
    Station.Legal { t with returnState := back } := by
  obtain ⟨power, work⟩ := h
  refine ⟨power, ?_⟩
  rcases returns with e | e | e <;>
    (simp only [workLegal, Bool.and_eq_true, e] at work ⊢; simp [work])

/-- A check may be due in WAKING (R184). -/
theorem withCheckDue (h : t.Legal) (waking : t.state = .waking) (due : Bool) :
    Station.Legal { t with checkDue := due } := by
  obtain ⟨power, work⟩ := h
  refine ⟨power, ?_⟩
  simp only [workLegal, Bool.and_eq_true, waking] at work ⊢
  simp [work]

/-- A print deadline may stand in PRINTING (R143). -/
theorem withDeadline (h : t.Legal) (printing : t.state = .printing) (deadline : Option Word) :
    Station.Legal { t with printDeadline := deadline } := by
  obtain ⟨power, work⟩ := h
  refine ⟨power, ?_⟩
  simp only [workLegal, Bool.and_eq_true, printing] at work ⊢
  simp [work]

theorem withoutDeadline (h : t.Legal) : Station.Legal { t with printDeadline := none } := by
  obtain ⟨power, work⟩ := h
  refine ⟨power, ?_⟩
  simp only [workLegal, Bool.and_eq_true] at work ⊢
  simp [work]

end Station.Legal

/-- Legal lanes stay legal. -/
structure State.Lawful (s t : State) : Prop where
  legal : ∀ n, (s.station n).Legal → (t.station n).Legal

namespace State.Lawful

variable {s t u : State}

theorem refl (s : State) : s.Lawful s := ⟨fun _ => id⟩

theorem trans (h : s.Lawful t) (k : t.Lawful u) : s.Lawful u :=
  ⟨fun n l => k.legal n (h.legal n l)⟩

theorem of_station (h : ∀ n, t.station n = s.station n) : s.Lawful t :=
  ⟨fun n l => by rw [h n]; exact l⟩

theorem of_sameLanes (h : s.SameLanes t) : s.Lawful t := of_station fun n => by
  obtain ⟨stations, -⟩ := h
  rw [State.station, State.station, stations]

theorem of_storeWork (h : s.StoreWork t) : s.Lawful t := of_station h.station

theorem foldl {β : Type} {f : State → β → State} (h : ∀ s b, State.Lawful s (f s b)) (l : List β) :
    ∀ s : State, s.Lawful (l.foldl f s) := by
  induction l with
  | nil => exact .refl
  | cons b l ih => exact fun s => (h s b).trans (ih _)

end State.Lawful

namespace State

theorem lawful_updStation (s : State) (n : StationNo) {f : Station → Station}
    (h : (s.station n).Legal → (f (s.station n)).Legal) : s.Lawful (s.updStation n f) := by
  refine ⟨fun m l => ?_⟩
  by_cases e : m = n
  · subst e
    rw [station_updStation]
    exact h l
  · rw [station_updStation_ne s f e]
    exact l

/-- Work on one station that it comes out of legal. -/
theorem lawful_of_lane {s t : State} {n : StationNo} (others : ∀ m, m ≠ n → t.station m = s.station m)
    (h : (s.station n).Legal → (t.station n).Legal) : s.Lawful t := by
  refine ⟨fun m l => ?_⟩
  by_cases e : m = n
  · subst e
    exact h l
  · rw [others m e]
    exact l

/-! ### Labels -/

theorem lawful_updLabel (s : State) (n : StationNo) (c : Nat) (f : Label → Label) :
    s.Lawful (s.updLabel n c f) := lawful_updStation s n id

theorem lawful_finishHead (s : State) (n : StationNo) (st : Status) : s.Lawful (s.finishHead n st) := by
  refine lawful_of_lane (laneWork_finishHead s n st).others fun l => ?_
  rw [station_finishHead]
  exact l

theorem lawful_abandon (s : State) (n : StationNo) (c : Nat) (st : Status) :
    s.Lawful (s.abandon n c st) := by
  refine lawful_of_lane (laneWork_abandon s n c st).others fun l => ?_
  obtain ⟨_, e⟩ := station_abandon s n c st
  rw [e]
  exact l

theorem lawful_abandonAll (n : StationNo) (st : Status) (cs : List Nat) :
    ∀ s : State, s.Lawful (s.abandonAll n st cs) := by
  induction cs with
  | nil => exact .refl
  | cons c cs ih => exact fun s => (lawful_abandon ..).trans (ih _)

theorem lawful_skipOne (s : State) (n : StationNo) : s.Lawful (s.skipOne n) := by
  refine lawful_of_lane (laneWork_skipOne s n).others fun l => ?_
  obtain ⟨_, e⟩ := station_skipOne s n
  rw [e]
  exact l

theorem lawful_skipMany (s : State) (n : StationNo) (k : Nat) : s.Lawful (s.skipMany n k) := by
  refine lawful_of_lane (laneWork_skipMany n k s).others fun l => ?_
  obtain ⟨_, e⟩ := station_skipMany n k s
  rw [e]
  exact l

theorem lawful_skipPending (s : State) (n : StationNo) : s.Lawful (s.skipPending n) :=
  (lawful_updStation s n id).trans (lawful_skipMany ..)

theorem lawful_discardFetching (s : State) (n : StationNo) : s.Lawful (s.discardFetching n) := by
  unfold discardFetching
  split
  · exact .refl s
  · exact ((lawful_updStation s n id).trans (.of_storeWork (storeWork_releasePins ..))).trans
      (.of_storeWork (storeWork_freeBlocks ..))

/-! ### Entering a state (R133) -/

theorem lawful_enter (s : State) (n : StationNo) (st : StationState) : s.Lawful (s.enter n st) :=
  lawful_updStation s n fun _ => .enter ..

theorem lawful_wakeUp (s : State) (n : StationNo) (c : WakeCause) : s.Lawful (s.wakeUp n c) :=
  (lawful_enter ..).trans (lawful_updStation _ n id)

theorem lawful_enterHeld (s : State) (n : StationNo) : s.Lawful (s.enterHeld n) :=
  ((lawful_enter ..).trans (lawful_updStation _ n id)).trans (lawful_skipPending ..)

theorem lawful_enterRest (s : State) (n : StationNo) : s.Lawful (s.enterRest n) := by
  unfold enterRest
  split
  · exact lawful_enterHeld ..
  · exact lawful_enter ..

theorem lawful_enterReturn (s : State) (n : StationNo) : s.Lawful (s.enterReturn n) := by
  unfold enterReturn
  split
  · exact lawful_enterHeld ..
  · exact lawful_enter ..

theorem lawful_enterFault (s : State) (n : StationNo) (c : FaultCause) : s.Lawful (s.enterFault n c) :=
  (((lawful_enter ..).trans (lawful_updStation _ n id)).trans
    (.of_storeWork (storeWork_raise ..))).trans (lawful_skipPending ..)

theorem lawful_finishWorking (s : State) (n : StationNo) (st : Status) :
    s.Lawful (s.finishWorking n st) := by
  unfold finishWorking
  split
  · exact lawful_finishHead ..
  · exact .refl s

theorem lawful_setStock (s : State) (n : StationNo) (r a : Bool) : s.Lawful (s.setStock n r a) :=
  lawful_updStation s n id

theorem lawful_mediaFault (s : State) (n : StationNo) : s.Lawful (s.mediaFault n) :=
  ((lawful_finishWorking ..).trans (lawful_setStock ..)).trans (lawful_enterFault ..)

/-! ### The checks of the DCU and the answers of RCH-C -/

theorem station_report (s : State) (code : ControlCode) (b : List Byte) (n : StationNo) :
    (s.report code b).station n = s.station n := by
  unfold report
  split
  · split
    · exact station_updChan ..
    · rfl
  · rfl

theorem station_abortCheck (s : State) (n : StationNo) (again : Bool) (m : StationNo) :
    (s.abortCheck n again).station m = s.station m := by
  unfold abortCheck
  split
  · rfl
  split
  · dsimp only
    split
    · exact station_report ..
    · split <;> rfl
  · rfl

theorem station_endCalibration (s : State) (n : StationNo) (st : Status) (m : StationNo) :
    (s.endCalibration n st).station m = s.station m := by
  unfold endCalibration
  split
  · exact station_report ..
  · rfl

theorem lawful_calibrationFails (s : State) (n : StationNo) : s.Lawful (s.calibrationFails n) :=
  ((Lawful.of_station (station_report s _ _)).trans (lawful_setStock ..)).trans (lawful_enterReturn ..)

theorem lawful_calibrationMeasured (s : State) (n : StationNo) (pitch : Nat) :
    s.Lawful (s.calibrationMeasured n pitch) := by
  unfold calibrationMeasured
  split
  · exact (((Lawful.of_station (station_report s _ _)).trans (lawful_updStation _ n id)).trans
      (lawful_setStock ..)).trans (lawful_enterReturn ..)
  · exact lawful_calibrationFails ..

theorem lawful_overrun (s : State) (n : StationNo) : s.Lawful (s.overrun n) := by
  have ended : s.Lawful (((s.finishWorking n .skipped).endCalibration n .aborted).abortCheck n true) :=
    ((lawful_finishWorking ..).trans (.of_station (station_endCalibration _ n _))).trans
      (.of_station (station_abortCheck _ n _))
  unfold overrun
  dsimp only
  refine ((ended.trans ?_).trans (lawful_enterFault ..)).trans (lawful_skipOne ..)
  split
  · exact lawful_updStation _ n id
  · exact .refl _

theorem lawful_headOpened (s : State) (n : StationNo) : s.Lawful (s.headOpened n) :=
  ((((lawful_finishWorking ..).trans (.of_station (station_endCalibration _ n _))).trans
    (.of_station (station_abortCheck _ n _))).trans (lawful_setStock ..)).trans (lawful_enterFault ..)

/-! ### Lines (R144, R164) -/

/-- A line that begins: MOTOR steps and the line is in progress. -/
theorem setFeed_stepMotor (s : State) (n : StationNo) (k : LineKind) (p : Nat) :
    (s.stepMotor n).setFeed n k p = s.updStation n fun t =>
      { t with sinceEdge := t.sinceEdge + 1, motor := true, feed := some ⟨k, false, p⟩ } :=
  updStation_updStation ..

theorem lawful_beginLine (s : State) (n : StationNo) (k : LineKind) (p : Nat)
    (feeds : (s.station n).Legal → (s.station n).state.feeds = true) : s.Lawful ((s.stepMotor n).setFeed n k p) := by
  rw [setFeed_stepMotor]
  exact lawful_updStation s n fun l => l.withFeed (feeds l) ⟨k, false, p⟩

/-- The period of a printed line that begins, and the drive that it leaves (R165 to R171). -/
theorem firePrinted_eq (s : State) (n : StationNo) : ∃ d p, s.firePrinted n =
    (s.updStation n fun t => { t with drive := d }).setFeed n .printed p ∧
      ((s.station n).drive = none → d = none) := by
  unfold firePrinted
  dsimp only
  split
  · next drive => exact ⟨_, _, rfl, fun none => nomatch none.symm.trans drive⟩
  · refine ⟨(s.station n).drive, (s.station n).nominalPeriod, ?_, id⟩
    rw [updStation_self rfl]

theorem lawful_firePrinted (s : State) (n : StationNo) (feeds : (s.station n).Legal → (s.station n).state.feeds = true) :
    s.Lawful ((s.stepMotor n).firePrinted n) := by
  obtain ⟨d, p, e, none⟩ := firePrinted_eq (s.stepMotor n) n
  rw [e]
  refine lawful_of_lane (n := n) (fun m h => ?_) fun l => ?_
  · simp only [stepMotor, setFeed, station_updStation_ne _ _ h]
  · have fed := l.withFeed (feeds l) ⟨.printed, false, p⟩
    simp only [stepMotor, setFeed, station_updStation] at none ⊢
    cases drive : (s.station n).drive with
    | none =>
      rw [none drive, ← drive]
      exact fed
    | some _ => exact fed.withDrive (l.printing (by simp [drive])) d

theorem lawful_beginPrinting (s : State) (n : StationNo) (k : LineKind)
    (feeds : (s.station n).Legal → (s.station n).state.feeds = true) : s.Lawful (s.beginPrinting n k) := by
  unfold beginPrinting
  dsimp only
  split
  · exact lawful_updStation s n fun l => l.withFeed (feeds l) ⟨k, true, _⟩
  split
  · exact lawful_mediaFault ..
  split
  · exact lawful_mediaFault ..
  cases k with
  | printed => exact lawful_firePrinted s n feeds
  | leading | peel | eject | calibrate => exact lawful_beginLine s n _ _ feeds

theorem lawful_beginEjecting (s : State) (n : StationNo) (feeds : (s.station n).Legal → (s.station n).state.feeds = true) :
    s.Lawful (s.beginEjecting n) := by
  unfold beginEjecting
  dsimp only
  split
  · exact lawful_mediaFault ..
  split
  · exact lawful_mediaFault ..
  · exact lawful_beginLine s n _ _ feeds

theorem lawful_beginCalibrating (s : State) (n : StationNo) (lines edges : Nat)
    (feeds : (s.station n).Legal → (s.station n).state.feeds = true) : s.Lawful (s.beginCalibrating n lines edges) := by
  unfold beginCalibrating
  dsimp only
  split
  · exact lawful_calibrationFails ..
  split
  · exact lawful_calibrationFails ..
  · exact lawful_beginLine s n _ _ feeds

theorem lawful_peelEnd (s : State) (n : StationNo) : s.Lawful (s.peelEnd n) := by
  have aligned : s.Lawful (s.updStation n fun t => { t with aligned := true }) :=
    lawful_updStation s n id
  unfold peelEnd
  dsimp only
  split
  · exact (aligned.trans (lawful_finishHead ..)).trans (lawful_enterRest ..)
  split
  · exact (aligned.trans (lawful_updLabel ..)).trans (lawful_enter ..)
  · exact aligned.trans (lawful_enter ..)

theorem lawful_afterPrinted (s : State) (n : StationNo) (feeds : (s.station n).Legal → (s.station n).state.feeds = true) :
    s.Lawful (s.afterPrinted n) := by
  unfold afterPrinted
  dsimp only
  split
  · split
    · exact lawful_beginPrinting s n _ feeds
    split
    · exact lawful_peelEnd ..
    · exact lawful_beginPrinting s n _ feeds
  · exact .refl s

theorem lawful_afterPeel (s : State) (n : StationNo) (k : Nat)
    (feeds : (s.station n).Legal → (s.station n).state.feeds = true) : s.Lawful (s.afterPeel n k) := by
  unfold afterPeel
  split
  · split
    · exact lawful_beginPrinting s n _ feeds
    · exact lawful_peelEnd ..
  · exact .refl s

theorem lawful_releasePaused (s : State) (n : StationNo) : s.Lawful (s.releasePaused n) := by
  unfold releasePaused
  dsimp only
  split
  · split
    · next paused =>
      obtain ⟨printing, -⟩ := paused
      exact lawful_beginPrinting s n _ fun _ => by rw [printing]; rfl
    · exact .refl s
  · exact .refl s

/-! ### Print start and eject (R143, R154) -/

theorem lawful_takeHead (s : State) (n : StationNo) (l : Label) : s.Lawful (s.takeHead n l) := by
  refine Lawful.trans ((lawful_enter s n .printing).trans ?_) (lawful_updLabel ..)
  have printing : ((s.enter n .printing).station n).state = .printing := by
    rw [enter, station_updStation]
    rfl
  exact lawful_updStation _ n fun l =>
    (l.withDeadline printing ((s.station n).triggers.head?.map Trigger.deadline)).withDrive printing
      (some Drive.initial)

theorem lawful_printStart (s : State) (n : StationNo) (l : Label) : s.Lawful (s.printStart n l) := by
  rw [printStart_eq]
  refine ((lawful_takeHead ..).trans (lawful_updStation _ n id)).trans (lawful_beginPrinting _ n _ fun _ => ?_)
  simp only [takeHead, updLabel, enter, station_updStation]
  rfl

theorem lawful_startEject (s : State) (n : StationNo) : s.Lawful (s.startEject n) := by
  have ejecting : ((s.enter n .ejecting).station n).state = .ejecting := by
    rw [enter, station_updStation]
    rfl
  have back : s.Lawful ((s.enter n .ejecting).updStation n fun t =>
      { t with returnState := some (if t.holdPending then .held else .idle) }) :=
    (lawful_enter ..).trans (lawful_updStation _ n fun l => l.withReturn (.inr (.inr ejecting)) _)
  refine (back.trans (lawful_updStation _ n id)).trans (lawful_beginEjecting _ n fun _ => ?_)
  simp only [enter, station_updStation]
  rfl

/-! ### The end of an event -/

theorem lawful_startLoop (n : StationNo) (r : Nat) : ∀ s : State, s.Lawful (State.startLoop n r s) := by
  induction r with
  | zero => exact .refl
  | succ r ih =>
    intro s
    unfold startLoop
    split
    · exact .refl s
    · exact lawful_printStart ..
    · exact ((lawful_updStation s n id).trans (lawful_finishHead ..)).trans (ih _)

theorem lawful_startAll (s : State) : s.Lawful s.startAll :=
  .foldl (fun s n => lawful_startLoop n _ s) _ s

theorem lawful_enterChecking (s : State) (n : StationNo) (b : ReturnState) :
    s.Lawful (s.enterChecking n b) := by
  refine lawful_of_lane (n := n) (fun m h => ?_) fun _ => ?_
  · simp only [enterChecking, enter, station_updStation_ne _ _ h]
  · simp only [enterChecking, enter, station_updStation]
    exact .enter ..

theorem lawful_beginAtStation (s : State) (n : StationNo) : s.Lawful (s.beginAtStation n) := by
  unfold beginAtStation
  cases state : (s.station n).state
  case idle | held => exact lawful_enterChecking ..
  case parked =>
    refine (lawful_wakeUp ..).trans (lawful_updStation _ n fun l => l.withCheckDue ?_ _)
    simp only [wakeUp, enter, station_updStation]
    rfl
  case waking => exact lawful_updStation s n fun l => l.withCheckDue state _
  all_goals exact .refl s

theorem lawful_beginCheck (s : State) (n : StationNo) (o : CheckOrigin) : s.Lawful (s.beginCheck n o) :=
  ⟨(lawful_beginAtStation s n).legal⟩

theorem lawful_serveAndStart (k : Nat) : ∀ s : State, s.Lawful (s.serveAndStart k) := by
  induction k with
  | zero => exact lawful_startAll
  | succ k ih =>
    intro s
    have counted : s.Lawful { s with freeIndex := s.freeIndex + 1 } := .of_station fun _ => rfl
    unfold serveAndStart
    split
    · exact lawful_startAll s
    split
    · dsimp only
      split
      · exact (counted.trans (lawful_beginCheck ..)).trans (lawful_startAll _)
      · exact (counted.trans (lawful_startLoop ..)).trans (ih _)
    · exact (lawful_beginCheck ..).trans (lawful_startAll _)

theorem lawful_parkTimers (s : State) : s.Lawful s.parkTimers := by
  refine ⟨fun n l => ?_⟩
  rw [station_parkTimers]
  unfold Station.parkTimerAt
  split
  · exact l.withoutParkTimer
  split
  · next idle => exact l.withParkTimer idle.1 _
  · exact l.withoutParkTimer

theorem lawful_finishEvent (s : State) : s.Lawful s.finishEvent := by
  have paired : s.Lawful s.pairAll := ⟨fun n l => by
    obtain ⟨_, _, e⟩ := (pairWork_pairAll s n).rest
    rw [e]
    exact l⟩
  have chosen : s.pairAll.Lawful s.pairAll.chooseLabels := ⟨fun n l => by
    obtain ⟨_, -, e⟩ := (choiceKeeps_chooseLabels s.pairAll).stations n
    rw [e]
    exact l⟩
  exact (((paired.trans chosen).trans (lawful_serveAndStart 5 _)).trans (lawful_parkTimers _)).trans
    (.of_sameLanes (sameLanes_settleBus _))

end State

end Sys2Proof.Machine
end

section
/-! What a command may touch at a station: head power and the lane items stay legal, the trigger queues bounded, and
the items of a station stay as they are but for the commands that name them (R131, R133, R135, R173, R182, R198,
R199). -/

namespace Sys2Proof.Machine

open State

/-- The items of a station that a command leaves, but where it is one of those that set them. -/
structure Station.ItemsKept (i : Instr) (a b : Station) : Prop where
  profile : i.setsProfile = false → b.profile = a.profile
  thermal : i.setsThermal = false → b.thermal = a.thermal
  map : i.setsMap = false → b.map = a.map ∧ b.summary = a.summary
  command : i.recordsCommand = false → b.lastCode = a.lastCode ∧ b.lastResult = a.lastResult
  inputs : i.setsInputs = false → b.mediaPresent = a.mediaPresent ∧ b.mediaLatch = a.mediaLatch ∧
    b.headOpen = a.headOpen ∧ b.triggerHigh = a.triggerHigh

theorem Station.ItemsKept.refl {i : Instr} (a : Station) : a.ItemsKept i a :=
  ⟨fun _ => rfl, fun _ => rfl, fun _ => ⟨rfl, rfl⟩, fun _ => ⟨rfl, rfl⟩, fun _ => ⟨rfl, rfl, rfl, rfl⟩⟩

theorem Station.ItemsKept.trans {i : Instr} {a b c : Station} (h : a.ItemsKept i b) (k : b.ItemsKept i c) :
    a.ItemsKept i c := by
  refine ⟨fun e => (k.profile e).trans (h.profile e), fun e => (k.thermal e).trans (h.thermal e),
    fun e => ?_, fun e => ?_, fun e => ?_⟩
  · obtain ⟨a1, a2⟩ := h.map e
    obtain ⟨b1, b2⟩ := k.map e
    exact ⟨b1.trans a1, b2.trans a2⟩
  · obtain ⟨a1, a2⟩ := h.command e
    obtain ⟨b1, b2⟩ := k.command e
    exact ⟨b1.trans a1, b2.trans a2⟩
  · obtain ⟨a1, a2, a3, a4⟩ := h.inputs e
    obtain ⟨b1, b2, b3, b4⟩ := k.inputs e
    exact ⟨b1.trans a1, b2.trans a2, b3.trans a3, b4.trans a4⟩

/-- What a command keeps at the stations, and of record memory where it stores nothing. -/
structure State.LanesKept (i : Instr) (s t : State) : Prop extends State.Lawful s t where
  items : ∀ n, (s.station n).ItemsKept i (t.station n)
  bounded : ∀ n, (s.station n).triggers.length ≤ 4 → (t.station n).triggers.length ≤ 4
  memory : i.keepsMemory = true → s.SameMemory t

namespace State.LanesKept

variable {i : Instr} {s t u : State}

theorem refl (s : State) : s.LanesKept i s := ⟨.refl s, fun _ => .refl _, fun _ => id, fun _ _ => rfl⟩

theorem trans (h : s.LanesKept i t) (k : t.LanesKept i u) : s.LanesKept i u :=
  ⟨h.toLawful.trans k.toLawful, fun n => (h.items n).trans (k.items n),
    fun n => k.bounded n ∘ h.bounded n, fun e x => (k.memory e x).trans (h.memory e x)⟩

/-- The shared operations leave all these items; the commands that call for them may store. -/
theorem of_kept (stores : i.keepsMemory = false) (k : s.Kept t) (l : s.Lawful t) : s.LanesKept i t := by
  refine ⟨l, fun n => ?_, fun n b => (k.lanes n).triggers.trans b, fun e => nomatch stores.symm.trans e⟩
  have e := k.lanes n
  exact ⟨fun _ => e.profile, fun _ => e.thermal, fun _ => ⟨e.map, e.summary⟩,
    fun _ => ⟨e.lastCode, e.lastResult⟩,
    fun _ => ⟨e.mediaPresent, e.mediaLatch, e.headOpen, e.triggerHigh⟩⟩

theorem of_sameLanes (lanes : s.SameLanes t) (memory : i.keepsMemory = true → s.SameMemory t) :
    s.LanesKept i t := by
  obtain ⟨stations, -⟩ := lanes
  have station (n : StationNo) : t.station n = s.station n := by
    rw [State.station, State.station, stations]
  refine ⟨.of_station station, fun n => ?_, fun n => ?_, memory⟩
  · rw [station]
    exact .refl _
  · rw [station]
    exact id

theorem of_chanWork (h : s.ChanWork t) : s.LanesKept i t :=
  of_sameLanes h.sameLanes fun _ => (NoWrite.of_chanWork h).sameMemory

theorem of_tableWork (h : s.TableWork t) : s.LanesKept i t := of_sameLanes h.sameLanes fun _ => h.sameMemory

/-- An update of one station. -/
theorem updStation (n : StationNo) {f : Station → Station}
    (legal : (s.station n).Legal → (f (s.station n)).Legal)
    (items : (s.station n).ItemsKept i (f (s.station n)))
    (bounded : (s.station n).triggers.length ≤ 4 → (f (s.station n)).triggers.length ≤ 4) :
    s.LanesKept i (s.updStation n f) := by
  refine ⟨lawful_updStation s n legal, fun m => ?_, fun m => ?_, fun _ _ => rfl⟩
  · by_cases e : m = n
    · subst e
      rw [station_updStation]
      exact items
    · rw [station_updStation_ne s f e]
      exact .refl _
  · by_cases e : m = n
    · subst e
      rw [station_updStation]
      exact bounded
    · rw [station_updStation_ne s f e]
      exact id

/-- An update of one station that leaves these items and the lane items alone. -/
theorem updStation_same (n : StationNo) {f : Station → Station}
    (kept : (s.station n).LaneKept (f (s.station n)))
    (legal : (s.station n).Legal → (f (s.station n)).Legal) : s.LanesKept i (s.updStation n f) :=
  updStation n legal ⟨fun _ => kept.profile, fun _ => kept.thermal, fun _ => ⟨kept.map, kept.summary⟩,
    fun _ => ⟨kept.lastCode, kept.lastResult⟩,
    fun _ => ⟨kept.mediaPresent, kept.mediaLatch, kept.headOpen, kept.triggerHigh⟩⟩ kept.triggers.trans

theorem finishEvent (stores : i.keepsMemory = false) (h : s.LanesKept i t) : s.LanesKept i t.finishEvent :=
  h.trans (of_kept stores (kept_finishEvent t) (lawful_finishEvent t))

theorem settleBus (h : s.LanesKept i t) : s.LanesKept i t.settleBus :=
  h.trans (of_chanWork (chanWork_settleBus t))

theorem reachTime (t : Word) : s.LanesKept i (s.reachTime t) := by
  obtain ⟨_, e⟩ := reachTime_eq s t
  rw [e]
  exact of_sameLanes (.refl s) fun _ _ => rfl

end State.LanesKept

end Sys2Proof.Machine
end

section
/-! Every command keeps head power and the lane items legal, the trigger queues bounded, the items of a station that it
does not set, and record memory where it stores nothing. -/

namespace Sys2Proof.Machine

open State

/-- The state an answer goes on with keeps what a command keeps at the stations. -/
def Answer.LanesKept (i : Instr) (s : State) (a : Answer) : Prop := ∀ t, a = .next t → s.LanesKept i t

namespace Answer.LanesKept

variable {i : Instr} {s t : State}

theorem next (h : s.LanesKept i t) : Answer.LanesKept i s (.next t) := by
  rintro _ ⟨⟩
  exact h

theorem same : Answer.LanesKept i s (.next s) := next (.refl s)

theorem fault (r : Fault) : Answer.LanesKept i s (.fault r) := by rintro _ ⟨⟩

theorem refused (r : Refusal) : Answer.LanesKept i s (.refused r) := by rintro _ ⟨⟩

/-- A command that goes through shared operations alone. -/
theorem event (k : s.Kept t) (l : s.Lawful t) (stores : i.keepsMemory = false := by rfl) :
    Answer.LanesKept i s (.next t.finishEvent) := next ((State.LanesKept.of_kept stores k l).finishEvent stores)

/-- A command whose own work keeps the stations. -/
theorem eventOf (h : s.LanesKept i t) (stores : i.keepsMemory = false := by rfl) :
    Answer.LanesKept i s (.next t.finishEvent) := next (h.finishEvent stores)

end Answer.LanesKept

section

variable (s : State)

/-! ### The card (R194, R205 to R207) -/

/-- A station that is OFFLINE with no work is legal. -/
theorem Station.Legal.blank {t : Station} (state : t.state = .offline) (power : t.power = false)
    (labelOut : t.labelOut = false) (motor : t.motor = false) (feed : t.feed = none) (drive : t.drive = none)
    (wakeTimer : t.wakeTimer = none) (checkDue : t.checkDue = false) (applyTimer : t.applyTimer = none)
    (parkTimer : t.parkTimer = none) (printDeadline : t.printDeadline = none)
    (returnState : t.returnState = none) : t.Legal := by
  simp [Station.Legal, Station.powerLegal, Station.workLegal, *]

theorem lanesKept_execHardwareReset : (execHardwareReset s).LanesKept .hardwareReset s := by
  refine .next ⟨⟨fun n _ => ?_⟩, fun n => ?_, fun n _ => ?_, fun _ _ => rfl⟩
  · cases n <;> exact .blank rfl rfl rfl rfl rfl rfl rfl rfl rfl rfl rfl rfl
  · exact ⟨nofun, nofun, nofun, nofun, nofun⟩
  · cases n <;> exact Nat.zero_le 4

theorem lanesKept_loaded (cfg : CardConfig) (defaulted : Bool) (i : Instr) :
    s.LanesKept i (s.loaded cfg defaulted) := by
  refine ⟨⟨fun n => ?_⟩, fun n => ?_, fun n => ?_, fun _ _ => rfl⟩
  · cases n <;> exact id
  · cases n <;> exact ⟨fun _ => rfl, fun _ => rfl, fun _ => ⟨rfl, rfl⟩, fun _ => ⟨rfl, rfl⟩,
      fun _ => ⟨rfl, rfl, rfl, rfl⟩⟩
  · cases n <;> exact id

theorem lanesKept_execConfigRomLoadEnd (rom : Option (List Byte)) :
    (execConfigRomLoadEnd rom s).LanesKept (.configRomLoadEnd rom) s := by
  unfold execConfigRomLoadEnd
  split
  · exact .refused _
  split
  · exact .same
  split
  · exact .next (lanesKept_loaded ..)
  · exact .next ((lanesKept_loaded ..).trans (.of_sameLanes (storeWork_raise ..).sameLanes fun _ _ => rfl))

theorem lanesKept_execEngineReset (w : Word) : (execEngineReset w s).LanesKept (.engineReset w) s := by
  have memory : s.SameMemory s.engineReset := fun x => by
    have records : s.resetRecords.readByte x = s.readByte x := by
      rw [resetRecords_eq]
      exact (tableWork_raiseReferrers _ _).sameMemory x
    exact records
  unfold execEngineReset
  split
  · refine .next ⟨⟨fun n _ => ?_⟩, fun n => ?_, fun n _ => ?_, fun _ => memory⟩
    · rw [station_engineReset]
      exact .blank rfl rfl rfl rfl rfl rfl rfl rfl rfl rfl rfl rfl
    · rw [station_engineReset]
      exact ⟨nofun, nofun, fun _ => ⟨rfl, rfl⟩, fun _ => ⟨rfl, rfl⟩, nofun⟩
    · rw [station_engineReset]
      exact Nat.zero_le 4
  · exact .same

/-! ### The register window (R83, R86, R87, R95 to R98, R102, R193 to R204) -/

theorem lanesKept_execRingStart (c : Chan) (w : Word) : (execRingStart c w s).LanesKept (.ringStart c w) s := by
  unfold execRingStart
  split
  · refine .next ?_
    unfold startRing
    dsimp only
    split
    · split
      · exact .of_chanWork (chanWork_updChan ..)
      · exact .of_chanWork ((chanWork_updChan ..).trans (chanWork_settleBus _))
    · exact .refl s
  · exact .same

theorem lanesKept_stopLoad (d : List Byte) (k : Nat) (i : Instr) : s.LanesKept i (s.stopLoad d k) := by
  have pending : s.ChanWork (s.setStopPending .control) := chanWork_updChan ..
  unfold stopLoad
  dsimp only
  split
  · exact .of_chanWork (pending.trans (chanWork_setWork ..))
  · exact ((State.LanesKept.of_chanWork (pending.trans (chanWork_updChan ..))).trans
      (.of_tableWork (tableWork_dropLoading_any _ (ctlHandle d)))).trans
      (.of_chanWork (chanWork_setWork _ .control _))

theorem chanWork_stopIdle (c : Chan) : s.ChanWork (s.stopIdle c) := by
  unfold stopIdle
  split
  · exact (chanWork_updChan ..).trans (chanWork_updChan ..)
  · exact chanWork_stopChannel ..

theorem lanesKept_execRingStop (c : Chan) (w : Word) : (execRingStop c w s).LanesKept (.ringStop c w) s := by
  unfold execRingStop
  split
  · refine .next ?_
    unfold stopRing
    split
    · exact .refl s
    · exact .of_chanWork (chanWork_stopIdle s c)
    · exact .of_chanWork (chanWork_stopChannel ..)
    split
    · unfold stopHand
      split
      · exact (lanesKept_stopLoad ..).settleBus
      · exact .of_chanWork (chanWork_updChan ..)
    · exact .of_chanWork (chanWork_stopIdle s c)
  · exact .same

theorem lanesKept_execPollDemand (w : Word) : (execPollDemand w s).LanesKept (.pollDemand w) s :=
  .next (.of_chanWork ((chanWork_pollNamed s w).trans (chanWork_settleBus _)))

theorem lanesKept_execSetAutoPollInterval (w : Word) :
    (execSetAutoPollInterval w s).LanesKept (.setAutoPollInterval w) s := by
  have interval : s.LanesKept (.setAutoPollInterval w) { s with autoPoll := ctlAutoPoll w } :=
    .of_sameLanes (.refl s) fun _ _ => rfl
  have repolled (start : Option Word) (l : List Chan) (x : State) :
      x.ChanWork (l.foldl (fun x c => x.updChan c fun ch => ch.repoll start) x) :=
    .foldl (fun x c => chanWork_updChan x c _) l x
  unfold execSetAutoPollInterval
  split
  · exact .next (interval.trans (.of_chanWork (repolled ..)))
  · exact .same

theorem lanesKept_execSetArbiterMode (w : Word) : (execSetArbiterMode w s).LanesKept (.setArbiterMode w) s := by
  unfold execSetArbiterMode
  split
  · exact .next (.of_sameLanes (.refl s) fun _ _ => rfl)
  · exact .same

theorem lanesKept_execRingBaseWrite (c : Chan) (v : Word) :
    (execRingBaseWrite c v s).LanesKept (.ringBaseWrite c v) s := by
  unfold execRingBaseWrite
  split
  · exact .next (.of_chanWork (chanWork_updChan ..))
  · exact .same

theorem lanesKept_execRingSizeWrite (c : Chan) (v : Word) :
    (execRingSizeWrite c v s).LanesKept (.ringSizeWrite c v) s := by
  unfold execRingSizeWrite
  split
  · exact .next (.of_chanWork (chanWork_updChan ..))
  · exact .same

theorem lanesKept_execRingFetchIndexWrite (c : Chan) (v : Word) :
    (execRingFetchIndexWrite c v s).LanesKept (.ringFetchIndexWrite c v) s := by
  unfold execRingFetchIndexWrite
  split
  · exact .next (.of_chanWork (chanWork_updChan ..))
  · exact .same

theorem lanesKept_execInspectionDataRead (lanes : BitVec 4) :
    (execInspectionDataRead lanes s).LanesKept (.inspectionDataRead lanes) s := by
  unfold execInspectionDataRead
  split
  · exact .refused _
  · exact .next (.of_sameLanes (.refl s) fun _ _ => rfl)

theorem lanesKept_execStatusARead (n : StationNo) (lanes : BitVec 4) :
    (execStatusARead n lanes s).LanesKept (.statusARead n lanes) s := by
  have read : s.LanesKept (.statusARead n lanes) { s with readData := s.statusA n &&& laneMask lanes } :=
    .of_sameLanes (.refl s) fun _ _ => rfl
  unfold execStatusARead
  split
  · exact .refused _
  · refine .next (read.trans (.updStation n id ⟨fun _ => rfl, fun _ => rfl, fun _ => ⟨rfl, rfl⟩,
      fun _ => ⟨rfl, rfl⟩, fun sets => ?_⟩ id))
    cases sets

theorem lanesKept_execRegisterWriteIgnored (o : BitVec 8) (lanes : BitVec 4) (v : Word) :
    (execRegisterWriteIgnored o lanes v s).LanesKept (.registerWriteIgnored o lanes v) s := by
  unfold execRegisterWriteIgnored
  split
  · exact .refused _
  · exact .same

/-! ### Station commands (R151 to R156) -/

/-- A station command, whose own rule keeps the stations (R151). -/
theorem lanesKept_stationCommand (n : StationNo) (code : BitVec 4) {act : State → CommandOutcome} {i : Instr}
    (records : i.recordsCommand = true) (h : s.LanesKept i (act s).2) :
    Answer.LanesKept i s (.next (s.stationCommand n code act)) := by
  have recorded (x : State) (r : CommandResult) : x.LanesKept i (x.recordCommand n code r) :=
    .updStation n id ⟨fun _ => rfl, fun _ => rfl, fun _ => ⟨rfl, rfl⟩,
      fun e => (nomatch records.symm.trans e), fun _ => ⟨rfl, rfl, rfl, rfl⟩⟩ id
  refine .next ?_
  unfold stationCommand
  dsimp only
  split
  · exact recorded ..
  split
  · exact recorded ..
  · exact h.trans (recorded ..)

theorem State.Lawful.done {s t : State} (l : s.Lawful t) : s.Lawful t.done.2 := by
  simp only [State.done]
  exact l.trans (lawful_finishEvent t)

variable (n : StationNo)

theorem lawful_setHold (b : Bool) : s.Lawful (s.updStation n fun t => { t with holdPending := b }) :=
  lawful_updStation s n id

theorem lawful_hold : s.Lawful (s.hold n).2 := by
  unfold hold
  cases (s.station n).state
  case idle | parked => exact (lawful_enterHeld ..).done
  case waking => exact ((Lawful.of_station (station_abortCheck s n true)).trans (lawful_enterHeld ..)).done
  case printing | presenting | ejecting | calibrating => exact lawful_setHold ..
  case held | offline | fault | checking => exact .refl s

theorem lawful_leaveRest : s.Lawful (s.leaveRest n).2 := by
  unfold leaveRest
  split
  · exact (lawful_enter ..).done
  · exact (lawful_wakeUp ..).done

theorem lawful_resume : s.Lawful (s.resume n).2 := by
  unfold resume
  cases (s.station n).state
  case held => exact lawful_leaveRest s n
  case fault =>
    dsimp only
    split
    · exact .refl s
    split
    · exact .refl s
    · exact lawful_leaveRest s n
  case printing | presenting | ejecting | calibrating => exact lawful_setHold ..
  case parked | waking | idle | checking | offline => exact .refl s

theorem lawful_flushQueues : s.Lawful (s.flushQueues n) :=
  (lawful_updStation s n Station.Legal.withoutDeadline).trans (lawful_abandonAll ..)

theorem lawful_flush : s.Lawful (s.flush n).2 := by
  have flushed := lawful_flushQueues s n
  unfold flush
  cases (s.station n).state
  case printing => exact (flushed.trans (lawful_startEject ..)).done
  case presenting => exact (flushed.trans (lawful_enterRest ..)).done
  case parked | waking | idle | ejecting | checking | held | fault => exact flushed.done
  case offline | calibrating => exact .refl s

theorem lawful_wake : s.Lawful (s.wake n).2 := by
  unfold wake
  cases (s.station n).state
  case parked => exact (lawful_wakeUp ..).done
  all_goals exact .refl s

theorem lawful_park : s.Lawful (s.park n).2 := by
  unfold park
  split
  · exact (lawful_enter ..).done
  · exact .refl s

theorem lanesKept_execStationCommandBadCode (v : Word) :
    (execStationCommandBadCode n v s).LanesKept (.stationCommandBadCode n v) s := by
  unfold execStationCommandBadCode
  split
  · exact .refused _
  · exact lanesKept_stationCommand s n _ rfl (.refl s)

/-! ### Commands of RCH-C (R14 to R26, R132, R159, R174, R183) -/

theorem chanWork_refuseRecord (h : Nat) (r : Status × List CompletionField) :
    s.ChanWork (s.refuseRecord h r) := chanWork_setWork s .control _

theorem lanesKept_takeDefine (d : List Byte) (i : Instr) : s.LanesKept i (s.takeDefine d) := by
  unfold takeDefine
  split
  · exact .of_chanWork (chanWork_refuseRecord ..)
  split
  · exact .of_chanWork (chanWork_refuseRecord ..)
  · next granted =>
    exact (State.LanesKept.of_tableWork ((tableWork_allocate granted).trans (tableWork_setRecord ..))).trans
      (.of_chanWork (chanWork_setWork ..))

theorem lanesKept_takeAmend (d : List Byte) (i : Instr) : s.LanesKept i (s.takeAmend d) := by
  unfold takeAmend
  split
  · exact .of_chanWork (chanWork_refuseRecord ..)
  split
  · exact .of_chanWork (chanWork_refuseRecord ..)
  · next granted =>
    exact (State.LanesKept.of_tableWork ((tableWork_allocate granted).trans (tableWork_setRecord ..))).trans
      (.of_chanWork (chanWork_setWork ..))

theorem lanesKept_takeRetire (d : List Byte) (i : Instr) : s.LanesKept i (s.takeRetire d) := by
  unfold takeRetire
  dsimp only
  split
  · exact .of_chanWork (chanWork_refuseRecord ..)
  split
  · exact (State.LanesKept.of_tableWork (tableWork_freeRecord ..)).trans (.of_chanWork (chanWork_setWork ..))
  · exact (State.LanesKept.of_tableWork (tableWork_setRecord ..)).trans (.of_chanWork (chanWork_setWork ..))

theorem chanWork_takeQuery (d : List Byte) : s.ChanWork (s.takeQuery d) := by
  unfold takeQuery
  dsimp only
  split
  · exact chanWork_refuseRecord ..
  · exact chanWork_setWork ..

theorem lanesKept_execDefine : (execDefine s).LanesKept .define s := by
  unfold execDefine
  split
  · exact .same
  · exact .next (lanesKept_takeDefine ..).settleBus

theorem lanesKept_execAmend : (execAmend s).LanesKept .amend s := by
  unfold execAmend
  split
  · exact .same
  · exact .next (lanesKept_takeAmend ..).settleBus

theorem lanesKept_execRetire : (execRetire s).LanesKept .retire s := by
  unfold execRetire
  split
  · exact .same
  · exact .next (lanesKept_takeRetire ..).settleBus

theorem lanesKept_execQuery : (execQuery s).LanesKept .query s := by
  unfold execQuery
  split
  · exact .same
  · exact .next (.of_chanWork ((chanWork_takeQuery ..).trans (chanWork_settleBus _)))

/-- The answer to the command in hand. -/
theorem lanesKept_outcome (b : List Byte) (i : Instr) : s.LanesKept i (s.outcome b) :=
  .of_chanWork (chanWork_setWork ..)

variable (n : StationNo)

theorem lawful_leaveOffline : s.Lawful (s.leaveOffline n) := by
  unfold leaveOffline
  split
  · refine ((lawful_setStock ..).trans (lawful_enterFault ..)).trans (lawful_updStation _ n fun l => ?_)
    have fault := (station_enterFault (s.setStock n false false) n .headOpen).1
    refine ⟨?_, l.2⟩
    simp only [Station.powerLegal, fault]
  · exact (lawful_setStock ..).trans (lawful_enter ..)

theorem kept_leaveOffline : s.Kept (s.leaveOffline n) := by
  unfold leaveOffline
  split
  · exact ((kept_setStock ..).trans (kept_enterFault ..)).trans (kept_updStation _ n _ (by constructor <;> rfl))
  · exact (kept_setStock ..).trans (kept_enter ..)

theorem lanesKept_takeProfile (p : Profile) (bytes : List Byte) :
    s.LanesKept (.setProfile bytes) (s.takeProfile n p) := by
  have profile : s.LanesKept (.setProfile bytes) (s.updStation n fun t => t.newProfile p) := by
    refine .updStation n (fun l => l.withoutParkTimer) ⟨fun sets => ?_, fun _ => rfl, fun _ => ⟨rfl, rfl⟩,
      fun _ => ⟨rfl, rfl⟩, fun _ => ⟨rfl, rfl, rfl, rfl⟩⟩ fun bound => ?_
    · cases sets
    · unfold Station.newProfile
      dsimp only
      split
      · exact Nat.zero_le 4
      · exact bound
  unfold takeProfile
  dsimp only
  split
  · exact profile.trans (.of_kept rfl (kept_leaveOffline ..) (lawful_leaveOffline ..))
  · exact profile

theorem lanesKept_execSetProfile (bytes : List Byte) :
    (execSetProfile bytes s).LanesKept (.setProfile bytes) s := by
  unfold execSetProfile
  split
  · exact .refused _
  split
  · exact .same
  split
  · exact .same
  · refine .eventOf (State.LanesKept.trans (.of_chanWork (chanWork_endTransfer s .control)) ?_)
    unfold giveProfile
    split
    · exact lanesKept_outcome ..
    · exact (lanesKept_takeProfile ..).trans (lanesKept_outcome ..)

theorem lanesKept_execSetLimits : (execSetLimits s).LanesKept .setLimits s := by
  unfold execSetLimits
  split
  · exact .same
  split
  · exact .same
  · refine .eventOf ?_
    unfold takeLimits
    split
    · exact lanesKept_outcome ..
    · refine (State.LanesKept.trans ?_ (lanesKept_outcome ..)).trans
        (.of_kept rfl (kept_releasePaused ..) (lawful_releasePaused ..))
      refine .updStation _ id ⟨fun _ => rfl, fun sets => ?_, fun _ => ⟨rfl, rfl⟩, fun _ => ⟨rfl, rfl⟩,
        fun _ => ⟨rfl, rfl, rfl, rfl⟩⟩ id
      cases sets

theorem lawful_takeCalibrate : s.Lawful (s.takeCalibrate n) := by
  unfold takeCalibrate
  split
  · exact .of_sameLanes (chanWork_setWork ..).sameLanes
  · have calibrating : s.Lawful ((s.updStation n fun t =>
        { t with returnState := some (s.station n).state.asReturn, sinceEdge := 0 }).enter n .calibrating) := by
      rw [enter, updStation_updStation]
      exact lawful_updStation s n fun _ => .enter ..
    refine (calibrating.trans (.of_sameLanes (chanWork_setWork ..).sameLanes)).trans
      (lawful_beginCalibrating _ n 0 0 fun _ => ?_)
    simp only [setWork, enter, station_updChan, station_updStation]
    rfl

theorem lanesKept_execCalibrate : (execCalibrate s).LanesKept .calibrate s := by
  unfold execCalibrate
  split
  · exact .same
  split
  · exact .same
  · exact .event (kept_takeCalibrate ..) (lawful_takeCalibrate ..)

theorem lawful_takeDotcheck : s.Lawful (s.takeDotcheck n) := by
  unfold takeDotcheck
  split
  · exact .of_sameLanes (chanWork_setWork ..).sameLanes
  · exact (Lawful.of_sameLanes (chanWork_setWork ..).sameLanes).trans (lawful_beginCheck ..)

theorem lanesKept_execDotcheck : (execDotcheck s).LanesKept .dotcheck s := by
  unfold execDotcheck
  split
  · exact .same
  split
  · exact .same
  · exact .event (kept_takeDotcheck ..) (lawful_takeDotcheck ..)

/-! ### The ends of transfers (R85 to R88, R92 to R94, R99, R100, R111) -/

theorem lawful_joinLabel (l : Label) : s.Lawful (s.joinLabel n l) := by
  have joined : s.Lawful (s.join n l) := by
    have queued : s.Lawful (s.queued n l) := ⟨(lawful_updStation s n (f := fun t => { t with
      queue := t.queue ++ [l.joined s.nextStamp], fetching := none, parkTimer := none })
      fun h => h.withoutParkTimer).legal⟩
    exact queued.trans (.of_sameLanes (chanWork_join s n l).sameLanes)
  unfold joinLabel
  dsimp only
  split
  · exact joined.trans (lawful_wakeUp ..)
  · exact joined

theorem lawful_acceptLabel (d : List Byte) (index : Nat) : s.Lawful (s.acceptLabel n d index) := by
  unfold acceptLabel
  split
  · exact .of_sameLanes (chanWork_setWork ..).sameLanes
  split
  · exact .of_sameLanes (chanWork_setWork ..).sameLanes
  · next granted =>
    have pinned (hs : List Nat) := Lawful.of_sameLanes
      ((tableWork_allocate granted).trans (tableWork_pinAll hs _)).sameLanes
    dsimp only
    split
    · exact (pinned _).trans (lawful_joinLabel ..)
    · exact (pinned _).trans (lawful_updStation _ n id)

theorem lanesKept_fetchEnded (c : Chan) (d : List Byte) :
    s.LanesKept (.descriptorFetchEnd c d) (s.fetchEnded c d) := by
  unfold fetchEnded
  split
  · exact .of_chanWork (chanWork_stopChannel ..)
  split
  · unfold takeDescriptor takeHand
    split
    · exact .of_chanWork (chanWork_updChan ..)
    · dsimp only
      split
      · exact (State.LanesKept.of_chanWork (chanWork_updChan ..)).trans
          (.of_kept rfl (kept_acceptLabel ..) (lawful_acceptLabel ..))
      · exact .of_chanWork (chanWork_updChan ..)
  · unfold foundHost
    dsimp only
    split
    · exact .of_chanWork (chanWork_updChan ..)
    split
    · exact .of_chanWork (chanWork_updChan ..)
    · exact .of_kept rfl (kept_suspend ..)
        ((Lawful.of_sameLanes (chanWork_updChan s c _).sameLanes).trans (.of_storeWork (storeWork_raise ..)))

theorem lanesKept_execDescriptorFetchEnd (c : Chan) (bytes : List Byte) :
    (execDescriptorFetchEnd c bytes s).LanesKept (.descriptorFetchEnd c bytes) s := by
  unfold execDescriptorFetchEnd
  split
  · exact .refused _
  split
  · exact .eventOf (State.LanesKept.trans (.of_chanWork (chanWork_endTransfer ..)) (lanesKept_fetchEnded ..))
  · exact .same

end

end Sys2Proof.Machine
end

section
/-! The ends of transfers, composition, and the events of the lanes: what each keeps at the stations, and with it what
every step keeps. -/

namespace Sys2Proof.Machine

open State

section

variable (s : State) (n : StationNo)

/-! ### The ends of transfers (R85 to R88, R92 to R94, R99, R100, R111) -/

theorem lawful_abortLoad (d : List Byte) : s.Lawful (s.abortLoad d) :=
  (Lawful.of_sameLanes (tableWork_dropLoading_any s (ctlHandle d)).sameLanes).trans
    (.of_sameLanes (chanWork_setWork _ .control _).sameLanes)

theorem lawful_storeBurst (h : Nat) (b : LoadingBody) (k : Nat) (bytes : List Byte) :
    s.Lawful (s.storeBurst h b k bytes) :=
  (Lawful.of_storeWork (storeWork_writeContents ..)).trans (.of_sameLanes (tableWork_setRecord ..).sameLanes)

theorem lawful_completeLoad (h : Nat) (k : Kind) (b : LoadingBody) : s.Lawful (s.completeLoad h k b) := by
  have answered (x : State) (bytes : List Byte) : x.Lawful (x.outcome bytes) :=
    .of_sameLanes (chanWork_setWork x .control _).sameLanes
  unfold completeLoad
  dsimp only
  split
  · exact (Lawful.of_sameLanes (tableWork_dropLoading_any ..).sameLanes).trans (answered ..)
  split
  · exact (Lawful.of_sameLanes ((tableWork_setRecord ..).trans (tableWork_raiseReferrers ..)).sameLanes).trans
      (answered ..)
  split
  · exact (Lawful.of_sameLanes ((tableWork_setRecord ..).trans (tableWork_freeBody? ..)).sameLanes).trans
      (answered ..)
  · unfold completeAmend
    dsimp only
    split
    · exact (Lawful.of_sameLanes ((tableWork_setRecord ..).trans
        (tableWork_raiseReferrers ..)).sameLanes).trans (answered ..)
    · exact (Lawful.of_sameLanes (((tableWork_setRecord ..).trans (tableWork_freeBody? ..)).trans
        (tableWork_raiseReferrers ..)).sameLanes).trans (answered ..)

theorem lawful_burstEnded (h : Nat) (b : LoadingBody) (k : Nat) (bytes : List Byte) :
    s.Lawful (s.burstEnded h b k bytes) := by
  have stored := lawful_storeBurst s h b k bytes
  unfold burstEnded
  dsimp only
  split
  · split
    · exact stored.trans (lawful_completeLoad ..)
    · exact stored
  · exact stored.trans (.of_sameLanes (chanWork_setWork ..).sameLanes)

theorem lawful_endTransfer (c : Chan) : s.Lawful (s.endTransfer c) :=
  .of_sameLanes (chanWork_endTransfer s c).sameLanes

theorem lanesKept_execBodyBurstEnd (bytes : List Byte) :
    (execBodyBurstEnd bytes s).LanesKept (.bodyBurstEnd bytes) s := by
  have ended := kept_endTransfer s .control
  have lawful := lawful_endTransfer s .control
  unfold execBodyBurstEnd
  split
  · exact .refused _
  split
  · exact .same
  split
  · exact .same
  split
  · exact .same
  split
  · exact .refused _
  split
  · exact .event (ended.trans (kept_abortLoad ..)) (lawful.trans (lawful_abortLoad ..))
  split
  · exact .fault _
  · exact .event (ended.trans (kept_burstEnded ..)) (lawful.trans (lawful_burstEnded ..))

theorem lawful_dataTransferEnded (l : Label) (k : Nat) (bytes : List Byte) :
    s.Lawful (s.dataTransferEnded n l k bytes) := by
  have written := Lawful.of_storeWork (storeWork_writeContents l.dataBlocks bytes s (256 * k))
  unfold dataTransferEnded
  dsimp only
  split
  · unfold dataEnded
    split
    · exact written.trans (lawful_joinLabel ..)
    · exact (written.trans (lawful_discardFetching ..)).trans (.of_sameLanes (chanWork_setWork ..).sameLanes)
  · exact written.trans (.of_sameLanes (chanWork_setWork ..).sameLanes)

theorem lanesKept_execLabelDataTransferEnd (bytes : List Byte) :
    (execLabelDataTransferEnd n bytes s).LanesKept (.labelDataTransferEnd n bytes) s := by
  unfold execLabelDataTransferEnd
  split
  · exact .refused _
  split
  · exact .same
  split
  · split
    · exact .refused _
    split
    · exact .fault _
    · exact .event ((kept_endTransfer ..).trans (kept_dataTransferEnded ..))
        ((lawful_endTransfer ..).trans (lawful_dataTransferEnded ..))
  · exact .same
  · exact .same

/-- A completion write that ends touches the channels and raises a cause. -/
theorem lanesKept_writeOut (c : Chan) (i : Nat) (bytes : List Byte) (j : Instr)
    (stores : j.keepsMemory = false) :
    s.LanesKept j (((s.deliver c i bytes).endTransfer c).raise (doneCause c)) :=
  .of_kept stores (kept_delivered ..) ((Lawful.of_sameLanes ((chanWork_updChan s c _).trans
    (chanWork_endTransfer _ c)).sameLanes).trans (.of_storeWork (storeWork_raise ..)))

theorem lanesKept_execCompletionWriteEnd (c : Chan) :
    (execCompletionWriteEnd c s).LanesKept (.completionWriteEnd c) s := by
  unfold execCompletionWriteEnd
  split
  · split
    · exact .eventOf ((lanesKept_writeOut s c _ _ _ rfl).trans
        (.of_chanWork ((chanWork_dropHand ..).trans (chanWork_retestFull ..))))
    · exact .same
  split
  · split
    · exact .eventOf ((lanesKept_writeOut s c _ _ _ rfl).trans
        (.of_chanWork ((chanWork_updChan ..).trans (chanWork_retestFull ..))))
    · exact .same
  · exact .same

theorem lanesKept_failWork (c : Chan) {undo : State → List Byte → State} {j : Instr}
    (h : ∀ d, s.LanesKept j (undo s d)) : s.LanesKept j (s.failWork c undo) := by
  unfold failWork
  split
  · exact (h _).trans (.of_chanWork (chanWork_failHand ..))
  · exact .of_chanWork (chanWork_stopFailed ..)

theorem lanesKept_discardAt (c : Chan) : s.LanesKept (.transferBusError c) (s.discardAt c) := by
  cases c with
  | control => exact .refl s
  | station n => exact .of_kept rfl (kept_discardFetching ..) (lawful_discardFetching ..)

theorem lanesKept_transferFailed (c : Chan) (x : Xfer) :
    s.LanesKept (.transferBusError c) (s.transferFailed c x) := by
  cases x with
  | fetch => exact .of_chanWork (chanWork_stopFailed ..)
  | burst => exact lanesKept_failWork s c (undo := fun s d => s.dropLoading (ctlHandle d)) fun _ =>
      .of_tableWork (tableWork_dropLoading_any ..)
  | profile => exact lanesKept_failWork s c (undo := fun s _ => s) fun _ => .refl s
  | data => exact lanesKept_failWork s c (undo := fun s _ => s.discardAt c) fun _ => lanesKept_discardAt s c
  | handCompletion => exact .of_chanWork ((chanWork_updChan ..).trans (chanWork_stopFailed ..))
  | pendingCompletion =>
    unfold transferFailed
    dsimp only
    split
    · unfold stopAfterHand
      split
      · exact .of_chanWork ((chanWork_updChan ..).trans (chanWork_updChan ..))
      · exact .of_chanWork ((chanWork_updChan ..).trans (chanWork_stopFailed ..))
    · exact .of_chanWork (chanWork_stopFailed ..)

theorem lanesKept_raiseRingError (again : Bool) (i : Instr) (stores : i.keepsMemory = false) :
    s.LanesKept i (s.raiseRingError again) := by
  unfold raiseRingError
  split
  · exact .refl s
  · exact .of_kept stores (kept_raise ..) (.of_storeWork (storeWork_raise ..))

theorem lanesKept_execTransferBusError (c : Chan) :
    (execTransferBusError c s).LanesKept (.transferBusError c) s := by
  unfold execTransferBusError
  split
  · split
    · have failed (x : Xfer) : s.LanesKept (.transferBusError c) ((s.endTransfer c).transferFailed c x) :=
        (State.LanesKept.of_chanWork (chanWork_endTransfer s c)).trans (lanesKept_transferFailed ..)
      exact .eventOf ((failed _).trans (lanesKept_raiseRingError _ _ _ rfl))
    · exact .same
  · exact .same

theorem lanesKept_execAutoPollExpiry (c : Chan) : (execAutoPollExpiry c s).LanesKept (.autoPollExpiry c) s := by
  unfold execAutoPollExpiry
  split
  · split
    · exact .next ((State.LanesKept.reachTime _).trans (.of_chanWork (chanWork_updChan ..))).settleBus
    · exact .same
  · exact .same
  · exact .same

/-! ### Composition and finish (R117 to R126) -/

theorem lawful_endMarked (j : Job) (st : Status) : s.Lawful (s.endMarked j st) := by
  have failed : s.Lawful (s.failMarked j st) := ⟨(lawful_updStation s j.station (f := fun t =>
    { t with queue := t.queue.map (Label.ended j.ctx st) }) id).legal⟩
  rw [endMarked_eq]
  split
  · exact failed.trans (lawful_finishHead ..)
  · exact failed

theorem lawful_writeEntries (blocks : List Nat) (es : List Element) :
    ∀ (s : State) (e : Nat), s.Lawful (s.writeEntries blocks e es) := by
  have bytes (a : Nat) (x : Element) (k : Nat) : ∀ (s : State) (j : Nat),
      (s.writeEntryFrom a x k j).stations = s.stations := by
    induction k with
    | zero => exact fun _ _ => rfl
    | succ k ih => exact fun s j => ih _ _
  induction es with
  | nil => exact fun s _ => .refl s
  | cons x es ih =>
    refine fun s e => Lawful.trans (.of_station fun n => ?_) (ih _ _)
    unfold writeEntry
    split
    · rw [State.station, bytes]
      rfl
    · rfl

theorem lanesKept_execComposerFieldStep : (execComposerFieldStep s).LanesKept .composerFieldStep s := by
  unfold execComposerFieldStep
  split
  · exact .same
  split
  · exact .same
  split
  · exact .event (kept_endMarked ..) (lawful_endMarked ..)
  split
  · exact .event (kept_rejectField ..) ((lawful_updLabel ..).trans (.of_station fun _ => rfl))
  split
  · exact .fault _
  · exact .event (kept_placeField ..)
      (((lawful_writeEntries ..).trans (lawful_updLabel ..)).trans (.of_station fun _ => rfl))

theorem lanesKept_execComposerComplete : (execComposerComplete s).LanesKept .composerComplete s := by
  unfold execComposerComplete
  split
  · exact .same
  split
  · exact .same
  split
  · exact .event (kept_endMarked ..) (lawful_endMarked ..)
  split
  · exact .fault _
  · exact .event (kept_completeLabel ..)
      (((lawful_writeEntries ..).trans (lawful_updLabel ..)).trans (.of_station fun _ => rfl))

theorem lanesKept_execMarkedHeadFinish : (execMarkedHeadFinish n s).LanesKept (.markedHeadFinish n) s := by
  unfold execMarkedHeadFinish
  split
  · exact .event (kept_finishHead ..) (lawful_finishHead ..)
  · exact .same

/-! ### Triggers and their expiries (R134 to R138) -/

theorem lanesKept_joinTrigger (i : Instr) (stores : i.keepsMemory = false) :
    s.LanesKept i (s.joinTrigger n) := by
  unfold joinTrigger
  dsimp only
  split
  · exact .of_kept stores (kept_overrun ..) (lawful_overrun ..)
  · next room =>
    exact .updStation n id ⟨fun _ => rfl, fun _ => rfl, fun _ => ⟨rfl, rfl⟩, fun _ => ⟨rfl, rfl⟩,
      fun _ => ⟨rfl, rfl, rfl, rfl⟩⟩ fun _ => by
        rw [List.length_append]
        exact Nat.lt_of_not_le room

theorem lanesKept_arrive (i : Instr) (stores : i.keepsMemory = false) : s.LanesKept i (s.arrive n) := by
  unfold arrive
  cases (s.station n).state
  case idle | printing | presenting | ejecting | checking | calibrating | waking =>
    exact lanesKept_joinTrigger s n i stores
  case parked =>
    dsimp only
    split
    · exact .of_kept stores (kept_overrun ..) (lawful_overrun ..)
    · exact (lanesKept_joinTrigger s n i stores).trans (.of_kept stores (kept_wakeUp ..) (lawful_wakeUp ..))
  case held | fault => exact .of_kept stores (kept_skipOne ..) (lawful_skipOne ..)
  case offline => exact .refl s

/-- The filter timer is no item that these commands keep. -/
theorem lanesKept_filterTimer (timer : Option Word) (i : Instr) :
    s.LanesKept i (s.updStation n fun t => { t with filterTimer := timer }) :=
  .updStation_same n (by constructor <;> rfl) id

theorem lanesKept_execTriggerLevelChange (high : Bool) :
    (execTriggerLevelChange n high s).LanesKept (.triggerLevelChange n high) s := by
  have level : s.LanesKept (.triggerLevelChange n high) (s.updStation n fun t => { t with triggerHigh := high }) := by
    refine .updStation n id ⟨fun _ => rfl, fun _ => rfl, fun _ => ⟨rfl, rfl⟩, fun _ => ⟨rfl, rfl⟩,
      fun sets => ?_⟩ id
    cases sets
  unfold execTriggerLevelChange
  split
  · exact .same
  refine .next ?_
  unfold triggerChanged
  dsimp only
  split
  · exact level
  split
  · split
    · split
      · exact (level.trans (lanesKept_arrive _ n _ rfl)).finishEvent rfl
      · exact level.trans (lanesKept_filterTimer ..)
    · exact level
  · exact level.trans (lanesKept_filterTimer ..)

theorem lanesKept_execTriggerArrival : (execTriggerArrival n s).LanesKept (.triggerArrival n) s := by
  unfold execTriggerArrival
  split
  · exact .eventOf (((State.LanesKept.reachTime _).trans (lanesKept_filterTimer ..)).trans
      (lanesKept_arrive _ n _ rfl))
  · exact .same
  · exact .same

theorem lawful_dropTrigger (k : Nat) : s.Lawful (s.dropTrigger n k) := lawful_updStation s n id

theorem lawful_expireEntry (k : Nat) (l : Label) : s.Lawful (s.expireEntry n k l) := by
  unfold expireEntry
  dsimp only
  split
  · exact (lawful_dropTrigger ..).trans (lawful_finishHead ..)
  · exact (lawful_dropTrigger ..).trans (lawful_abandon ..)

theorem lanesKept_execLastStartExpiry (k : Nat) :
    (execLastStartExpiry n k s).LanesKept (.lastStartExpiry n k) s := by
  unfold execLastStartExpiry
  split
  · exact .refused _
  split
  · exact .eventOf ((State.LanesKept.reachTime _).trans
      (.of_kept rfl (kept_expireEntry ..) (lawful_expireEntry ..)))
  · exact .same
  · exact .same

theorem lanesKept_execDeadlineExpiry (k : Nat) :
    (execDeadlineExpiry n k s).LanesKept (.deadlineExpiry n k) s := by
  unfold execDeadlineExpiry
  split
  · exact .refused _
  split
  · exact .eventOf ((State.LanesKept.reachTime _).trans
      (.of_kept rfl ((kept_dropTrigger ..).trans (kept_raise ..))
        ((lawful_dropTrigger ..).trans (.of_storeWork (storeWork_raise ..)))))
  · exact .same
  · exact .same

/-! ### Lines, strobes and edges (R144, R145, R155, R160, R164, R169) -/

/-- A drive that goes on with its line stays where it is (R169, R171). -/
theorem Station.Legal.mapDrive {t : Station} (l : t.Legal) (f : Drive → Drive) :
    Station.Legal { t with drive := t.drive.map f } := by
  obtain ⟨power, work⟩ := l
  refine ⟨power, ?_⟩
  simpa only [Station.workLegal, Option.isNone_map] using work

theorem lawful_endPhases : s.Lawful (s.endPhases n) := lawful_updStation s n fun l => l.mapDrive _

theorem lawful_nextLine (k : LineKind) (line : (s.station n).feed ≠ none) : s.Lawful (s.nextLine n k) := by
  have feeds (l : (s.station n).Legal) : (s.station n).state.feeds = true := l.feeds line
  unfold nextLine nextPrinting
  cases k with
  | eject => exact lawful_beginEjecting s n feeds
  | calibrate => exact lawful_beginCalibrating s n _ _ feeds
  | leading =>
    dsimp only
    split <;> exact lawful_beginPrinting s n _ feeds
  | printed =>
    refine (lawful_endPhases s n).trans (lawful_afterPrinted _ n fun l => l.feeds ?_)
    rw [endPhases, station_updStation]
    exact line
  | peel j => exact lawful_afterPeel s n j feeds

theorem lanesKept_execLinePeriodExpiry : (execLinePeriodExpiry n s).LanesKept (.linePeriodExpiry n) s := by
  unfold execLinePeriodExpiry
  split
  · next line =>
    split
    · exact .same
    · exact .event (kept_nextLine ..) (lawful_nextLine s n _ (by rw [line]; nofun))
  · exact .same

theorem lanesKept_execStrobeSubphaseEnd :
    (execStrobeSubphaseEnd n s).LanesKept (.strobeSubphaseEnd n) s :=
  .next (.updStation_same n (by constructor <;> rfl) fun l => l.mapDrive _)

/-- The kind of a line in progress does not bear on what its state may have (R160). -/
theorem Station.Legal.withKind {t : Station} (l : t.Legal) {f : Feed} (line : t.feed = some f) (edge : Nat)
    (k : LineKind) : Station.Legal { t with sinceEdge := edge, feed := some { f with kind := k } } := by
  obtain ⟨power, work⟩ := l
  refine ⟨power, ?_⟩
  simpa only [Station.workLegal, line, Option.isNone_some, Option.any_some] using work

theorem lawful_goodEdge (k : LineKind) : s.Lawful (s.goodEdge n k) := by
  have taken : s.Lawful (s.takeEdge n) := lawful_updStation s n id
  have aligned (x : State) : x.Lawful (x.align n) := lawful_updStation x n id
  cases k with
  | leading => exact taken.trans (aligned _)
  | eject => exact (taken.trans (aligned _)).trans (lawful_enterReturn ..)
  | printed | peel | calibrate => exact taken

theorem lanesKept_calibrationMeasured (pitch : Nat) :
    s.LanesKept (.gapEdge n) (s.calibrationMeasured n pitch) := by
  unfold calibrationMeasured
  split
  · have profile (x : State) : x.LanesKept (.gapEdge n) (x.updStation n fun t =>
        { t with profile := t.profile.map (fun p => { p with pitch := pitch }), sinceEdge := 0 }) := by
      refine .updStation n id ⟨fun sets => ?_, fun _ => rfl, fun _ => ⟨rfl, rfl⟩, fun _ => ⟨rfl, rfl⟩,
        fun _ => ⟨rfl, rfl, rfl, rfl⟩⟩ id
      cases sets
    exact ((State.LanesKept.of_kept rfl (kept_report ..) (.of_station (station_report s _ _))).trans
      (profile _)).trans (.of_kept rfl ((kept_setStock ..).trans (kept_enterReturn ..))
        ((lawful_setStock ..).trans (lawful_enterReturn ..)))
  · exact .of_kept rfl (kept_calibrationFails ..) (lawful_calibrationFails ..)

theorem lanesKept_judgeEdge {f : Feed} (line : (s.station n).feed = some f) :
    s.LanesKept (.gapEdge n) (s.judgeEdge n f) := by
  have judged (k : LineKind) : s.LanesKept (.gapEdge n)
      (if (s.station n).edgeGood then s.goodEdge n k else s.mediaFault n) := by
    split
    · exact .of_kept rfl (kept_goodEdge ..) (lawful_goodEdge ..)
    · exact .of_kept rfl (kept_mediaFault ..) (lawful_mediaFault ..)
  unfold judgeEdge
  split
  · unfold calibrationEdge
    split
    · exact .updStation_same n (by constructor <;> rfl) fun l => l.withKind line 0 _
    · exact lanesKept_calibrationMeasured ..
  · exact judged .leading
  · exact judged .printed
  · exact judged (.peel _)
  · exact judged .eject

theorem lanesKept_execGapEdge : (execGapEdge n s).LanesKept (.gapEdge n) s := by
  unfold execGapEdge
  split
  · next line =>
    split
    · exact .same
    · exact .eventOf (lanesKept_judgeEdge s n line)
  · exact .same

/-! ### Stock, applicator, head and timers (R146, R148 to R150, R157, R158) -/

/-- An input of a lane, for a command that may set it. -/
theorem lanesKept_input {i : Instr} (sets : i.setsInputs = true) {f : Station → Station}
    (profile : (f (s.station n)).profile = (s.station n).profile := by rfl)
    (thermal : (f (s.station n)).thermal = (s.station n).thermal := by rfl)
    (map : (f (s.station n)).map = (s.station n).map ∧ (f (s.station n)).summary = (s.station n).summary := by
      exact ⟨rfl, rfl⟩)
    (command : (f (s.station n)).lastCode = (s.station n).lastCode ∧
      (f (s.station n)).lastResult = (s.station n).lastResult := by exact ⟨rfl, rfl⟩)
    (legal : (s.station n).Legal → (f (s.station n)).Legal := by exact id)
    (triggers : (f (s.station n)).triggers = (s.station n).triggers := by rfl) :
    s.LanesKept i (s.updStation n f) :=
  .updStation n legal ⟨fun _ => profile, fun _ => thermal, fun _ => map, fun _ => command,
    fun e => (nomatch sets.symm.trans e)⟩ fun b => by rw [triggers]; exact b

theorem lanesKept_execMediaPresentFall (active : Bool) :
    (execMediaPresentFall n active s).LanesKept (.mediaPresentFall n active) s := by
  have fell : s.LanesKept (.mediaPresentFall n active) (s.updStation n fun t =>
    { t with mediaPresent := false, mediaLatch := false }) := lanesKept_input s n rfl
  unfold execMediaPresentFall mediaFell
  dsimp only
  split
  · exact .next (lanesKept_input s n rfl)
  split
  · split
    · exact .eventOf (fell.trans (.of_kept rfl (kept_mediaFault ..) (lawful_mediaFault ..)))
    · exact .next fell
  · exact .same

theorem lanesKept_execApplied : (execApplied n s).LanesKept (.applied n) s := by
  unfold execApplied
  split
  · exact .event ((kept_finishHead ..).trans (kept_enterRest ..))
      ((lawful_finishHead ..).trans (lawful_enterRest ..))
  · exact .same

theorem lanesKept_execApplyTimeout : (execApplyTimeout n s).LanesKept (.applyTimeout n) s := by
  unfold execApplyTimeout
  split
  · split
    · exact .eventOf ((State.LanesKept.reachTime _).trans (.of_kept rfl
        ((kept_finishHead ..).trans (kept_enterFault ..))
        ((lawful_finishHead ..).trans (lawful_enterFault ..))))
    · exact .same
  · exact .same
  · exact .same

theorem lanesKept_execHeadOpenActive : (execHeadOpenActive n s).LanesKept (.headOpenActive n) s := by
  have input : s.LanesKept (.headOpenActive n) (s.updStation n fun t => { t with headOpen := true }) :=
    lanesKept_input s n rfl
  unfold execHeadOpenActive headLifted
  dsimp only
  split
  · exact .same
  split
  · exact .next input
  · exact .eventOf (input.trans (.of_kept rfl (kept_headOpened ..) (lawful_headOpened ..)))

theorem lanesKept_execHeadOpenInactive : (execHeadOpenInactive n s).LanesKept (.headOpenInactive n) s := by
  have input : s.LanesKept (.headOpenInactive n) (s.updStation n fun t => { t with headOpen := false }) :=
    lanesKept_input s n rfl
  unfold execHeadOpenInactive headClosed
  dsimp only
  split
  · split
    · exact .eventOf (input.trans (.of_kept rfl (kept_rest _ ..) (.of_station fun _ => rfl)))
    · exact .next input
  · exact .same

theorem lanesKept_execParkTimerExpiry : (execParkTimerExpiry n s).LanesKept (.parkTimerExpiry n) s := by
  unfold execParkTimerExpiry
  split
  · split
    · exact .eventOf ((State.LanesKept.reachTime _).trans (.of_kept rfl (kept_enter ..) (lawful_enter ..)))
    · exact .same
  · exact .same
  · exact .same

theorem lawful_endWake : s.Lawful (s.endWake n) := by
  unfold endWake
  split
  · exact (lawful_enterChecking s n .idle).trans (.of_station fun _ => rfl)
  · exact lawful_enter ..

theorem lanesKept_execWakeSettleExpiry : (execWakeSettleExpiry n s).LanesKept (.wakeSettleExpiry n) s := by
  unfold execWakeSettleExpiry
  split
  · split
    · exact .eventOf ((State.LanesKept.reachTime _).trans (.of_kept rfl (kept_endWake ..) (lawful_endWake ..)))
    · exact .same
  · exact .same

/-! ### Dot check and thermal sample (R175, R176, R184, R187, R188) -/

theorem lanesKept_execDcuSettleExpiry : (execDcuSettleExpiry s).LanesKept .dcuSettleExpiry s := by
  unfold execDcuSettleExpiry
  split
  · exact .same
  split
  · exact .same
  split
  · exact .next ((State.LanesKept.reachTime _).trans ⟨.of_station fun _ => rfl, fun _ => .refl _, fun _ => id,
      fun _ _ => rfl⟩)
  · exact .same

theorem lanesKept_completeCheck (c : Check) (reading : Byte) :
    s.LanesKept (.elementMeasurementEnd reading) (s.completeCheck c) := by
  have map : s.LanesKept (.elementMeasurementEnd reading) (s.updStation c.station fun t =>
      { t with map := c.map, summary := ⟨c.count, c.dots⟩ }) := by
    refine .updStation _ id ⟨fun _ => rfl, fun _ => rfl, fun sets => ?_, fun _ => ⟨rfl, rfl⟩,
      fun _ => ⟨rfl, rfl, rfl, rfl⟩⟩ id
    cases sets
  have returned (x : State) :
      x.LanesKept (.elementMeasurementEnd reading) { x.enterReturn c.station with check := none } :=
    .of_kept rfl ((kept_enterReturn ..).trans (kept_rest _ ..)) ⟨(lawful_enterReturn ..).legal⟩
  have done := map.trans (.of_kept rfl (kept_raise _ (.dotcheckDone c.station)) (.of_storeWork (storeWork_raise ..)))
  unfold completeCheck
  dsimp only
  split
  · exact (done.trans (.of_kept rfl (kept_report ..) (.of_station (station_report _ _ _)))).trans (returned _)
  · exact done.trans (returned _)

theorem lanesKept_execElementMeasurementEnd (reading : Byte) :
    (execElementMeasurementEnd reading s).LanesKept (.elementMeasurementEnd reading) s := by
  unfold execElementMeasurementEnd measured
  split
  · exact .same
  split
  · split
    · exact .eventOf (lanesKept_completeCheck ..)
    · exact .next (.of_kept rfl (kept_rest s ..) (.of_station fun _ => rfl))
  · exact .same

theorem lanesKept_thermal (degrees : Int) (f : Station → Thermal) :
    s.LanesKept (.thermalSample n degrees) (s.updStation n fun t => { t with thermal := f t }) := by
  refine .updStation n id ⟨fun _ => rfl, fun sets => ?_, fun _ => ⟨rfl, rfl⟩, fun _ => ⟨rfl, rfl⟩,
    fun _ => ⟨rfl, rfl, rfl, rfl⟩⟩ id
  cases sets

theorem lanesKept_execThermalSample (degrees : Int) :
    (execThermalSample n degrees s).LanesKept (.thermalSample n degrees) s := by
  have reported (x : State) (l : Limit) : x.LanesKept (.thermalSample n degrees) (x.reportSample n l) := by
    unfold reportSample
    split
    · exact .of_kept rfl (kept_raise ..) (.of_storeWork (storeWork_raise ..))
    · exact .refl x
  unfold execThermalSample
  dsimp only
  split
  · split
    · exact .eventOf ((((State.LanesKept.reachTime _).trans (lanesKept_thermal _ n degrees _)).trans
        (reported ..)).trans (.of_kept rfl (kept_releasePaused ..) (lawful_releasePaused ..)))
    · exact .next ((State.LanesKept.reachTime _).trans (lanesKept_thermal _ n degrees _))
  · exact .same
  · exact .same

end

/-! ### Every command and every step -/

theorem lanesKept_exec (i : Instr) (s : State) : Answer.LanesKept i s (exec i s) := by
  cases i with
  | eventStatusClear | eventEnableWrite | inspectionAddressWrite =>
    exact .next (.of_sameLanes (.refl s) fun _ _ => rfl)
  | hardwareReset => exact lanesKept_execHardwareReset s
  | configRomLoadEnd rom => exact lanesKept_execConfigRomLoadEnd s rom
  | engineReset w => exact lanesKept_execEngineReset s w
  | ringStart c w => exact lanesKept_execRingStart s c w
  | ringStop c w => exact lanesKept_execRingStop s c w
  | setAutoPollInterval w => exact lanesKept_execSetAutoPollInterval s w
  | setArbiterMode w => exact lanesKept_execSetArbiterMode s w
  | pollDemand w => exact lanesKept_execPollDemand s w
  | ringBaseWrite c v => exact lanesKept_execRingBaseWrite s c v
  | ringSizeWrite c v => exact lanesKept_execRingSizeWrite s c v
  | ringFetchIndexWrite c v => exact lanesKept_execRingFetchIndexWrite s c v
  | inspectionDataRead lanes => exact lanesKept_execInspectionDataRead s lanes
  | statusARead n lanes => exact lanesKept_execStatusARead s n lanes
  | registerWriteIgnored o lanes v => exact lanesKept_execRegisterWriteIgnored s o lanes v
  | hold n =>
    exact lanesKept_stationCommand s n 1 (act := fun s => s.hold n) rfl (.of_kept rfl (kept_hold ..) (lawful_hold ..))
  | resume n =>
    exact lanesKept_stationCommand s n 2 (act := fun s => s.resume n) rfl (.of_kept rfl (kept_resume ..) (lawful_resume ..))
  | flush n =>
    exact lanesKept_stationCommand s n 3 (act := fun s => s.flush n) rfl (.of_kept rfl (kept_flush ..) (lawful_flush ..))
  | wake n =>
    exact lanesKept_stationCommand s n 4 (act := fun s => s.wake n) rfl (.of_kept rfl (kept_wake ..) (lawful_wake ..))
  | park n =>
    exact lanesKept_stationCommand s n 5 (act := fun s => s.park n) rfl (.of_kept rfl (kept_park ..) (lawful_park ..))
  | stationCommandBadCode n v => exact lanesKept_execStationCommandBadCode s n v
  | descriptorFetchEnd c bytes => exact lanesKept_execDescriptorFetchEnd s c bytes
  | define => exact lanesKept_execDefine s
  | amend => exact lanesKept_execAmend s
  | retire => exact lanesKept_execRetire s
  | query => exact lanesKept_execQuery s
  | setProfile bytes => exact lanesKept_execSetProfile s bytes
  | setLimits => exact lanesKept_execSetLimits s
  | calibrate => exact lanesKept_execCalibrate s
  | dotcheck => exact lanesKept_execDotcheck s
  | bodyBurstEnd bytes => exact lanesKept_execBodyBurstEnd s bytes
  | labelDataTransferEnd n bytes => exact lanesKept_execLabelDataTransferEnd s n bytes
  | completionWriteEnd c => exact lanesKept_execCompletionWriteEnd s c
  | transferBusError c => exact lanesKept_execTransferBusError s c
  | autoPollExpiry c => exact lanesKept_execAutoPollExpiry s c
  | composerFieldStep => exact lanesKept_execComposerFieldStep s
  | composerComplete => exact lanesKept_execComposerComplete s
  | markedHeadFinish n => exact lanesKept_execMarkedHeadFinish s n
  | triggerLevelChange n high => exact lanesKept_execTriggerLevelChange s n high
  | triggerArrival n => exact lanesKept_execTriggerArrival s n
  | lastStartExpiry n k => exact lanesKept_execLastStartExpiry s n k
  | deadlineExpiry n k => exact lanesKept_execDeadlineExpiry s n k
  | linePeriodExpiry n => exact lanesKept_execLinePeriodExpiry s n
  | strobeSubphaseEnd n => exact lanesKept_execStrobeSubphaseEnd s n
  | gapEdge n => exact lanesKept_execGapEdge s n
  | mediaPresentFall n active => exact lanesKept_execMediaPresentFall s n active
  | applied n => exact lanesKept_execApplied s n
  | applyTimeout n => exact lanesKept_execApplyTimeout s n
  | headOpenActive n => exact lanesKept_execHeadOpenActive s n
  | headOpenInactive n => exact lanesKept_execHeadOpenInactive s n
  | parkTimerExpiry n => exact lanesKept_execParkTimerExpiry s n
  | wakeSettleExpiry n => exact lanesKept_execWakeSettleExpiry s n
  | dcuSettleExpiry => exact lanesKept_execDcuSettleExpiry s
  | elementMeasurementEnd reading => exact lanesKept_execElementMeasurementEnd s reading
  | thermalSample n degrees => exact lanesKept_execThermalSample s n degrees

/-- A step ticks the clock, or executes the command it takes off the queue. -/
theorem lanesKept_step {s t : State} (h : step s = .next t) : ∃ i, s.LanesKept i t := by
  unfold step at h
  split at h
  · cases h
    exact ⟨.hardwareReset, .of_sameLanes (.refl s) fun _ _ => rfl⟩
  · next i rest _ =>
    have popped : s.LanesKept i { s with pending := rest } := .of_sameLanes (.refl s) fun _ _ => rfl
    exact ⟨i, popped.trans (lanesKept_exec i _ t h)⟩

/-- Settles O5: command by command, each entry sets a state's outputs and timers, and whatever sets one of them alone
does so in the state it belongs to; an arrival joins a queue only below four entries. -/
theorem lanesLegalKept : Obligations.LanesLegalKept := by
  refine ⟨fun s t legal h => ?_, fun s t bounded h => ?_⟩
  · obtain ⟨_, kept⟩ := lanesKept_step h
    rw [lanesLegal_iff] at legal ⊢
    exact fun n => kept.legal n (legal n)
  · obtain ⟨_, kept⟩ := lanesKept_step h
    simp only [triggersBounded, List.all_eq_true, decide_eq_true_eq] at bounded ⊢
    exact fun n member => kept.bounded n (bounded n member)

/-- Settles O8: command by command, the shared operations and the end of an event keep these items, and a command's
own update names what it sets. -/
theorem stationItemsAndMemoryKept : Obligations.StationItemsAndMemoryKept := by
  intro c s t h
  have kept := lanesKept_exec c s t h
  exact ⟨kept.memory, fun n => ⟨(kept.items n).profile, (kept.items n).thermal, (kept.items n).map,
    (kept.items n).command, (kept.items n).inputs⟩⟩

end Sys2Proof.Machine
end

section
/-! What the work of a lane leaves of the other channels and of the causes DOTCHECK_DONE, and what the end of an event
leaves of a station that it has nothing to do for (R115, R136, R141, R142, R157, R184, R186). -/

namespace Sys2Proof.Machine

/-! ### Channels of the other lanes, and DOTCHECK_DONE -/

/-- Work at station n's lane touches no other channel and raises no DOTCHECK_DONE. -/
structure State.Confined (n : StationNo) (s t : State) : Prop where
  chan : ∀ c, c ≠ .station n → t.chan c = s.chan c
  done : ∀ m, t.raised (.dotcheckDone m) = s.raised (.dotcheckDone m)

namespace State.Confined

variable {n : StationNo} {s t u : State}

theorem refl (s : State) : s.Confined n s := ⟨fun _ _ => rfl, fun _ => rfl⟩

theorem trans (h : s.Confined n t) (k : t.Confined n u) : s.Confined n u :=
  ⟨fun c e => (k.chan c e).trans (h.chan c e), fun m => (k.done m).trans (h.done m)⟩

theorem of_same (chan : ∀ c, t.chan c = s.chan c) (events : t.eventStatus = s.eventStatus) :
    s.Confined n t := ⟨fun c _ => chan c, fun m => by rw [raised, raised, events]⟩

theorem of_tableWork (h : s.TableWork t) : s.Confined n t := by
  obtain ⟨_, _, rfl⟩ := h
  exact of_same (fun c => by cases c <;> rfl) rfl

theorem updStation (s : State) (m : StationNo) (f : Station → Station) :
    s.Confined n (s.updStation m f) := of_same (fun _ => chan_updStation ..) rfl

theorem raise (s : State) {e : Cause} (other : ∀ m, e ≠ .dotcheckDone m) : s.Confined n (s.raise e) :=
  ⟨fun c _ => by cases c <;> rfl, fun m => by
    rw [raised_raise, beq_eq_false_iff_ne.mpr (other m).symm, Bool.false_or]⟩

end State.Confined

namespace State

variable {n : StationNo}

theorem confined_freeIfRetired (s : State) (h : Nat) : s.Confined n (s.freeIfRetired h) := by
  unfold freeIfRetired
  dsimp only
  split
  · exact (Confined.of_tableWork (tableWork_freeRecord s h)).trans (.raise _ nofun)
  · exact .refl s

theorem confined_setRecord (s : State) (h : Nat) (r : Record) : s.Confined n (s.setRecord h r) :=
  .of_tableWork (tableWork_setRecord ..)

theorem confined_unpinBody (s : State) (h v : Nat) : s.Confined n (s.unpinBody h v) := by
  unfold unpinBody
  dsimp only
  split
  · split
    · exact (confined_setRecord ..).trans (confined_freeIfRetired ..)
    split
    · next b _ =>
      split
      · split
        · exact ((confined_setRecord ..).trans (.of_tableWork (tableWork_freeBody? _ (some b)))).trans
            (confined_freeIfRetired ..)
        · exact confined_setRecord ..
      · exact .refl s
    · exact .refl s
  · exact .refl s

theorem confined_unpinCounter (s : State) (h : Nat) : s.Confined n (s.unpinCounter h) := by
  unfold unpinCounter
  dsimp only
  split
  · exact (confined_setRecord ..).trans (confined_freeIfRetired ..)
  · exact .refl s

theorem confined_unpinBodies (l : List (Nat × Nat)) : ∀ s : State, s.Confined n (s.unpinBodies l) := by
  induction l with
  | nil => exact .refl
  | cons p l ih => exact fun s => (confined_unpinBody ..).trans (ih _)

theorem confined_unpinCounters (l : List Nat) : ∀ s : State, s.Confined n (s.unpinCounters l) := by
  induction l with
  | nil => exact .refl
  | cons h l ih => exact fun s => (confined_unpinCounter ..).trans (ih _)

theorem confined_releasePins (s : State) (l : Label) : s.Confined n (s.releasePins l) :=
  (confined_unpinBodies ..).trans (confined_unpinCounters ..)

theorem confined_writeContents (bl : List Nat) (bs : List Byte) :
    ∀ (s : State) (i : Nat), s.Confined n (s.writeContents bl i bs) := by
  induction bs with
  | nil => exact fun s _ => .refl s
  | cons b bs ih =>
    refine fun s i => Confined.trans ?_ (ih _ _)
    unfold writeContent
    split
    · exact .of_same (fun c => by cases c <;> rfl) rfl
    · exact .refl s

theorem confined_drawAll (hs : List Nat) : ∀ s : State, s.Confined n (s.drawAll hs).1 := by
  induction hs with
  | nil => exact .refl
  | cons h hs ih =>
    refine fun s => Confined.trans ?_ (ih _)
    unfold drawOne
    split
    · exact .refl s
    · exact ((confined_writeContents ..).trans (confined_writeContents _ [_] _ 2)).trans
        (confined_unpinCounter ..)

/-! ### The work of a lane -/

theorem confined_addCompletion (s : State) (n : StationNo) (p : Completion) :
    s.Confined n (s.updChan (.station n) fun ch =>
      { ch with pendingCompletions := ch.pendingCompletions ++ [p] }) :=
  ⟨fun _ e => chan_updChan_ne s _ e, fun m => by rw [raised, raised, updChan_eventStatus]⟩

theorem confined_finishHead (s : State) (n : StationNo) (st : Status) : s.Confined n (s.finishHead n st) := by
  unfold finishHead
  split
  · exact .refl s
  · exact (((Confined.updStation ..).trans (.of_tableWork (tableWork_freeBlocks ..))).trans
      (confined_releasePins ..)).trans (confined_addCompletion ..)

theorem confined_abandon (s : State) (n : StationNo) (ctx : Nat) (st : Status) :
    s.Confined n (s.abandon n ctx st) := by
  unfold abandon
  split
  · exact .refl s
  split
  · exact .refl s
  split
  · exact confined_finishHead ..
  · exact .updStation ..

theorem confined_abandonAll (n : StationNo) (st : Status) (cs : List Nat) :
    ∀ s : State, s.Confined n (s.abandonAll n st cs) := by
  induction cs with
  | nil => exact .refl
  | cons c cs ih => exact fun s => (confined_abandon ..).trans (ih _)

theorem confined_skipOne (s : State) (n : StationNo) : s.Confined n (s.skipOne n) := by
  unfold skipOne
  split
  · split
    · exact confined_abandon ..
    · exact .refl s
  · exact .refl s

theorem confined_skipMany (n : StationNo) (k : Nat) : ∀ s : State, s.Confined n (s.skipMany n k) := by
  induction k with
  | zero => exact .refl
  | succ k ih => exact fun s => (confined_skipOne s n).trans (ih _)

theorem confined_skipPending (s : State) (n : StationNo) : s.Confined n (s.skipPending n) :=
  (Confined.updStation ..).trans (confined_skipMany ..)

theorem confined_enterHeld (s : State) (n : StationNo) : s.Confined n (s.enterHeld n) :=
  ((Confined.updStation s ..).trans (.updStation ..)).trans (confined_skipPending ..)

theorem confined_enterFault (s : State) (n : StationNo) (c : FaultCause) :
    s.Confined n (s.enterFault n c) :=
  (((Confined.updStation s ..).trans (.updStation ..)).trans (.raise _ (e := .stationFault n) nofun)).trans
    (confined_skipPending ..)

theorem confined_finishWorking (s : State) (n : StationNo) (st : Status) :
    s.Confined n (s.finishWorking n st) := by
  unfold finishWorking
  split
  · exact confined_finishHead ..
  · exact .refl s

theorem confined_mediaFault (s : State) (n : StationNo) : s.Confined n (s.mediaFault n) :=
  ((confined_finishWorking ..).trans (.updStation ..)).trans (confined_enterFault ..)

theorem confined_beginPrinting (s : State) (n : StationNo) (k : LineKind) :
    s.Confined n (s.beginPrinting n k) := by
  have stepped (x : State) (k : LineKind) (p : Nat) : x.Confined n ((x.stepMotor n).setFeed n k p) :=
    (Confined.updStation x ..).trans (.updStation ..)
  unfold beginPrinting
  dsimp only
  split
  · exact .updStation ..
  split
  · exact confined_mediaFault ..
  split
  · exact confined_mediaFault ..
  cases k with
  | printed =>
    obtain ⟨d, p, e, -⟩ := firePrinted_eq (s.stepMotor n) n
    dsimp only
    rw [e]
    exact ((Confined.updStation s ..).trans (.updStation ..)).trans (.updStation ..)
  | leading | peel | eject | calibrate => exact stepped ..

theorem confined_beginEjecting (s : State) (n : StationNo) : s.Confined n (s.beginEjecting n) := by
  unfold beginEjecting
  dsimp only
  split
  · exact confined_mediaFault ..
  split
  · exact confined_mediaFault ..
  · exact (Confined.updStation s ..).trans (.updStation ..)

theorem confined_printStart (s : State) (n : StationNo) (l : Label) : s.Confined n (s.printStart n l) := by
  have taken : s.Confined n (s.takeHead n l) := by
    unfold takeHead updLabel enter
    exact ((Confined.updStation ..).trans (.updStation ..)).trans (.updStation ..)
  rw [printStart_eq]
  exact (taken.trans (.updStation ..)).trans (confined_beginPrinting ..)

theorem confined_startLoop (n : StationNo) (r : Nat) :
    ∀ s : State, s.Confined n (State.startLoop n r s) := by
  induction r with
  | zero => exact .refl
  | succ r ih =>
    intro s
    unfold startLoop
    split
    · exact .refl s
    · exact confined_printStart ..
    · exact ((Confined.updStation ..).trans (confined_finishHead ..)).trans (ih _)

theorem confined_expireEntry (s : State) (n : StationNo) (k : Nat) (l : Label) :
    s.Confined n (s.expireEntry n k l) := by
  unfold expireEntry
  dsimp only
  split
  · exact (Confined.updStation s ..).trans (confined_finishHead ..)
  · exact (Confined.updStation s ..).trans (confined_abandon ..)

theorem confined_pair (n : StationNo) (r : Nat) : ∀ s : State, s.Confined n (State.pair n r s) := by
  induction r with
  | zero => exact .refl
  | succ r ih =>
    intro s
    unfold pair
    split
    · exact .refl s
    · dsimp only
      split
      · exact (confined_expireEntry ..).trans (ih _)
      · exact (Confined.updStation ..).trans (ih _)

theorem confined_beginCheck (s : State) (m : StationNo) (o : CheckOrigin) :
    s.Confined n (s.beginCheck m o) := by
  obtain ⟨f, e, -⟩ := beginAtStation_eq s m
  have begun : s.Confined n (s.beginAtStation m) := e ▸ Confined.updStation s m f
  exact begun.trans (.of_same (fun c => by cases c <;> rfl) rfl)

/-! ### The Composer's choice (R115, R116) -/

/-- What the Composer's choice leaves: every label that is no candidate, the channels, and DOTCHECK_DONE. -/
structure ChoiceLeaves (s t : State) : Prop where
  stations : ∀ m, ∃ g : Label → Label, (∀ l, l.mayCompose = false → g l = l) ∧
    t.station m = { s.station m with queue := (s.station m).queue.map g }
  chan : ∀ c, t.chan c = s.chan c
  done : ∀ m, t.raised (.dotcheckDone m) = s.raised (.dotcheckDone m)

theorem ChoiceLeaves.refl (s : State) : s.ChoiceLeaves s :=
  ⟨fun m => ⟨id, fun _ _ => rfl, by rw [List.map_id]⟩, fun _ => rfl, fun _ => rfl⟩

theorem ChoiceLeaves.trans {s t u : State} (h : s.ChoiceLeaves t) (k : t.ChoiceLeaves u) :
    s.ChoiceLeaves u := by
  refine ⟨fun m => ?_, fun c => (k.chan c).trans (h.chan c), fun m => (k.done m).trans (h.done m)⟩
  obtain ⟨g, stays, here⟩ := h.stations m
  obtain ⟨g', stays', there⟩ := k.stations m
  refine ⟨g' ∘ g, fun l plain => ?_, by rw [there, here, List.map_map]⟩
  rw [Function.comp_apply, stays l plain, stays' l plain]

/-- A candidate of one station is written. -/
theorem choiceLeaves_updCandidate {s x : State} (work : s.StoreWork x) (inner : ∀ m, s.Confined m x)
    (m : StationNo) (ctx : Nat) (f : Label → Label) (composer : Option Job) :
    s.ChoiceLeaves { x.updCandidate m ctx f with composer := composer } := by
  refine ⟨fun k => ?_, fun c => ?_, (inner m).done⟩
  · by_cases e : k = m
    · subst e
      refine ⟨fun l => if l.ctx = ctx then (if l.mayCompose then f l else l) else l, fun l plain => ?_, ?_⟩
      · simp [plain]
      · rw [← work.station]
        exact (rfl : _ = (x.updCandidate k ctx f).station k).trans (station_updStation ..)
    · have stands : (x.updCandidate m ctx f).station k = s.station k :=
        (station_updStation_ne x _ e).trans (work.station k)
      exact ⟨id, fun _ _ => rfl, by rw [List.map_id]; exact stands⟩
  · rw [← work.chan]
    cases c <;> rfl

theorem choiceLeaves_composerTake (s : State) (m : StationNo) (l : Label) :
    s.ChoiceLeaves (s.composerTake m l) := by
  unfold composerTake
  split
  · exact choiceLeaves_updCandidate (.refl s) (fun _ => .refl s) m l.ctx _ s.composer
  · exact choiceLeaves_updCandidate (storeWork_drawAll ..) (fun _ => confined_drawAll _ s) m l.ctx _ _

theorem choiceLeaves_composerChoose (k : Nat) :
    ∀ s : State, s.ChoiceLeaves (State.composerChoose k s) := by
  induction k with
  | zero => exact .refl
  | succ k ih =>
    intro s
    unfold composerChoose
    split
    · exact .refl s
    split
    · exact .refl s
    split
    · exact .refl s
    · exact (choiceLeaves_composerTake ..).trans (ih _)

theorem choiceLeaves_chooseLabels (s : State) : s.ChoiceLeaves s.chooseLabels :=
  choiceLeaves_composerChoose ..

/-! ### A station that the end of an event has nothing to do for -/

/-- Station n, its channel, its request for a check, and the check of another station stand. -/
structure LaneStands (n : StationNo) (s t : State) : Prop where
  station : t.station n = s.station n
  chan : t.chan (.station n) = s.chan (.station n)
  asked : t.checkPending.get n = s.checkPending.get n
  check : (∀ c, s.check = some c → c.station ≠ n) → ∀ c, t.check = some c → c.station ≠ n

namespace LaneStands

variable {s t u : State}

theorem refl (s : State) : s.LaneStands n s := ⟨rfl, rfl, rfl, id⟩

theorem trans (h : s.LaneStands n t) (k : t.LaneStands n u) : s.LaneStands n u :=
  ⟨k.station.trans h.station, k.chan.trans h.chan, k.asked.trans h.asked, k.check ∘ h.check⟩

/-- The work of another lane. -/
theorem of_other {m : StationNo} (other : n ≠ m) (work : s.LaneWork m t) (inner : s.Confined m t) :
    s.LaneStands n t :=
  ⟨work.others n other, inner.chan _ fun e => other (by injection e), by rw [work.checkPending],
    fun h => by rw [work.check]; exact h⟩

end LaneStands

/-- The service test cannot take a station. -/
def Unserved (s : State) (n : StationNo) : Prop := (s.station n).state.checkable = true → s.unasked n

theorem LaneStands.unserved {s t : State} (h : s.LaneStands n t) (u : s.Unserved n) : t.Unserved n := by
  unfold Unserved unasked
  rw [h.station, h.asked]
  exact u

theorem laneStands_pairAll {s : State} (paired : (s.station n).Paired) : s.LaneStands n s.pairAll := by
  refine foldl_keeps (P := fun x => s.LaneStands n x) (fun x m h => ?_) _ s (.refl s)
  by_cases e : n = m
  · subst e
    rw [pairStation, pair_self _ (by rw [h.station]; exact Station.newPair?_eq_none_iff.mpr paired)]
    exact h
  · exact h.trans (.of_other e (laneWork_pairStation x m) (confined_pair ..))

theorem laneStands_startAll {s : State} (waits : (s.station n).Waits) : s.LaneStands n s.startAll := by
  refine foldl_keeps (P := fun x => s.LaneStands n x) (fun x m h => ?_) _ s (.refl s)
  by_cases e : n = m
  · subst e
    rw [startStation, startLoop_self _ (startTest_eq_wait_iff.mpr (by rw [h.station]; exact waits))]
    exact h
  · exact h.trans (.of_other e (laneWork_startStation x m) (confined_startLoop ..))

theorem laneStands_beginCheck (s : State) {m : StationNo} (o : CheckOrigin) (other : n ≠ m) :
    s.LaneStands n (s.beginCheck m o) := by
  refine ⟨station_beginCheck_ne s o other, (confined_beginCheck (n := m) s m o).chan _ fun e =>
    other (by injection e), ?_, fun _ c begun => ?_⟩
  · exact Four.get_set_ne _ _ other
  · cases begun
    exact other.symm

/-- The service test takes only a station that is asked for and that is IDLE or PARKED. -/
theorem ne_of_serviceStation? {s : State} {m : StationNo} (u : s.Unserved n)
    (h : s.serviceStation? = some m) : n ≠ m := by
  rintro rfl
  have unasked := u (checkable_of_serviceStation? h)
  unfold serviceStation? at h
  split at h
  · cases h
  · have eligible := List.find?_some h
    simp [checkEligible, unasked] at eligible

theorem laneStands_serveAndStart (k : Nat) : ∀ {s : State}, (s.station n).Waits → s.Unserved n →
    s.LaneStands n (s.serveAndStart k) := by
  induction k with
  | zero => exact fun waits _ => laneStands_startAll waits
  | succ k ih =>
    intro s waits u
    have counted : s.LaneStands n { s with freeIndex := s.freeIndex + 1 } := ⟨rfl, rfl, rfl, id⟩
    have begun {x : State} (h : s.LaneStands n x) {m : StationNo} (other : n ≠ m) :
        s.LaneStands n (x.beginCheck m .auto).startAll := by
      have begins := h.trans (laneStands_beginCheck x .auto other)
      exact begins.trans (laneStands_startAll (by rw [begins.station]; exact waits))
    unfold serveAndStart
    split
    · exact laneStands_startAll waits
    · next m serviced =>
      have other := ne_of_serviceStation? u serviced
      split
      · dsimp only
        split
        · exact begun counted other
        · have started := counted.trans (.of_other other (laneWork_startStation _ m) (confined_startLoop ..))
          exact started.trans (ih (by rw [started.station]; exact waits) (started.unserved u))
      · exact begun (.refl s) other

end State

/-- The start test waits, also after whatever the Composer may do to the head: there is none, or it has a mark, or it
is neither READY nor FAILED nor to be taken, or the station is not IDLE or has no entry for it (R115, R141, R142). -/
def Station.Firm (t : Station) : Prop :=
  ∀ l, t.queue.head? = some l → t.state = .idle → l.mark = none → t.headServed = true →
    l.state ≠ .ready ∧ l.state ≠ .failed ∧ l.state ≠ .accepted

namespace Station.Firm

theorem of_state {t : Station} (h : t.state ≠ .idle) : t.Firm := fun _ _ idle => absurd idle h

theorem of_empty {t : Station} (h : t.queue = []) : t.Firm := fun l head => by simp [h] at head

theorem waits {t : Station} (h : t.Firm) : t.Waits := fun l head idle unmarked served => by
  obtain ⟨ready, failed, -⟩ := h l head idle unmarked served
  exact ⟨ready, failed⟩

/-- The Composer's choice writes ACCEPTED labels without a mark alone. -/
theorem chosen {t : Station} (h : t.Firm) {g : Label → Label} (stays : ∀ l, l.mayCompose = false → g l = l)
    : Station.Waits { t with queue := t.queue.map g } := by
  intro l head idle unmarked served
  simp only [List.head?_map, Option.map_eq_some_iff] at head
  obtain ⟨x, head, rfl⟩ := head
  by_cases may : x.mayCompose = true
  · simp only [Label.mayCompose, Bool.and_eq_true, beq_iff_eq, Option.isNone_iff_eq_none] at may
    obtain ⟨-, -, accepted⟩ := h x head idle may.2 served
    exact absurd may.1 accepted
  · rw [stays x (by simpa using may)] at unmarked ⊢
    exact h.waits x head idle unmarked served

end Station.Firm

namespace State

variable {n : StationNo}

/-- What the end of an event leaves at a station that it has nothing to do for. -/
structure EventStands (n : StationNo) (s t : State) : Prop where
  station : ∃ g : Label → Label, (∀ l, l.mayCompose = false → g l = l) ∧
    (s.composer.isSome = true → g = id) ∧
    t.station n = { s.station n with
      queue := (s.station n).queue.map g, parkTimer := (s.station n).parkTimerAt s.clock }
  pending : (t.chan (.station n)).pendingCompletions = (s.chan (.station n)).pendingCompletions
  asked : t.checkPending.get n = s.checkPending.get n
  check : (∀ c, s.check = some c → c.station ≠ n) → ∀ c, t.check = some c → c.station ≠ n

theorem chan_parkTimers (s : State) (c : Chan) : s.parkTimers.chan c = s.chan c :=
  foldl_keeps (P := fun x => x.chan c = s.chan c) (fun _ _ h => (chan_updStation ..).trans h) _ s rfl

theorem parkTimerAt_map (t : Station) (g : Label → Label) (clock : Word) :
    Station.parkTimerAt { t with queue := t.queue.map g } clock = t.parkTimerAt clock := by
  simp only [Station.parkTimerAt, List.map_eq_nil_iff]

/-- The end of an event leaves alone a station with nothing to pair, nothing to start and no check to begin. -/
theorem eventStands {s : State} (paired : (s.station n).Paired) (firm : (s.station n).Firm)
    (u : s.Unserved n) : s.EventStands n s.finishEvent := by
  have pairing := laneStands_pairAll paired
  have choice := choiceLeaves_chooseLabels s.pairAll
  have kept := choiceWork_chooseLabels s.pairAll
  obtain ⟨g, stays, busy, chosen⟩ : ∃ g : Label → Label, (∀ l, l.mayCompose = false → g l = l) ∧
      (s.composer.isSome = true → g = id) ∧
      s.pairAll.chooseLabels.station n = { s.station n with queue := (s.station n).queue.map g } := by
    cases composer : s.composer with
    | some j =>
      refine ⟨id, fun _ _ => rfl, fun _ => rfl, ?_⟩
      rw [chooseLabels, composerChoose_self _ (.inl (by rw [composer_pairAll, composer]; rfl)), List.map_id,
        pairing.station]
    | none =>
      obtain ⟨g, stays, e⟩ := choice.stations n
      exact ⟨g, stays, nofun, by rw [← pairing.station]; exact e⟩
  have unserved : s.pairAll.chooseLabels.Unserved n := by
    unfold Unserved unasked
    rw [chosen, kept.checkPending, pairing.asked]
    exact u
  have served := laneStands_serveAndStart 5 (by rw [chosen]; exact firm.chosen stays) unserved
  have clock : (s.pairAll.chooseLabels.serveAndStart 5).clock = s.clock :=
    calc (s.pairAll.chooseLabels.serveAndStart 5).clock
      _ = s.pairAll.chooseLabels.clock := (kept_serveAndStart ..).clock
      _ = s.pairAll.clock := (kept_composerChoose ..).clock
      _ = s.clock := (kept_pairAll s).clock
  obtain ⟨-, check, checkPending⟩ := parkTimers_rest (s.pairAll.chooseLabels.serveAndStart 5)
  obtain ⟨-, -, -, checkB, checkPendingB, -⟩ := sameLanes_settleBus s.settleStations
  refine ⟨⟨g, stays, busy, ?_⟩, ?_, ?_, fun h => ?_⟩
  · rw [finishEvent, (chanWork_settleBus _).station, settleStations, station_parkTimers, served.station,
      chosen, clock, parkTimerAt_map]
  · rw [finishEvent, chan_settleBus, Channel.request_pendingCompletions, settleStations, chan_parkTimers,
      served.chan, choice.chan, pairing.chan]
  · rw [finishEvent, checkPendingB, settleStations, checkPending, served.asked, kept.checkPending,
      pairing.asked]
  · rw [finishEvent, checkB, settleStations, check]
    refine served.check ?_
    rw [kept.check]
    exact pairing.check h

/-! ### DOTCHECK_DONE and the check over the end of an event (R186, R188) -/

section

variable (m : StationNo)

theorem done_startAll (s : State) : s.startAll.raised (.dotcheckDone m) = s.raised (.dotcheckDone m) :=
  foldl_keeps (P := fun y => y.raised (.dotcheckDone m) = s.raised (.dotcheckDone m))
    (fun y k h => ((confined_startLoop k _ y).done m).trans h) _ s rfl

theorem done_checkAndStart (s : State) (k : StationNo) :
    (s.beginCheck k .auto).startAll.raised (.dotcheckDone m) = s.raised (.dotcheckDone m) :=
  (done_startAll m _).trans ((confined_beginCheck (n := m) s k .auto).done m)

theorem done_serveAndStart (k : Nat) : ∀ s : State,
    (s.serveAndStart k).raised (.dotcheckDone m) = s.raised (.dotcheckDone m) := by
  induction k with
  | zero => exact done_startAll m
  | succ k ih =>
    intro s
    unfold serveAndStart
    split
    · exact done_startAll m s
    split
    · dsimp only
      split
      · exact done_checkAndStart m _ _
      · exact (ih _).trans ((confined_startLoop _ _ _).done m)
    · exact done_checkAndStart m s _

theorem done_parkTimers (s : State) :
    s.parkTimers.raised (.dotcheckDone m) = s.raised (.dotcheckDone m) :=
  foldl_keeps (P := fun y => y.raised (.dotcheckDone m) = s.raised (.dotcheckDone m))
    (fun y k h => ((Confined.updStation (n := m) y k _).done m).trans h) _ s rfl

theorem done_pairAll (s : State) : s.pairAll.raised (.dotcheckDone m) = s.raised (.dotcheckDone m) :=
  foldl_keeps (P := fun y => y.raised (.dotcheckDone m) = s.raised (.dotcheckDone m))
    (fun y k h => ((confined_pair k _ y).done m).trans h) _ s rfl

/-- The end of an event raises no DOTCHECK_DONE. -/
theorem done_finishEvent (s : State) : s.finishEvent.raised (.dotcheckDone m) = s.raised (.dotcheckDone m) := by
  obtain ⟨events, -⟩ := (chanWork_settleBus s.settleStations).sameEvents
  rw [finishEvent, raised, events, ← raised, settleStations, done_parkTimers, done_serveAndStart,
    (choiceLeaves_chooseLabels _).done, done_pairAll]

end

/-- Where the service test has nothing to take, the DCU stands over the end of an event. -/
theorem check_finishEvent {s : State} (served : s.Served) : s.finishEvent.check = s.check := by
  obtain ⟨check, -, paired⟩ : s.pairAll.check = s.check ∧ s.pairAll.checkPending = s.checkPending ∧
      s.pairAll.Served :=
    foldl_keeps (P := fun x => x.check = s.check ∧ x.checkPending = s.checkPending ∧ x.Served)
      (fun x m ⟨check, pending, h⟩ => ⟨(laneWork_pairStation x m).check.trans check,
        (laneWork_pairStation x m).checkPending.trans pending, (laneWork_pairStation x m).served h⟩)
      _ s ⟨rfl, rfl, served⟩
  have choice := choiceWork_chooseLabels s.pairAll
  have chosen : s.pairAll.chooseLabels.Served := by
    unfold Served
    rw [choice.check, choice.checkPending]
    refine paired.imp_right fun away m asked => ?_
    obtain ⟨_, -, -, e⟩ := choice.stations m
    rw [e]
    exact away m asked
  have starts (x : State) : x.startAll.check = x.check :=
    foldl_keeps (P := fun y => y.check = x.check) (fun y m h => (laneWork_startStation y m).check.trans h)
      _ x rfl
  obtain ⟨-, parked, -⟩ := parkTimers_rest (s.pairAll.chooseLabels.serveAndStart 5)
  obtain ⟨-, -, -, settled, -⟩ := sameLanes_settleBus s.settleStations
  rw [finishEvent, settled, settleStations, parked,
    serveAndStart_of_none 5 (serviceStation?_eq_none_iff.mpr chosen), starts, choice.check, check]

/-- In no state but IDLE and PARKED does the end of an event touch the request for a check, or begin one. -/
theorem dcu_finishEvent_of_away {s : State} (away : (s.station n).state.checkable = false) :
    s.finishEvent.checkPending.get n = s.checkPending.get n ∧
      ((∀ c, s.check = some c → c.station ≠ n) → ∀ c, s.finishEvent.check = some c → c.station ≠ n) := by
  obtain ⟨check, checkPending⟩ : s.pairAll.check = s.check ∧ s.pairAll.checkPending = s.checkPending :=
    foldl_keeps (P := fun x => x.check = s.check ∧ x.checkPending = s.checkPending)
      (fun x m ⟨check, pending⟩ => ⟨(laneWork_pairStation x m).check.trans check,
        (laneWork_pairStation x m).checkPending.trans pending⟩) _ s ⟨rfl, rfl⟩
  obtain ⟨_, _, paired⟩ := (pairWork_pairAll s n).rest
  have choice := choiceWork_chooseLabels s.pairAll
  obtain ⟨_, -, -, chosen⟩ := choice.stations n
  have still : (s.pairAll.chooseLabels.station n).state.checkable = false := by
    rw [chosen, paired]
    exact away
  have served : s.pairAll.chooseLabels.LaneStands n _ :=
    laneStands_serveAndStart 5 (fun _ _ idle => by rw [idle] at still; cases still)
      fun checkable => nomatch still.symm.trans checkable
  obtain ⟨-, checkP, pendingP⟩ := parkTimers_rest (s.pairAll.chooseLabels.serveAndStart 5)
  obtain ⟨-, -, -, checkB, pendingB, -⟩ := sameLanes_settleBus s.settleStations
  refine ⟨?_, fun h => ?_⟩
  · rw [finishEvent, pendingB, settleStations, pendingP, served.asked, choice.checkPending, checkPending]
  · rw [finishEvent, checkB, settleStations, checkP]
    exact served.check (by rw [choice.check, check]; exact h)

end State

end Sys2Proof.Machine
end

section
/-! The stations after the shared operations of Chapter 7, and the answer of a station command (R133, R139, R151). -/

namespace Sys2Proof.Machine

/-! ### Station commands (R151) -/

/-- The station after it has entered HELD, with the labels that skip-on-fault leaves it (R133, R139, R152). -/
def Station.holding (t : Station) (clock : Word) (q : List Label) : Station :=
  { t.enter .held clock with holdPending := false, triggers := [], queue := q }

/-- The station after it has entered FAULT with a cause, with the labels that skip-on-fault leaves it (R133, R139). -/
def Station.faulted (t : Station) (c : FaultCause) (clock : Word) (q : List Label) : Station :=
  { t.enter .fault clock with faultCause := c, holdPending := false, triggers := [], queue := q }

namespace State

variable {s : State} {n : StationNo} {code : BitVec 4} {act : State → CommandOutcome}

theorem stationCommand_of_loading (h : s.loading = true) :
    s.stationCommand n code act = s.recordCommand n code .loading := by
  simp only [stationCommand, h, if_true]
  rfl

theorem stationCommand_of_absent (h : s.loading = false) (none : (s.station n).dotCount = 0) :
    s.stationCommand n code act = s.recordCommand n code .noHead := by
  have unfitted : (s.station n).fitted = false := by simp [Station.fitted, none]
  simp only [stationCommand, h, unfitted, if_true, Bool.false_eq_true, if_false]
  rfl

theorem stationCommand_of_commandable (h : s.commandable n) :
    s.stationCommand n code act = (act s).2.recordCommand n code (act s).1 := by
  obtain ⟨loaded, fitted⟩ := h
  simp only [stationCommand, loaded, fitted, Bool.true_eq_false, Bool.false_eq_true, if_false]

theorem station_recordCommand (s : State) (n : StationNo) (code : BitVec 4) (r : CommandResult) :
    (s.recordCommand n code r).station n = { s.station n with lastCode := code, lastResult := r } :=
  station_updStation ..

theorem chan_recordCommand (s : State) (n : StationNo) (code : BitVec 4) (r : CommandResult) (c : Chan) :
    (s.recordCommand n code r).chan c = s.chan c := chan_updStation ..

/-! ### The station after it has entered a state (R133, R139) -/

variable (s n)

theorem station_enter (st : StationState) : (s.enter n st).station n = (s.station n).enter st s.clock :=
  station_updStation ..

theorem station_wakeUp (c : WakeCause) :
    (s.wakeUp n c).station n = { (s.station n).enter .waking s.clock with wakeCause := c } := by
  rw [wakeUp, station_updStation, station_enter]

theorem station_enterChecking (back : ReturnState) : (s.enterChecking n back).station n =
    Station.enter { s.station n with returnState := some back } .checking s.clock := by
  rw [enterChecking, station_enter, station_updStation, updStation_clock]

theorem station_skipPending : ∃ q, (s.skipPending n).station n =
    { s.station n with triggers := [], queue := q } := by
  obtain ⟨q, e⟩ := station_skipMany n (s.station n).triggers.length
    (s.updStation n fun t => { t with triggers := [] })
  exact ⟨q, by rw [skipPending, e, station_updStation]⟩

theorem station_enterHeld : ∃ q, (s.enterHeld n).station n = (s.station n).holding s.clock q := by
  obtain ⟨q, e⟩ := station_skipPending ((s.enter n .held).updStation n fun t => { t with holdPending := false }) n
  exact ⟨q, by rw [enterHeld, e, station_updStation, station_enter, Station.holding]⟩

theorem faulted_enterFault (c : FaultCause) :
    ∃ q, (s.enterFault n c).station n = (s.station n).faulted c s.clock q := by
  obtain ⟨q, e⟩ := station_skipPending (((s.enter n .fault).updStation n fun t =>
    { t with faultCause := c, holdPending := false }).raise (.stationFault n)) n
  refine ⟨q, ?_⟩
  rw [enterFault, e]
  simp only [station_raise, station_updStation, station_enter, Station.faulted]

theorem raised_enterFault (c : FaultCause) : (s.enterFault n c).raised (.stationFault n) = true :=
  (kept_skipPending ..).raised _ (by rw [raised_raise]; simp)

/-! ### A station over the end of an event -/

variable {s n}

/-- In no state but IDLE and PARKED does the end of an event touch more than the queues and the park timer. -/
theorem lane_finishEvent_of_away (away : (s.station n).state.checkable = false) : ∃ q ts timer,
    s.finishEvent.station n = { s.station n with queue := q, triggers := ts, parkTimer := timer } := by
  obtain ⟨_, _, paired⟩ := (pairWork_pairAll s n).rest
  obtain ⟨_, -, _, ended⟩ := station_finishEvent_of_away away
  exact ⟨_, _, _, by rw [ended, paired]⟩

end State

theorem Station.parkTimerAt_of_ne {t : Station} (h : t.state ≠ .idle) (clock : Word) :
    t.parkTimerAt clock = none := by
  unfold parkTimerAt
  split
  · rfl
  · rw [if_neg fun parks => h parks.1]

theorem Station.Paired.of_no_labels {t : Station} (h : t.queue = []) : t.Paired := fun k e l _ label => by
  simp [Station.eligible, h] at label

namespace State

variable {s : State} {n : StationNo}

/-- In a state other than IDLE and PARKED with no entry pending, the end of an event leaves all but the labels that it
composes. -/
theorem eventStands_of_away (away : (s.station n).state.checkable = false) (triggers : (s.station n).triggers = []) :
    s.EventStands n s.finishEvent :=
  eventStands (Station.paired_of_no_triggers triggers)
    (.of_state fun idle => by rw [idle] at away; cases away) fun checkable => nomatch away.symm.trans checkable

/-- With no label waiting and no check asked for, the end of an event leaves a station as it is. -/
theorem eventStands_of_empty (empty : (s.station n).queue = []) (unasked : s.unasked n) :
    s.EventStands n s.finishEvent :=
  eventStands (.of_no_labels empty) (.of_empty empty) fun _ => unasked

theorem EventStands.of_empty {t : State} (h : s.EventStands n t) (empty : (s.station n).queue = []) :
    t.station n = { s.station n with parkTimer := (s.station n).parkTimerAt s.clock } := by
  obtain ⟨g, -, -, e⟩ := h.station
  rw [e]
  simp only [empty, List.map_nil]

theorem EventStands.of_busy {t : State} (h : s.EventStands n t) (busy : s.composer.isSome = true) :
    t.station n = { s.station n with parkTimer := (s.station n).parkTimerAt s.clock } := by
  obtain ⟨g, -, same, e⟩ := h.station
  rw [e, same busy, List.map_id]

/-- A station in HELD has no more than its labels touched at the end of the event. -/
theorem finishEvent_of_holding {a : Station} {clock : Word}
    (held : ∃ q, s.station n = a.holding clock q) : ∃ q, s.finishEvent.station n = a.holding clock q := by
  obtain ⟨q, held⟩ := held
  obtain ⟨g, -, -, e⟩ := (eventStands_of_away (s := s) (n := n) (by rw [held]; rfl) (by rw [held]; rfl)).station
  refine ⟨(s.station n).queue.map g, e.trans ?_⟩
  rw [Station.parkTimerAt_of_ne (by rw [held]; nofun), held]
  rfl

/-- A station in FAULT has no more than its labels touched at the end of the event. -/
theorem finishEvent_of_faulted {a : Station} {c : FaultCause} {clock : Word}
    (fault : ∃ q, s.station n = a.faulted c clock q) : ∃ q, s.finishEvent.station n = a.faulted c clock q := by
  obtain ⟨q, fault⟩ := fault
  obtain ⟨g, -, -, e⟩ := (eventStands_of_away (s := s) (n := n) (by rw [fault]; rfl) (by rw [fault]; rfl)).station
  refine ⟨(s.station n).queue.map g, e.trans ?_⟩
  rw [Station.parkTimerAt_of_ne (by rw [fault]; nofun), fault]
  rfl

end State

end Sys2Proof.Machine
end

section
/-! The station commands' refusals, WAKE and PARK (R151, R156). -/

namespace Sys2Proof.Machine

open State

section

variable {s x : State} {n : StationNo} {r : CommandResult} (c : s.commandable n)

include c

theorem execHold_of_outcome (h : s.hold n = (r, x)) : exec (.hold n) s = .next (x.recordCommand n 1 r) := by
  show Host.Outcome.next (s.stationCommand n 1 fun s => s.hold n) = _
  rw [stationCommand_of_commandable c, h]

theorem execResume_of_outcome (h : s.resume n = (r, x)) : exec (.resume n) s = .next (x.recordCommand n 2 r) := by
  show Host.Outcome.next (s.stationCommand n 2 fun s => s.resume n) = _
  rw [stationCommand_of_commandable c, h]

theorem execFlush_of_outcome (h : s.flush n = (r, x)) : exec (.flush n) s = .next (x.recordCommand n 3 r) := by
  show Host.Outcome.next (s.stationCommand n 3 fun s => s.flush n) = _
  rw [stationCommand_of_commandable c, h]

theorem execWake_of_outcome (h : s.wake n = (r, x)) : exec (.wake n) s = .next (x.recordCommand n 4 r) := by
  show Host.Outcome.next (s.stationCommand n 4 fun s => s.wake n) = _
  rw [stationCommand_of_commandable c, h]

theorem execPark_of_outcome (h : s.park n = (r, x)) : exec (.park n) s = .next (x.recordCommand n 5 r) := by
  show Host.Outcome.next (s.stationCommand n 5 fun s => s.park n) = _
  rw [stationCommand_of_commandable c, h]

end

theorem wake_of_other {s : State} {n : StationNo} (parked : (s.station n).state ≠ .parked)
    (waking : (s.station n).state ≠ .waking) : s.wake n = (.state, s) := by
  unfold wake
  cases state : (s.station n).state
  case parked => exact absurd state parked
  case waking => exact absurd state waking
  all_goals rfl

/-- A resting station that parks with no label and no check asked for stays PARKED (R156, R157). -/
theorem station_parked {s : State} {n : StationNo} (empty : (s.station n).queue = []) (unasked : s.unasked n) :
    (s.enter n .parked).finishEvent.station n = (s.station n).enter .parked s.clock := by
  have stands : (s.enter n .parked).EventStands n (s.enter n .parked).finishEvent :=
    eventStands_of_empty (by rw [station_enter]; exact empty) unasked
  rw [stands.of_empty (by rw [station_enter]; exact empty), station_enter]
  simp only [Station.parkTimerAt_of_ne (t := (s.station n).enter .parked s.clock) (nofun)]
  rfl

/-- A code that names no command, met by the same refusals as the commands (R151). -/
theorem execStationCommandBadCode_eq (s : State) (n : StationNo) {v : Word}
    (code : v.toNat % 16 = 0 ∨ 5 < v.toNat % 16) :
    exec (.stationCommandBadCode n v) s = .next (s.recordCommand n (BitVec.ofNat 4 v.toNat)
      (if s.loading then .loading else if (s.station n).dotCount = 0 then .noHead else .badCode)) := by
  have wellFormed : (Instr.stationCommandBadCode n v).wellFormed = true := by
    simp only [Instr.wellFormed, knownCommandCode, Bool.not_eq_true', Bool.and_eq_false_iff, decide_eq_false_iff_not]
    omega
  have width : v.setWidth 4 = BitVec.ofNat 4 v.toNat := rfl
  show execStationCommandBadCode n v s = _
  rw [execStationCommandBadCode, if_neg (by simp [wellFormed]), width]
  by_cases loading : s.loading = true
  · rw [stationCommand_of_loading loading, if_pos loading]
  rw [if_neg loading]
  rw [Bool.not_eq_true] at loading
  split
  · next none => rw [stationCommand_of_absent loading none]
  · next dots => rw [stationCommand_of_commandable ⟨loading, by simp [Station.fitted, dots]⟩, refusedWith]

/-- Settles O22: each command's rule is read off its table, and a station that wakes or parks stands over the end of the
event. -/
theorem wakeParkAndRefusals : Obligations.WakeParkAndRefusals := by
  refine ⟨fun s n c code member => ⟨fun loading => ?_, fun loaded none => ?_⟩,
    fun s n v code => execStationCommandBadCode_eq s n code, fun s n c => ⟨fun parked => ?_, fun waking => ?_,
    fun parked waking => execWake_of_outcome c (wake_of_other parked waking), fun idle empty => ?_, fun busy => ?_⟩⟩
  · simp only [List.mem_cons, Prod.mk.injEq, List.not_mem_nil, or_false] at member
    rcases member with ⟨rfl, rfl⟩ | ⟨rfl, rfl⟩ | ⟨rfl, rfl⟩ | ⟨rfl, rfl⟩ | ⟨rfl, rfl⟩ <;>
      exact congrArg Host.Outcome.next (stationCommand_of_loading loading)
  · simp only [List.mem_cons, Prod.mk.injEq, List.not_mem_nil, or_false] at member
    rcases member with ⟨rfl, rfl⟩ | ⟨rfl, rfl⟩ | ⟨rfl, rfl⟩ | ⟨rfl, rfl⟩ | ⟨rfl, rfl⟩ <;>
      exact congrArg Host.Outcome.next (stationCommand_of_absent loaded none)
  · have woken : s.wake n = (s.wakeUp n .command).done := by rw [wake, parked]
    refine ⟨_, execWake_of_outcome c woken, ?_⟩
    obtain ⟨_, _, _, woken⟩ := lane_finishEvent_of_away (s := s.wakeUp n .command) (n := n)
      (by rw [station_wakeUp]; rfl)
    simp [station_recordCommand, woken, station_wakeUp, Station.enter, powerAfter]
  · have stays : s.wake n = s.doneAsIs := by rw [wake, waking]
    exact execWake_of_outcome c stays
  · have parked : s.park n = (s.enter n .parked).done := if_pos ⟨idle, empty⟩
    refine ⟨_, execPark_of_outcome c parked, ?_, ?_, fun unasked => ?_⟩
    · rw [station_recordCommand]
    · rw [station_recordCommand]
    · simp [station_recordCommand, station_parked empty unasked, Station.enter, powerAfter]
  · have refused : s.park n = s.refusedWith .state := if_neg (by tauto)
    exact execPark_of_outcome c refused

end Sys2Proof.Machine
end

section
/-! Faults, the completions that leave a lane, what RCH-C answers for a calibration or a check, and the lines that begin
(R91, R139, R140, R144 to R149, R155, R160, R164, R189). -/

namespace Sys2Proof.Machine

/-! ### Completions (R88, R93) -/

theorem State.Spares.pending {s t : State} (h : s.Spares t) (c : Chan) :
    (s.chan c).pendingCompletions <+: (t.chan c).pendingCompletions := by
  obtain ⟨ps, e⟩ := h.chan c
  rw [e]
  exact List.prefix_append ..

namespace State

variable (s : State) (n : StationNo)

/-! ### What RCH-C answers (R91) -/

theorem answersAlone_of_hand {s : State} {d : List Byte} {i : Nat} {st : Status}
    (hand : s.control.hand = some ⟨d, i, .complete (controlCompletion st [])⟩) : s.answersAlone st := by
  have answer := (controlAnswer?_of_hand hand).trans (congrArg some (controlCompletion_nil st))
  exact ⟨answers_of_controlAnswer? answer, answer⟩

/-- The end of an event leaves what RCH-C has to write. -/
theorem control_finishEvent : s.finishEvent.control.hand = s.control.hand := by
  have control (x : State) : x.control = x.chan .control := rfl
  rw [control, control, (settled_finishEvent s .control).hand]

variable {s n}

theorem control_report {d : List Byte} {i : Nat} {code : ControlCode}
    (hand : s.control.hand = some ⟨d, i, .busy⟩) (named : controlCode d = code) (b : List Byte) :
    (s.report code b).control.hand = some ⟨d, i, .complete b⟩ := by
  have busy : s.handAt? .control .busy = some d := by simp [handAt?, chan, hand]
  simp [report, busy, named, outcome, setWork, updChan, hand]

theorem report_of_other {d : List Byte} {i : Nat} {code : ControlCode}
    (hand : s.control.hand = some ⟨d, i, .busy⟩) (named : controlCode d ≠ code) (b : List Byte) :
    s.report code b = s := by
  have busy : s.handAt? .control .busy = some d := by simp [handAt?, chan, hand]
  simp [report, busy, named]

theorem report_of_complete {d b' : List Byte} {i : Nat}
    (hand : s.control.hand = some ⟨d, i, .complete b'⟩) (code : ControlCode) (b : List Byte) :
    s.report code b = s := by
  have busy : s.handAt? .control .busy = none := by simp [handAt?, chan, hand]
  simp [report, busy]

theorem chanWork_report (s : State) (code : ControlCode) (b : List Byte) : s.ChanWork (s.report code b) := by
  unfold report
  split
  · split
    · exact chanWork_setWork s .control _
    · exact .refl s
  · exact .refl s

/-- An answer of RCH-C touches no station channel. -/
theorem chan_report (s : State) (code : ControlCode) (b : List Byte) (n : StationNo) :
    (s.report code b).chan (.station n) = s.chan (.station n) := by
  unfold report
  split
  · split
    · exact chan_updChan_ne s (c := .control) (d := .station n) _ nofun
    · rfl
  · rfl

/-! ### The end of a calibration and of a check (R140, R149, R189) -/

variable (s n)

theorem chan_endCalibration (st : Status) :
    (s.endCalibration n st).chan (.station n) = s.chan (.station n) := by
  unfold endCalibration
  split
  · exact chan_report ..
  · rfl

theorem chan_abortCheck (again : Bool) : (s.abortCheck n again).chan (.station n) = s.chan (.station n) := by
  unfold abortCheck
  split
  · rfl
  split
  · dsimp only
    split
    · exact (chan_report ..).trans rfl
    · split <;> rfl
  · rfl

variable {s n}

/-- No check of the station is left, and where it was commanded RCH-C answers ABORTED. -/
theorem check_abortCheck (again : Bool) : ∀ c, (s.abortCheck n again).check = some c → c.station ≠ n := by
  intro c check
  unfold abortCheck at check
  split at check
  · next none => cases none.symm.trans check
  · next x begun =>
    split at check
    · dsimp only at check
      split at check
      · obtain ⟨-, -, -, same, -⟩ := (chanWork_report { s with check := none } .dotcheck
          (controlCompletion .aborted [])).sameLanes
        cases same.symm.trans check
      · split at check <;> cases check
    · next other =>
      cases begun.symm.trans check
      exact other

theorem abortCheck_of_other {again : Bool} (other : ∀ c, s.check = some c → c.station ≠ n) :
    s.abortCheck n again = s := by
  unfold abortCheck
  split
  · rfl
  · next c check => rw [if_neg (other c check)]

section

variable {c : Check} (check : s.check = some c) (here : c.station = n)

include check here

theorem abortCheck_of_command (commanded : c.origin = .command) (again : Bool) :
    s.abortCheck n again = { s with check := none }.report .dotcheck (controlCompletion .aborted []) := by
  simp only [abortCheck, check, here, if_true, commanded]

theorem abortCheck_of_auto (auto : c.origin = .auto) (again : Bool) :
    s.abortCheck n again = if again then { s with check := none, checkPending := s.checkPending.set n true }
      else { s with check := none } := by
  simp only [abortCheck, check, here, if_true, auto]

/-- A check of the station ends, and no other begins. -/
theorem check_abortCheck_of_some (again : Bool) : (s.abortCheck n again).check = none := by
  cases origin : c.origin with
  | command =>
    rw [abortCheck_of_command check here origin]
    obtain ⟨-, -, -, same, -⟩ := (chanWork_report { s with check := none } .dotcheck
      (controlCompletion .aborted [])).sameLanes
    exact same
  | auto =>
    rw [abortCheck_of_auto check here origin]
    split <;> rfl

end

/-- A request is set only where an automatic check is to be made again. -/
theorem checkPending_abortCheck (again : Bool) (keeps : again = false ∨ ∀ c, s.check = some c → c.station = n →
    c.origin = .command) : (s.abortCheck n again).checkPending = s.checkPending := by
  unfold abortCheck
  split
  · rfl
  · next c check =>
    split
    · next here =>
      dsimp only
      split
      · obtain ⟨-, -, -, -, same, -⟩ := (chanWork_report { s with check := none } .dotcheck
          (controlCompletion .aborted [])).sameLanes
        exact same
      · next auto =>
        rcases keeps with rfl | commanded
        · rfl
        · cases auto.symm.trans (commanded c check here)
    · rfl

/-! ### Faults (R140, R146, R148, R149) -/

variable (s n)

theorem station_finishWorking (st : Status) :
    ∃ q, (s.finishWorking n st).station n = { s.station n with queue := q } := by
  unfold finishWorking
  split
  · exact ⟨_, station_finishHead ..⟩
  · exact ⟨_, rfl⟩

theorem clock_finishWorking (st : Status) : (s.finishWorking n st).clock = s.clock :=
  (kept_finishWorking ..).clock

/-- A media fault clears registration and alignment of the stock (R146). -/
theorem station_mediaFault : ∃ q, (s.mediaFault n).station n =
    Station.faulted { s.station n with registered := false, aligned := false } .mediaFault s.clock q := by
  obtain ⟨_, worked⟩ := station_finishWorking s n .mediaFault
  obtain ⟨q, e⟩ := faulted_enterFault ((s.finishWorking n .mediaFault).setStock n false false) n .mediaFault
  refine ⟨q, ?_⟩
  rw [mediaFault, e, setStock, station_updStation, worked, updStation_clock, clock_finishWorking]
  rfl

theorem raised_mediaFault : (s.mediaFault n).raised (.stationFault n) = true := raised_enterFault ..

theorem pending_finishWorking {s : State} {n : StationNo} {l : Label} {rest : List Label}
    (working : (s.station n).state = .printing ∨ (s.station n).state = .presenting)
    (queue : (s.station n).queue = l :: rest) (st : Status) :
    ((s.finishWorking n st).chan (.station n)).pendingCompletions =
      (s.chan (.station n)).pendingCompletions ++ [⟨l.index, l.completion st⟩] := by
  rw [finishWorking, if_pos working, chan_finishHead queue]

/-- The label that prints or presents finishes with the status before any other (R146). -/
theorem pending_mediaFault {s : State} {n : StationNo} {l : Label} {rest : List Label}
    (working : (s.station n).state = .printing ∨ (s.station n).state = .presenting)
    (queue : (s.station n).queue = l :: rest) :
    ((s.chan (.station n)).pendingCompletions ++ [⟨l.index, l.completion .mediaFault⟩]) <+:
      ((s.mediaFault n).chan (.station n)).pendingCompletions := by
  have finished := pending_finishWorking working queue .mediaFault
  have after : (s.finishWorking n .mediaFault).Spares (s.mediaFault n) :=
    (spares_updStation _ n rfl).trans (laneWork_enterFault ..).toSpares
  rw [← finished]
  exact after.pending _

end State

end Sys2Proof.Machine
end

section
/-! What the end of an event does not bring about at a station: no label is presented, and no registration or alignment of
the stock is set (R130, R145, R148). -/

namespace Sys2Proof.Machine

/-- LABEL_OUT is inactive and no apply timer runs. -/
def Station.LabelIn (t : Station) : Prop := t.labelOut = false ∧ t.applyTimer = none

/-- The stock is neither registered nor aligned. -/
def Station.StockLost (t : Station) : Prop := t.registered = false ∧ t.aligned = false

/-- A station that has gone on in its event has no label presented and no stock found. -/
structure Station.GoesOn (a b : Station) : Prop where
  label : a.LabelIn → b.LabelIn
  stock : a.StockLost → b.StockLost

namespace Station.GoesOn

variable {a b c : Station}

theorem refl (a : Station) : a.GoesOn a := ⟨id, id⟩

theorem trans (h : a.GoesOn b) (k : b.GoesOn c) : a.GoesOn c := ⟨k.label ∘ h.label, k.stock ∘ h.stock⟩

/-- The items that it speaks of are the same. -/
theorem of_same (labelOut : b.labelOut = a.labelOut) (timer : b.applyTimer = a.applyTimer)
    (registered : b.registered = a.registered) (aligned : b.aligned = a.aligned) : a.GoesOn b :=
  ⟨fun ⟨h, k⟩ => ⟨labelOut.trans h, timer.trans k⟩, fun ⟨h, k⟩ => ⟨registered.trans h, aligned.trans k⟩⟩

/-- A state other than PRESENTING is entered. -/
theorem enter (a : Station) {new : StationState} (other : new ≠ .presenting) (clock : Word) :
    a.GoesOn (a.enter new clock) :=
  ⟨fun _ => ⟨by simpa [Station.enter] using other, by simp [Station.enter, other]⟩, fun ⟨h, k⟩ => ⟨h, k⟩⟩

end Station.GoesOn

namespace State

variable (n : StationNo)

/-- The station of a head taken for printing, item by item (R143). -/
theorem station_takeHead_eq (s : State) (l : Label) : (s.takeHead n l).station n =
    { (s.station n).enter .printing s.clock with
      triggers := (s.station n).triggers.drop 1,
      printDeadline := (s.station n).triggers.head?.map fun e => e.deadline,
      drive := some Drive.initial,
      queue := (s.station n).queue.map fun x => if x.ctx = l.ctx then { x with state := .printing } else x } := by
  simp only [takeHead, updLabel, enter, station_updStation]
  rfl

theorem goesOn_mediaFault (s : State) : (s.station n).GoesOn ((s.mediaFault n).station n) := by
  obtain ⟨_, e⟩ := station_mediaFault s n
  rw [e]
  exact ⟨fun _ => ⟨rfl, rfl⟩, fun _ => ⟨rfl, rfl⟩⟩

theorem goesOn_beginPrinting (s : State) (k : LineKind) :
    (s.station n).GoesOn ((s.beginPrinting n k).station n) := by
  unfold beginPrinting
  dsimp only
  split
  · rw [station_updStation]
    exact .of_same rfl rfl rfl rfl
  split
  · exact goesOn_mediaFault n s
  split
  · exact goesOn_mediaFault n s
  cases k with
  | printed =>
    obtain ⟨_, _, e, -⟩ := firePrinted_eq (s.stepMotor n) n
    dsimp only
    rw [e]
    simp only [setFeed, stepMotor, station_updStation]
    exact .of_same rfl rfl rfl rfl
  | leading | peel | eject | calibrate =>
    simp only [setFeed, stepMotor, station_updStation]
    exact .of_same rfl rfl rfl rfl

theorem goesOn_printStart (s : State) (l : Label) : (s.station n).GoesOn ((s.printStart n l).station n) := by
  have taken : (s.station n).GoesOn (((s.takeHead n l).resetUnregistered n).station n) := by
    rw [resetUnregistered, station_updStation, station_takeHead_eq]
    exact (Station.GoesOn.enter _ (new := .printing) nofun s.clock).trans (.of_same rfl rfl rfl rfl)
  rw [printStart_eq]
  exact taken.trans (goesOn_beginPrinting ..)

theorem goesOn_startLoop (r : Nat) : ∀ s : State, (s.station n).GoesOn ((State.startLoop n r s).station n) := by
  induction r with
  | zero => exact fun _ => .refl _
  | succ r ih =>
    intro s
    unfold startLoop
    split
    · exact .refl _
    · exact goesOn_printStart ..
    · refine Station.GoesOn.trans ?_ (ih _)
      rw [station_finishHead, station_updStation]
      exact .of_same rfl rfl rfl rfl

theorem goesOn_startStation (s : State) (m : StationNo) :
    (s.station n).GoesOn ((s.startStation m).station n) := by
  by_cases e : n = m
  · subst e
    exact goesOn_startLoop n _ s
  · rw [(laneWork_startStation s m).others n e]
    exact .refl _

theorem goesOn_startAll (s : State) : (s.station n).GoesOn (s.startAll.station n) :=
  foldl_keeps (P := fun x => (s.station n).GoesOn (x.station n))
    (fun x m h => h.trans (goesOn_startStation n x m)) _ s (.refl _)

theorem goesOn_beginAtStation (s : State) : (s.station n).GoesOn ((s.beginAtStation n).station n) := by
  unfold beginAtStation
  cases (s.station n).state
  case idle | held =>
    dsimp only
    rw [station_enterChecking]
    exact ⟨fun _ => ⟨rfl, rfl⟩, fun ⟨h, k⟩ => ⟨h, k⟩⟩
  case parked =>
    dsimp only
    rw [station_updStation, station_wakeUp]
    exact (Station.GoesOn.enter _ (new := .waking) nofun s.clock).trans (.of_same rfl rfl rfl rfl)
  case waking =>
    dsimp only
    rw [station_updStation]
    exact .of_same rfl rfl rfl rfl
  all_goals exact .refl _

theorem goesOn_beginCheck (s : State) (m : StationNo) :
    (s.station n).GoesOn ((s.beginCheck m .auto).station n) := by
  by_cases e : n = m
  · subst e
    exact goesOn_beginAtStation n s
  · rw [station_beginCheck_ne s .auto e]
    exact .refl _

theorem goesOn_serveAndStart (k : Nat) : ∀ s : State,
    (s.station n).GoesOn ((s.serveAndStart k).station n) := by
  induction k with
  | zero => exact goesOn_startAll n
  | succ k ih =>
    intro s
    unfold serveAndStart
    split
    · exact goesOn_startAll n s
    · next m _ =>
      split
      · dsimp only
        split
        · exact (goesOn_beginCheck n { s with freeIndex := s.freeIndex + 1 } m).trans (goesOn_startAll n _)
        · exact (goesOn_startStation n { s with freeIndex := s.freeIndex + 1 } m).trans (ih _)
      · exact (goesOn_beginCheck n s m).trans (goesOn_startAll n _)

/-- The end of an event presents no label and finds no stock. -/
theorem goesOn_finishEvent (s : State) : (s.station n).GoesOn (s.finishEvent.station n) := by
  obtain ⟨_, _, paired⟩ := (pairWork_pairAll s n).rest
  obtain ⟨_, -, chosen⟩ := (choiceKeeps_chooseLabels s.pairAll).stations n
  have before : (s.station n).GoesOn (s.pairAll.chooseLabels.station n) := by
    rw [chosen, paired]
    exact .of_same rfl rfl rfl rfl
  rw [finishEvent, (chanWork_settleBus _).station, settleStations, station_parkTimers]
  exact (before.trans (goesOn_serveAndStart n 5 _)).trans (.of_same rfl rfl rfl rfl)

end State

end Sys2Proof.Machine
end

section
/-! The stock runs out, the applicator, the head and the timers (R146, R148 to R150, R157, R158, R184, R185). -/

namespace Sys2Proof.Machine

open State

/-! ### What the faults leave (R140, R146, R148, R149) -/

namespace State

variable {s x : State} {n : StationNo}

/-- Where a station comes to rest: HELD where a hold is pending, and IDLE otherwise (R147, R148). -/
theorem enterRest_of_hold (hold : (s.station n).holdPending = true) : s.enterRest n = s.enterHeld n := if_pos hold

theorem enterRest_of_free (free : (s.station n).holdPending = false) : s.enterRest n = s.enter n .idle := by
  rw [enterRest, if_neg (by simp [free])]

theorem labelIn_enterRest (s : State) (n : StationNo) : ((s.enterRest n).station n).LabelIn := by
  unfold enterRest
  split
  · obtain ⟨_, e⟩ := station_enterHeld s n
    rw [e]
    exact ⟨rfl, rfl⟩
  · rw [station_enter]
    exact ⟨rfl, rfl⟩

theorem spares_enterRest (s : State) (n : StationNo) : s.Spares (s.enterRest n) := by
  unfold enterRest enterHeld enter
  split
  · exact ((spares_updStation s n rfl).trans (spares_updStation _ n rfl)).trans (laneWork_skipPending ..).toSpares
  · exact spares_updStation s n rfl

/-- A label that has finished before the end of an event stays finished, ahead of what the event adds. -/
theorem prefix_finishEvent {ps : List Completion}
    (h : ps <+: (s.chan (.station n)).pendingCompletions) :
    ps <+: (s.finishEvent.chan (.station n)).pendingCompletions :=
  h.trans (settled_finishEvent s (.station n)).pending

theorem station_reachTime (s : State) (t : Word) (m : StationNo) : (s.reachTime t).station m = s.station m := by
  obtain ⟨_, e⟩ := reachTime_eq s t
  rw [e]
  rfl

theorem unasked_reachTime (s : State) (t : Word) (m : StationNo) : (s.reachTime t).unasked m ↔ s.unasked m := by
  obtain ⟨_, e⟩ := reachTime_eq s t
  rw [e]

end State

/-! ### Stock and applicator (R146, R148) -/

theorem Station.feedsLabel_iff {t : Station} : t.feedsLabel = true ↔
    (t.state = .printing ∨ t.state = .ejecting) ∧ ∃ k last, t.feed = some ⟨k, false, last⟩ := by
  simp only [feedsLabel, Bool.and_eq_true, Bool.or_eq_true, beq_iff_eq]
  refine and_congr_right fun _ => ?_
  cases t.feed with
  | none => simp
  | some f =>
    obtain ⟨k, paused, last⟩ := f
    simp

section

variable {s : State} {n : StationNo}

theorem execMediaPresentFall_of_feeding (present : (s.station n).mediaPresent = true)
    (feeds : (s.station n).feedsLabel = true) : exec (.mediaPresentFall n false) s =
      .next ((s.updStation n fun t => { t with mediaPresent := false, mediaLatch := false }).mediaFault
        n).finishEvent := by
  show execMediaPresentFall n false s = _
  rw [execMediaPresentFall, if_neg (by simp), if_pos present, mediaFell, if_pos feeds]

theorem execApplied_of_presenting (presenting : (s.station n).state = .presenting) :
    exec (.applied n) s = .next ((s.finishHead n .applied).enterRest n).finishEvent :=
  if_pos presenting

theorem execApplyTimeout_of_presenting {t0 : Word} {p : Profile} (timer : (s.station n).applyTimer = some t0)
    (profile : (s.station n).profile = some p) (presenting : (s.station n).state = .presenting) :
    exec (.applyTimeout n) s = .next ((((s.reachTime (afterMs t0 p.applyTimeout)).finishHead n
      .applyTimeout).enterFault n .applyTimeout).finishEvent) := by
  show execApplyTimeout n s = _
  simp only [execApplyTimeout, timer, profile, if_pos presenting]

theorem execApplyTimeout_of_other (other : (s.station n).state ≠ .presenting) :
    exec (.applyTimeout n) s = .next s := by
  show execApplyTimeout n s = _
  unfold execApplyTimeout
  split
  · rw [if_neg other]
  · rfl
  · rfl

end

/-- Settles O54: the fault, APPLIED and the apply timeout finish the label at the head, and the station they leave stands
over the end of the event in FAULT and HELD, and in IDLE where nothing waits for it. -/
theorem stockAndApplicator : Obligations.StockAndApplicator := by
  refine ⟨fun t => Station.feedsLabel_iff, fun s n present feeds => ?_,
    fun s n l rest presenting queue => ⟨?_, fun t0 p timer profile => ?_⟩,
    fun s n other => ⟨if_neg other, execApplyTimeout_of_other other⟩⟩
  · refine ⟨_, execMediaPresentFall_of_feeding present feeds, ?_⟩
    obtain ⟨_, e⟩ := finishEvent_of_faulted (station_mediaFault (s.updStation n fun t =>
      { t with mediaPresent := false, mediaLatch := false }) n)
    have raised := (kept_finishEvent ((s.updStation n fun t =>
      { t with mediaPresent := false, mediaLatch := false }).mediaFault n)).raised _ (raised_mediaFault ..)
    rw [e]
    simp only [raised, station_updStation, Station.faulted, Station.enter, true_and]
    intro l rest printing queue
    refine prefix_finishEvent ?_
    have finished := pending_mediaFault (s := s.updStation n fun t =>
      { t with mediaPresent := false, mediaLatch := false }) (n := n) (l := l) (rest := rest)
      (.inl (by rw [station_updStation]; exact printing)) (by rw [station_updStation]; exact queue)
    rwa [chan_updStation] at finished
  · have finished := chan_finishHead queue .applied
    have after : ((s.finishHead n .applied).station n).holdPending = (s.station n).holdPending ∧
        ((s.finishHead n .applied).station n).queue = rest := by
      rw [station_finishHead, queue]
      exact ⟨rfl, rfl⟩
    obtain ⟨holds, queued⟩ := after
    obtain ⟨label, timer⟩ := (goesOn_finishEvent n _).label (labelIn_enterRest (s.finishHead n .applied) n)
    refine ⟨_, execApplied_of_presenting presenting, label, timer, prefix_finishEvent ?_, fun hold => ?_,
      fun free empty noCheck => ?_⟩
    · rw [← finished]
      exact (spares_enterRest ..).pending _
    · rw [enterRest_of_hold (holds.trans hold)]
      obtain ⟨_, e⟩ := finishEvent_of_holding (station_enterHeld (s.finishHead n .applied) n)
      rw [e]
      exact ⟨rfl, rfl⟩
    · rw [enterRest_of_free (holds.trans free)]
      have none : (((s.finishHead n .applied).enter n .idle).station n).queue = [] := by
        rw [station_enter]
        exact queued.trans empty
      have pending : ((s.finishHead n .applied).enter n .idle).unasked n := by
        rw [unasked, enter, updStation_checkPending, (laneWork_finishHead ..).checkPending]
        exact noCheck
      rw [(eventStands_of_empty none pending).of_empty none, station_enter]
      rfl
  · have state : ((s.reachTime (afterMs t0 p.applyTimeout)).station n).queue = l :: rest := by
      rw [station_reachTime, queue]
    refine ⟨_, execApplyTimeout_of_presenting timer profile presenting, ?_⟩
    obtain ⟨_, e⟩ := finishEvent_of_faulted (faulted_enterFault
      ((s.reachTime (afterMs t0 p.applyTimeout)).finishHead n .applyTimeout) n .applyTimeout)
    rw [e]
    refine ⟨rfl, rfl, (kept_finishEvent _).raised _ (raised_enterFault ..), rfl, rfl, rfl, prefix_finishEvent ?_⟩
    rw [← chan_reachTime s (afterMs t0 p.applyTimeout), ← chan_finishHead state .applyTimeout]
    exact (laneWork_enterFault ..).toSpares.pending _

end Sys2Proof.Machine
end

section
/-! The work of a station that is cut short by the head or by an overrun: the label in work, a calibration and a check
(R140, R149, R189). -/

namespace Sys2Proof.Machine

namespace State

/-- A label that prints or presents, a calibration and a check of the station end (R140, R149, R189). -/
def cutShort (s : State) (n : StationNo) (label calibration : Status) (again : Bool) : State :=
  ((s.finishWorking n label).endCalibration n calibration).abortCheck n again

theorem headOpened_eq (s : State) (n : StationNo) : s.headOpened n =
    ((s.cutShort n .headOpen .headOpen false).setStock n false false).enterFault n .headOpen := rfl

variable (s : State) (n : StationNo) (label calibration : Status) (again : Bool)

theorem kept_cutShort : s.Kept (s.cutShort n label calibration again) :=
  ((kept_finishWorking ..).trans (kept_endCalibration ..)).trans (kept_abortCheck ..)

theorem station_cutShort :
    ∃ q, (s.cutShort n label calibration again).station n = { s.station n with queue := q } := by
  obtain ⟨q, e⟩ := station_finishWorking s n label
  exact ⟨q, by rw [cutShort, station_abortCheck, station_endCalibration, e]⟩

theorem chan_cutShort : (s.cutShort n label calibration again).chan (.station n) =
    (s.finishWorking n label).chan (.station n) := by
  rw [cutShort, chan_abortCheck, chan_endCalibration]

theorem check_cutShort : ∀ c, (s.cutShort n label calibration again).check = some c → c.station ≠ n :=
  check_abortCheck again

variable {s n}

theorem control_of_confined {t : State} (h : s.Confined n t) : t.control = s.control := h.chan .control nofun

/-- The end of a calibration touches the channels alone. -/
theorem chanWork_endCalibration (s : State) (n : StationNo) (st : Status) :
    s.ChanWork (s.endCalibration n st) := by
  unfold endCalibration
  split
  · exact chanWork_report ..
  · exact .refl s

theorem check_beforeAbort :
    ((s.finishWorking n label).endCalibration n calibration).check = s.check ∧
      ((s.finishWorking n label).endCalibration n calibration).checkPending = s.checkPending := by
  obtain ⟨-, -, -, check, checkPending, -⟩ :=
    (chanWork_endCalibration (s.finishWorking n label) n calibration).sameLanes
  exact ⟨check.trans (laneWork_finishWorking ..).check, checkPending.trans (laneWork_finishWorking ..).checkPending⟩

section

variable {d : List Byte} {i : Nat} (hand : s.control.hand = some ⟨d, i, .busy⟩)

include hand

theorem control_finishWorking : (s.finishWorking n label).control.hand = some ⟨d, i, .busy⟩ := by
  rw [control_of_confined (confined_finishWorking ..), hand]

/-- A calibration that is cut short answers its status (R140, R149). -/
theorem control_cutShort_of_calibrating (calibrating : (s.station n).state = .calibrating)
    (named : controlCode d = .calibrate) : (s.cutShort n label calibration again).control.hand =
      some ⟨d, i, .complete (controlCompletion calibration [])⟩ := by
  obtain ⟨_, worked⟩ := station_finishWorking s n label
  have ended : ((s.finishWorking n label).endCalibration n calibration).control.hand =
      some ⟨d, i, .complete (controlCompletion calibration [])⟩ := by
    rw [endCalibration, if_pos (by rw [worked]; exact calibrating)]
    exact control_report (control_finishWorking label hand) named _
  have same (x : State) (b : List Byte) (h : x.control.hand = some ⟨d, i, .complete b⟩) :
      ((x.abortCheck n again)).control.hand = some ⟨d, i, .complete b⟩ := by
    unfold abortCheck
    split
    · exact h
    split
    · dsimp only
      split
      · rw [report_of_complete (s := { x with check := none }) h]
        exact h
      · split <;> exact h
    · exact h
  exact same _ _ ended

/-- A commanded check that is cut short answers ABORTED (R189). -/
theorem control_cutShort_of_checking {c : Check} (check : s.check = some c) (here : c.station = n)
    (commanded : c.origin = .command) (named : controlCode d = .dotcheck) :
    (s.cutShort n label calibration again).control.hand =
      some ⟨d, i, .complete (controlCompletion .aborted [])⟩ := by
  have ended : ((s.finishWorking n label).endCalibration n calibration).control.hand = some ⟨d, i, .busy⟩ := by
    unfold endCalibration
    split
    · rw [report_of_other (control_finishWorking label hand) (by rw [named]; nofun)]
      exact control_finishWorking label hand
    · exact control_finishWorking label hand
  obtain ⟨checks, -⟩ := check_beforeAbort (s := s) (n := n) label calibration
  rw [cutShort, abortCheck_of_command (checks.trans check) here commanded]
  exact control_report (s := { (s.finishWorking n label).endCalibration n calibration with check := none })
    ended named _

end

theorem checkPending_cutShort_of_dropped :
    (s.cutShort n label calibration false).checkPending = s.checkPending := by
  obtain ⟨-, pending⟩ := check_beforeAbort (s := s) (n := n) label calibration
  rw [cutShort, checkPending_abortCheck false (.inl rfl), pending]

/-- An automatic check that is cut short by an overrun or a hold is asked for again (R189). -/
theorem checkPending_cutShort_of_auto {c : Check} (check : s.check = some c) (here : c.station = n)
    (auto : c.origin = .auto) : (s.cutShort n label calibration true).checkPending.get n = true := by
  obtain ⟨checks, -⟩ := check_beforeAbort (s := s) (n := n) label calibration
  rw [cutShort, abortCheck_of_auto (checks.trans check) here auto]
  exact Four.get_set_same ..

/-! ### The head opens (R149) -/

variable (s n)

theorem station_headOpened : ∃ q, (s.headOpened n).station n =
    Station.faulted { s.station n with registered := false, aligned := false } .headOpen s.clock q := by
  obtain ⟨_, cut⟩ := station_cutShort s n .headOpen .headOpen false
  obtain ⟨q, e⟩ := faulted_enterFault
    ((s.cutShort n .headOpen .headOpen false).setStock n false false) n .headOpen
  refine ⟨q, ?_⟩
  rw [headOpened_eq, e, setStock, station_updStation, cut, updStation_clock,
    (kept_cutShort s n .headOpen .headOpen false).clock]
  rfl

theorem lane_headOpened : (s.cutShort n .headOpen .headOpen false).LaneWork n (s.headOpened n) := by
  rw [headOpened_eq]
  exact (laneWork_updStation_of_same _ n rfl rfl rfl).trans (laneWork_enterFault ..)

theorem control_headOpened : (s.headOpened n).control = (s.cutShort n .headOpen .headOpen false).control := by
  rw [headOpened_eq]
  exact control_of_confined ((Confined.updStation ..).trans (confined_enterFault ..))

end State

end Sys2Proof.Machine
end

section
/-! The head opens and closes, and the timers (R149, R150, R157, R158, R184, R185). -/

namespace Sys2Proof.Machine

open State

theorem Station.asksCheck_iff {t : Station} :
    t.asksCheck = true ↔ ∃ p, t.profile = some p ∧ p.autoCheck = true := by
  unfold asksCheck
  cases t.profile <;> simp

section

variable {s : State} {n : StationNo}

theorem execHeadOpenActive_of_offline (closed : (s.station n).headOpen = false)
    (offline : (s.station n).state = .offline) :
    exec (.headOpenActive n) s = .next (s.updStation n fun t => { t with headOpen := true }) := by
  show execHeadOpenActive n s = _
  rw [execHeadOpenActive, if_neg (by simp [closed]), headLifted, if_pos offline]

theorem execHeadOpenActive_of_fitted (closed : (s.station n).headOpen = false)
    (fitted : (s.station n).state ≠ .offline) : exec (.headOpenActive n) s =
      .next ((s.updStation n fun t => { t with headOpen := true }).headOpened n).finishEvent := by
  show execHeadOpenActive n s = _
  rw [execHeadOpenActive, if_neg (by simp [closed]), headLifted, if_neg fitted]

theorem execHeadOpenInactive_of_plain (opened : (s.station n).headOpen = true)
    (plain : (s.station n).asksCheck = false) :
    exec (.headOpenInactive n) s = .next (s.updStation n fun t => { t with headOpen := false }) := by
  show execHeadOpenInactive n s = _
  rw [execHeadOpenInactive, if_pos opened, headClosed, if_neg (by simp [plain])]

/-- The head has closed and a check is asked for (R150, R185). -/
def State.closedAsking (s : State) (n : StationNo) : State :=
  { s.updStation n fun t => { t with headOpen := false } with checkPending := s.checkPending.set n true }

theorem execHeadOpenInactive_of_asking (opened : (s.station n).headOpen = true)
    (asks : (s.station n).asksCheck = true) :
    exec (.headOpenInactive n) s = .next (s.closedAsking n).finishEvent := by
  show execHeadOpenInactive n s = _
  rw [execHeadOpenInactive, if_pos opened, headClosed, if_pos asks]
  rfl

theorem execParkTimerExpiry_of_idle {t0 : Word} {p : Profile} (timer : (s.station n).parkTimer = some t0)
    (profile : (s.station n).profile = some p) (idle : (s.station n).state = .idle)
    (empty : (s.station n).queue = []) : exec (.parkTimerExpiry n) s =
      .next ((s.reachTime (afterMs t0 (1000 * p.parkDelay))).enter n .parked).finishEvent := by
  show execParkTimerExpiry n s = _
  simp only [execParkTimerExpiry, timer, profile, if_pos (And.intro idle empty)]

theorem execWakeSettleExpiry_of_waking {t0 : Word} (timer : (s.station n).wakeTimer = some t0)
    (waking : (s.station n).state = .waking) : exec (.wakeSettleExpiry n) s =
      .next ((s.reachTime (afterMs t0 Config.settleMs)).endWake n).finishEvent := by
  show execWakeSettleExpiry n s = _
  simp only [execWakeSettleExpiry, timer, if_pos waking]

/-- The wake ends in CHECKING, and the check measures (R158, R184). -/
theorem endWake_of_due {c : Check} (due : (s.station n).checkDue = true) (check : s.check = some c)
    (here : c.station = n) : s.endWake n =
      { s.enterChecking n .idle with check := some { c with phase := .measuring } } := by
  have begun : (s.enterChecking n .idle).check = some c := check
  simp only [endWake, due, if_true, begun, Option.map_some, here]

end

/-- Settles O55: the work that the head cuts short is read off its parts, and in FAULT and OFFLINE the end of the event
touches neither the station's lane nor its request for a check. -/
theorem headOpenAndClosed : Obligations.HeadOpenAndClosed := by
  refine ⟨fun t => Station.asksCheck_iff, fun s n closed => ⟨execHeadOpenActive_of_offline closed,
    fun fitted => ?_⟩, fun s n opened => ⟨execHeadOpenInactive_of_plain opened, fun asks state => ?_⟩⟩
  · refine ⟨_, execHeadOpenActive_of_fitted closed fitted, ?_⟩
    generalize lifted : (s.updStation n fun t => { t with headOpen := true }) = x
    have station : x.station n = { s.station n with headOpen := true } := by
      rw [← lifted, station_updStation]
    have control : x.control = s.control := by rw [← lifted]; rfl
    have check : x.check = s.check := by rw [← lifted]; rfl
    have pending : x.checkPending = s.checkPending := by rw [← lifted]; rfl
    have chan : x.chan (.station n) = s.chan (.station n) := by rw [← lifted, chan_updStation]
    obtain ⟨_, fault⟩ := station_headOpened x n
    obtain ⟨_, e⟩ := finishEvent_of_faulted (station_headOpened x n)
    have away : ((x.headOpened n).station n).state.checkable = false := by rw [fault]; rfl
    obtain ⟨asked, unchecked⟩ := dcu_finishEvent_of_away away
    have answer {d : List Byte} {i : Nat} {st : Status}
        (cut : (x.cutShort n .headOpen .headOpen false).control.hand =
          some ⟨d, i, .complete (controlCompletion st [])⟩) : (x.headOpened n).finishEvent.answersAlone st := by
      refine answersAlone_of_hand (d := d) (i := i) ?_
      rw [control_finishEvent, control_headOpened, cut]
    rw [e]
    refine ⟨rfl, rfl, (kept_finishEvent _).raised _ (raised_enterFault ..), ?_, rfl, rfl, rfl, rfl, rfl, rfl,
      fun d i calibrating hand named => ?_, fun c d i checking here commanded hand named => ?_,
      unchecked ?_, ?_, ?_, rfl, rfl, rfl, rfl, ?_, rfl, fun l rest working queue => ?_⟩
    · rw [station]
      rfl
    · exact answer (control_cutShort_of_calibrating _ _ _ (by rw [control, hand])
        (by rw [station]; exact calibrating) named)
    · exact answer (control_cutShort_of_checking _ _ _ (by rw [control, hand]) (by rw [check, checking]) here
        commanded named)
    · rw [(lane_headOpened x n).check]
      exact check_cutShort x n _ _ _
    · rw [asked, (lane_headOpened x n).checkPending, checkPending_cutShort_of_dropped, pending]
    · rw [station]
      simp only [Station.faulted, Station.enter, powerAfter, List.mem_cons, List.not_mem_nil, or_false]
      split
      · next asleep => simp [asleep]
      · next awake => simp [awake]
    · simp [Station.faulted, Station.enter]
    · refine prefix_finishEvent ?_
      have finished := pending_finishWorking (s := x) (n := n) (l := l) (rest := rest)
        (by rw [station]; simpa using working) (by rw [station]; exact queue) .headOpen
      rw [← chan, ← finished, ← chan_cutShort x n .headOpen .headOpen false]
      exact (lane_headOpened x n).toSpares.pending _
  · refine ⟨_, execHeadOpenInactive_of_asking opened asks, ?_⟩
    have station : (s.closedAsking n).station n = { s.station n with headOpen := false } :=
      station_updStation s n fun t => { t with headOpen := false }
    have away : ((s.closedAsking n).station n).state.checkable = false := by
      rw [station]
      simp only [List.mem_cons, List.not_mem_nil, or_false] at state
      rcases state with e | e <;> simp [e, StationState.checkable]
    obtain ⟨asked, -⟩ := dcu_finishEvent_of_away away
    obtain ⟨_, _, _, e⟩ := lane_finishEvent_of_away away
    rw [e, asked, station]
    exact ⟨Four.get_set_same .., rfl, rfl⟩

/-- Settles O56: the clock is brought to the expiry, and the station or the DCU that it puts on stands over the end of
the event. -/
theorem timerExpiries : Obligations.TimerExpiries := by
  refine ⟨fun s n t0 p timer profile idle empty => ⟨_, execParkTimerExpiry_of_idle timer profile idle empty,
    (kept_finishEvent _).clock, fun noCheck => ?_⟩, fun s n t0 timer waking => ⟨fun noneDue => ?_,
    fun due c check here => ?_⟩, fun s c t0 check timer settling => ?_⟩
  · rw [station_parked (by rw [station_reachTime]; exact empty) ((unasked_reachTime ..).mpr noCheck),
      station_reachTime]
    exact ⟨rfl, rfl, rfl, rfl⟩
  · have ends : (s.reachTime (afterMs t0 Config.settleMs)).endWake n =
        (s.reachTime (afterMs t0 Config.settleMs)).enter n .idle := by
      rw [endWake, if_neg (by rw [station_reachTime]; simp [noneDue])]
    refine ⟨_, execWakeSettleExpiry_of_waking timer waking, ?_⟩
    rw [ends]
    refine ⟨(kept_finishEvent _).clock, fun empty noCheck => ?_⟩
    have none : (((s.reachTime (afterMs t0 Config.settleMs)).enter n .idle).station n).queue = [] := by
      rw [station_enter, station_reachTime]
      exact empty
    rw [(eventStands_of_empty none ((unasked_reachTime ..).mpr noCheck)).of_empty none, station_enter]
    exact ⟨rfl, rfl⟩
  · refine ⟨_, execWakeSettleExpiry_of_waking timer waking, ?_⟩
    obtain ⟨clock, reached⟩ := reachTime_eq s (afterMs t0 Config.settleMs)
    rw [reached, endWake_of_due (s := { s with clock := clock }) due check here]
    generalize measuring : ({ State.enterChecking { s with clock := clock } n .idle with
      check := some { c with phase := .measuring } } : State) = x
    have station : x.station n = Station.enter { s.station n with returnState := some .idle } .checking clock := by
      rw [← measuring]
      exact station_enterChecking { s with clock := clock } n .idle
    have begun : x.check = some { c with phase := .measuring } := by rw [← measuring]
    obtain ⟨_, _, _, e⟩ := lane_finishEvent_of_away (s := x) (n := n) (by rw [station]; rfl)
    rw [e, station, check_finishEvent (.inl (by rw [begun]; rfl)), begun]
    exact ⟨rfl, rfl, by simp [Station.enter], rfl⟩
  · show execDcuSettleExpiry s = _
    simp only [execDcuSettleExpiry, check, timer, if_pos settling]
    rfl

end Sys2Proof.Machine
end

section
/-! Abandonment by skip-on-fault, label by label (R125, R139). -/

namespace Sys2Proof.Machine

namespace State

variable {s : State} {n : StationNo} {l : Label} {rest : List Label}

theorem label?_of_head (queue : (s.station n).queue = l :: rest) : (s.station n).label? l.ctx = some l := by
  simp [Station.label?, queue]

/-- An unmarked head that is not COMPOSING is abandoned by finishing it (R125). -/
theorem abandon_of_head (queue : (s.station n).queue = l :: rest) (unmarked : l.mark = none)
    (idle : l.state ≠ .composing) (st : Status) : s.abandon n l.ctx st = s.finishHead n st := by
  unfold abandon
  simp only [label?_of_head queue]
  rw [if_neg (by simp [unmarked]), if_pos (by simp [queue, idle])]

/-- An unmarked head that is COMPOSING takes the mark (R125). -/
theorem abandon_of_composing (queue : (s.station n).queue = l :: rest) (unmarked : l.mark = none)
    (composing : l.state = .composing) (st : Status) :
    s.abandon n l.ctx st = s.updLabel n l.ctx fun l => { l with mark := some st } := by
  unfold abandon
  simp only [label?_of_head queue]
  rw [if_neg (by simp [unmarked]), if_neg (by simp [composing])]

/-- The abandonment of any label leaves a marked head where it is (R125). -/
theorem head?_abandon (head : (s.station n).queue.head? = some l) (marked : l.mark.isSome = true)
    (ctx : Nat) (st : Status) :
    ((s.abandon n ctx st).station n).queue.head? = some l := by
  obtain ⟨rest, queue⟩ : ∃ rest, (s.station n).queue = l :: rest := by
    cases queue : (s.station n).queue with
    | nil => simp [queue] at head
    | cons x rest =>
      rw [queue, List.head?_cons, Option.some.injEq] at head
      exact ⟨rest, by rw [head]⟩
  by_cases same : l.ctx = ctx
  · subst same
    unfold abandon
    simp only [label?_of_head queue, if_pos marked, head]
  · have behind : ¬((s.station n).queue.head?.map fun h => h.ctx) = some ctx := by simp [head, same]
    unfold abandon
    split
    · exact head
    split
    · exact head
    rw [if_neg fun both => behind both.1, updLabel, station_updStation]
    simp [queue, same]

theorem skipOne_of_keeping (keeps : (s.station n).skips = false) : s.skipOne n = s := by
  rw [skipOne, if_neg (by simp [keeps])]

theorem skipMany_of_keeping (keeps : (s.station n).skips = false) (k : Nat) : s.skipMany n k = s := by
  induction k with
  | zero => rfl
  | succ k ih => rw [skipMany, skipOne_of_keeping keeps, ih]

theorem skipOne_of_none (none : (s.station n).eligible = []) : s.skipOne n = s := by
  unfold skipOne
  split
  · simp [none]
  · rfl

theorem skipOne_of_eligible (skips : (s.station n).skips = true)
    (eligible : (s.station n).eligible = l :: rest) : s.skipOne n = s.abandon n l.ctx .skipped := by
  rw [skipOne, if_pos skips]
  simp only [eligible, List.head?_cons]

theorem eligible_of_head {t : Station} (queue : t.queue = l :: rest) (may : l.eligible = true) :
    t.eligible = l :: rest.filter Label.eligible := by
  rw [Station.eligible, queue, List.filter_cons_of_pos may]

theorem mark_of_eligible {l : Label} (may : l.eligible = true) : l.mark = none := by
  simp only [Label.eligible, Bool.and_eq_true, Option.isNone_iff_eq_none] at may
  exact may.2

/-- Skip-on-fault finishes the labels at the head that have not started, one for each entry (R139). -/
theorem skipMany_of_unstarted (k : Nat) : ∀ {s : State}, (s.station n).skips = true →
    (∀ l ∈ (s.station n).queue, l.eligible = true ∧ l.state ≠ .composing) →
    ((s.skipMany n k).chan (.station n)).pendingCompletions = (s.chan (.station n)).pendingCompletions ++
      ((s.station n).queue.take k).map (fun l => ⟨l.index, l.completion .skipped⟩) := by
  induction k with
  | zero => simp [skipMany]
  | succ k ih =>
    intro s skips unstarted
    rw [skipMany]
    cases queue : (s.station n).queue with
    | nil =>
      rw [skipOne_of_none (by rw [Station.eligible, queue]; rfl), ih skips unstarted, queue]
      simp
    | cons l rest =>
      obtain ⟨may, idle⟩ := unstarted l (by simp [queue])
      have skipped : s.skipOne n = s.finishHead n .skipped := by
        rw [skipOne_of_eligible skips (eligible_of_head queue may),
          abandon_of_head queue (mark_of_eligible may) idle]
      have after : ((s.finishHead n .skipped).station n).queue = rest := by
        rw [station_finishHead, queue, List.tail_cons]
      rw [skipped, ih (by rw [station_finishHead]; exact skips)
        (by rw [after]; exact fun x member => unstarted x (by simp [queue, member])), after,
        chan_finishHead queue]
      simp

/-- A marked head stays through skip-on-fault. -/
theorem head?_skipMany (k : Nat) (marked : l.mark.isSome = true) :
    ∀ {s : State}, (s.station n).queue.head? = some l → ((s.skipMany n k).station n).queue.head? = some l := by
  induction k with
  | zero => exact id
  | succ k ih =>
    intro s head
    refine ih ?_
    unfold skipOne
    split
    · split
      · exact head?_abandon head marked _ _
      · exact head
    · exact head

/-- A COMPOSING head that has not started is marked by the first entry that skip-on-fault takes (R139). -/
theorem head?_skipMany_of_composing {k : Nat} (some : k ≠ 0) (skips : (s.station n).skips = true)
    (queue : (s.station n).queue = l :: rest) (may : l.eligible = true) (composing : l.state = .composing) :
    ((s.skipMany n k).station n).queue.head? = Option.some { l with mark := Option.some .skipped } := by
  obtain ⟨k, rfl⟩ := Nat.exists_eq_succ_of_ne_zero some
  rw [skipMany]
  refine head?_skipMany (l := { l with mark := Option.some .skipped }) k rfl ?_
  rw [skipOne_of_eligible skips (eligible_of_head queue may),
    abandon_of_composing queue (mark_of_eligible may) composing, updLabel, station_updStation]
  simp [queue]

/-! ### The entries that are pending (R139) -/

section

variable (s n)

/-- The station whose pending entries skip-on-fault takes, its queue empty of them. -/
def entriesTaken : State := s.updStation n fun t => { t with triggers := [] }

theorem skipPending_eq : s.skipPending n = (s.entriesTaken n).skipMany n (s.station n).triggers.length := rfl

theorem station_entriesTaken : (s.entriesTaken n).station n = { s.station n with triggers := [] } :=
  station_updStation ..

theorem chan_entriesTaken (c : Chan) : (s.entriesTaken n).chan c = s.chan c := chan_updStation ..

end

theorem skipPending_of_keeping (keeps : (s.station n).skips = false) : s.skipPending n = s.entriesTaken n := by
  rw [skipPending_eq, skipMany_of_keeping (by rw [station_entriesTaken]; exact keeps)]

theorem pending_skipPending (skips : (s.station n).skips = true)
    (unstarted : ∀ l ∈ (s.station n).queue, l.eligible = true ∧ l.state ≠ .composing) :
    ((s.skipPending n).chan (.station n)).pendingCompletions = (s.chan (.station n)).pendingCompletions ++
      ((s.station n).queue.take (s.station n).triggers.length).map
        (fun l => ⟨l.index, l.completion .skipped⟩) := by
  have taken := skipMany_of_unstarted (n := n) (s.station n).triggers.length (s := s.entriesTaken n)
    (by rw [station_entriesTaken]; exact skips) (by rw [station_entriesTaken]; exact unstarted)
  rw [skipPending_eq, taken, chan_entriesTaken, station_entriesTaken]

end State

theorem Station.skips_eq {t : Station} {p : Profile} (profile : t.profile = some p) :
    t.skips = p.skipOnFault := by
  simp only [skips, profile]

end Sys2Proof.Machine
end

section
/-! HOLD (R139, R152, R189). -/

namespace Sys2Proof.Machine

open State

namespace State

/-! ### The check that a wake was for (R189) -/

section

variable (s : State) (n : StationNo) (again : Bool)

theorem composer_abortCheck : (s.abortCheck n again).composer = s.composer := by
  unfold abortCheck
  split
  · rfl
  split
  · dsimp only
    split
    · exact (chanWork_report { s with check := none } .dotcheck (controlCompletion .aborted [])).sameLanes.2.1
    · split <;> rfl
  · rfl

theorem done_abortCheck (m : StationNo) :
    (s.abortCheck n again).raised (.dotcheckDone m) = s.raised (.dotcheckDone m) := by
  unfold abortCheck
  split
  · rfl
  split
  · dsimp only
    split
    · obtain ⟨events, -⟩ := (chanWork_report { s with check := none } .dotcheck
        (controlCompletion .aborted [])).sameEvents
      rw [raised, events]
      rfl
    · split <;> rfl
  · rfl

end

/-! ### The end of the event in which a station enters HELD -/

section

variable (s : State) (n : StationNo)

/-- The station on its way into HELD, before its pending entries are taken (R152). -/
def holdEntered (s : State) (n : StationNo) : State :=
  (s.enter n .held).updStation n fun t => { t with holdPending := false }

theorem enterHeld_eq : s.enterHeld n = (s.holdEntered n).skipPending n := rfl

theorem station_holdEntered : (s.holdEntered n).station n =
    { (s.station n).enter .held s.clock with holdPending := false } := by
  rw [holdEntered, station_updStation, station_enter]

theorem chan_holdEntered (c : Chan) : (s.holdEntered n).chan c = s.chan c := by
  rw [holdEntered, chan_updStation, enter, chan_updStation]

theorem laneWork_enterHeld : s.LaneWork n (s.enterHeld n) :=
  ((laneWork_enter s n rfl).trans (laneWork_updStation_of_same _ n rfl rfl rfl)).trans (laneWork_skipPending ..)

theorem eventStands_enterHeld : (s.enterHeld n).EventStands n (s.enterHeld n).finishEvent := by
  obtain ⟨_, e⟩ := station_enterHeld s n
  exact eventStands_of_away (by rw [e]; rfl) (by rw [e]; rfl)

theorem away_enterHeld : ((s.enterHeld n).station n).state.checkable = false := by
  obtain ⟨_, e⟩ := station_enterHeld s n
  rw [e]
  rfl

variable {s n}

theorem held_pending_of_skips (skips : (s.station n).skips = true)
    (unstarted : ∀ l ∈ (s.station n).queue, l.eligible = true ∧ l.state ≠ .composing) :
    ((s.enterHeld n).finishEvent.chan (.station n)).pendingCompletions =
      (s.chan (.station n)).pendingCompletions ++
      ((s.station n).queue.take (s.station n).triggers.length).map
        (fun l => ⟨l.index, l.completion .skipped⟩) := by
  have taken := pending_skipPending (s := s.holdEntered n) (n := n) (by rw [station_holdEntered]; exact skips)
    (by rw [station_holdEntered]; exact unstarted)
  rw [(eventStands_enterHeld s n).pending, enterHeld_eq, taken, station_holdEntered, chan_holdEntered]
  rfl

theorem held_pending_of_keeping (keeps : (s.station n).skips = false) :
    ((s.enterHeld n).finishEvent.chan (.station n)).pendingCompletions =
      (s.chan (.station n)).pendingCompletions := by
  rw [(eventStands_enterHeld s n).pending, enterHeld_eq,
    skipPending_of_keeping (by rw [station_holdEntered]; exact keeps), chan_entriesTaken, chan_holdEntered]

theorem held_queue_of_busy (busy : s.composer.isSome = true) :
    ((s.enterHeld n).finishEvent.station n).queue = ((s.enterHeld n).station n).queue := by
  rw [(eventStands_enterHeld s n).of_busy (by rw [(laneWork_enterHeld s n).composer]; exact busy)]

theorem held_queue_of_keeping (keeps : (s.station n).skips = false) (busy : s.composer.isSome = true) :
    ((s.enterHeld n).finishEvent.station n).queue = (s.station n).queue := by
  rw [held_queue_of_busy busy, enterHeld_eq, skipPending_of_keeping (by rw [station_holdEntered]; exact keeps),
    station_entriesTaken, station_holdEntered]
  rfl

/-- A COMPOSING head is marked by the pending entries (R139). -/
theorem held_head_of_composing {l : Label} {rest : List Label} (skips : (s.station n).skips = true)
    (pending : (s.station n).triggers ≠ []) (queue : (s.station n).queue = l :: rest)
    (may : l.eligible = true) (composing : l.state = .composing) (busy : s.composer.isSome = true) :
    { l with mark := some .skipped } ∈ ((s.enterHeld n).finishEvent.station n).queue := by
  rw [held_queue_of_busy busy, enterHeld_eq, skipPending_eq]
  refine List.mem_of_mem_head? (head?_skipMany_of_composing (rest := rest) ?_ ?_ ?_ may composing)
  · rw [station_holdEntered]
    exact fun none => pending (List.length_eq_zero_iff.mp none)
  · rw [station_entriesTaken, station_holdEntered]
    exact skips
  · rw [station_entriesTaken, station_holdEntered]
    exact queue

end

/-! ### HOLD by state (R152) -/

variable {s : State} {n : StationNo}

theorem hold_of_waking (waking : (s.station n).state = .waking) :
    s.hold n = ((s.abortCheck n true).enterHeld n).done := by
  rw [hold, waking]

/-- A station that HOLD takes out of IDLE, PARKED or WAKING enters HELD, once the check of a wake is over. -/
theorem hold_of_resting (resting : (s.station n).state ∈ [StationState.idle, .parked, .waking]) :
    ∃ x : State, s.hold n = (x.enterHeld n).done ∧ x.station n = s.station n ∧
      x.chan (.station n) = s.chan (.station n) ∧ x.composer = s.composer := by
  simp only [List.mem_cons, List.not_mem_nil, or_false] at resting
  rcases resting with state | state | state
  · exact ⟨s, by rw [hold, state], rfl, rfl, rfl⟩
  · exact ⟨s, by rw [hold, state], rfl, rfl, rfl⟩
  · exact ⟨_, hold_of_waking state, station_abortCheck .., chan_abortCheck .., composer_abortCheck ..⟩

theorem hold_of_working (working : (s.station n).state ∈
    [StationState.printing, .presenting, .ejecting, .calibrating]) :
    s.hold n = (.done, s.updStation n fun t => { t with holdPending := true }) := by
  simp only [List.mem_cons, List.not_mem_nil, or_false] at working
  unfold hold
  rcases working with e | e | e | e <;> (rw [e]; rfl)

theorem hold_of_held (held : (s.station n).state = .held) : s.hold n = (.done, s) := by
  unfold hold
  rw [held]
  rfl

theorem hold_of_away (away : (s.station n).state ∈ [StationState.offline, .fault, .checking]) :
    s.hold n = (.state, s) := by
  simp only [List.mem_cons, List.not_mem_nil, or_false] at away
  unfold hold
  rcases away with e | e | e <;> (rw [e]; rfl)

/-! ### The check that a hold ends (R189) -/

section

variable {c : Check} (check : s.check = some c) (here : c.station = n)

include check here

theorem check_heldAfterAbort (unasked : ∀ m, m ≠ n → s.unasked m) :
    ((s.abortCheck n true).enterHeld n).finishEvent.check = none := by
  have gone : ((s.abortCheck n true).enterHeld n).check = none := by
    rw [(laneWork_enterHeld ..).check, check_abortCheck_of_some check here]
  have others (m : StationNo) (other : m ≠ n) : (s.abortCheck n true).checkPending.get m = false := by
    cases origin : c.origin with
    | command =>
      rw [checkPending_abortCheck true (.inr fun c' check' _ => by cases check.symm.trans check'; exact origin)]
      exact unasked m other
    | auto =>
      rw [abortCheck_of_auto check here origin]
      exact (Four.get_set_ne _ _ other).trans (unasked m other)
  rw [check_finishEvent, gone]
  refine .inr fun m asked => ?_
  by_cases e : m = n
  · rw [e]
    exact away_enterHeld ..
  · rw [(laneWork_enterHeld ..).checkPending, others m e] at asked
    cases asked

theorem asked_heldAfterAbort (auto : c.origin = .auto) :
    ((s.abortCheck n true).enterHeld n).finishEvent.checkPending.get n = true := by
  rw [(dcu_finishEvent_of_away (away_enterHeld ..)).1, (laneWork_enterHeld ..).checkPending,
    abortCheck_of_auto check here auto]
  exact Four.get_set_same ..

omit here in
theorem asked_heldAfterCommand (commanded : c.origin = .command) :
    ((s.abortCheck n true).enterHeld n).finishEvent.checkPending.get n = s.checkPending.get n := by
  rw [(dcu_finishEvent_of_away (away_enterHeld ..)).1, (laneWork_enterHeld ..).checkPending,
    checkPending_abortCheck true (.inr fun c' check' _ => by cases check.symm.trans check'; exact commanded)]

theorem answers_heldAfterCommand (commanded : c.origin = .command) {d : List Byte} {i : Nat}
    (hand : s.control.hand = some ⟨d, i, .busy⟩) (named : controlCode d = .dotcheck) :
    ((s.abortCheck n true).enterHeld n).finishEvent.answersAlone .aborted := by
  refine answersAlone_of_hand (d := d) (i := i) ?_
  rw [control_finishEvent, control_of_confined (confined_enterHeld ..), abortCheck_of_command check here commanded]
  exact control_report (s := { s with check := none }) hand named _

end

end State

/-- Settles O23: the table of R152 by state; in HELD the end of the event touches neither the lane nor the channel, so the
labels are as skip-on-fault leaves them, and the DCU as the abort of the check leaves it. -/
theorem hold : Obligations.Hold := by
  refine fun s n c => ⟨fun resting => ?_, fun k waking check here => ?_,
    fun working => execHold_of_outcome c (hold_of_working working) |>.trans ?_,
    fun held => execHold_of_outcome c (hold_of_held held),
    fun away => execHold_of_outcome c (hold_of_away away)⟩
  · obtain ⟨x, outcome, station, chan, composer⟩ := hold_of_resting resting
    refine ⟨_, execHold_of_outcome c outcome, ?_⟩
    obtain ⟨_, e⟩ := finishEvent_of_holding (station_enterHeld x n)
    rw [station_recordCommand, chan_recordCommand]
    refine ⟨by rw [e]; rfl, rfl, rfl, by rw [e]; rfl, by rw [e]; rfl, ?_, by rw [e]; rfl, ?_,
      fun p profile => ⟨fun skips unstarted => ?_, fun skips pending l rest queue may composing busy => ?_,
        fun keeps => ⟨?_, fun busy => ?_⟩⟩⟩
    · rw [e, station]
      simp only [List.mem_cons, List.not_mem_nil, or_false] at resting
      rcases resting with state | state | state <;> simp [Station.holding, Station.enter, powerAfter, state]
    · simp [e, Station.holding, Station.enter]
    · rw [← chan, ← station]
      rw [← station] at profile unstarted
      exact held_pending_of_skips (by rw [Station.skips_eq profile, skips]) unstarted
    · rw [← station] at profile pending queue
      exact held_head_of_composing (by rw [Station.skips_eq profile, skips]) pending queue may composing
        (by rw [composer]; exact busy)
    · rw [← chan]
      rw [← station] at profile
      exact held_pending_of_keeping (by rw [Station.skips_eq profile, keeps])
    · rw [← station] at profile ⊢
      exact held_queue_of_keeping (by rw [Station.skips_eq profile, keeps]) (by rw [composer]; exact busy)
  · refine ⟨_, execHold_of_outcome c (hold_of_waking waking), ?_⟩
    obtain ⟨_, e⟩ := finishEvent_of_holding (station_enterHeld (s.abortCheck n true) n)
    obtain ⟨-, unchecked⟩ := dcu_finishEvent_of_away (away_enterHeld (s.abortCheck n true) n)
    have other := unchecked (by rw [(laneWork_enterHeld ..).check]; exact check_abortCheck true)
    have none := check_heldAfterAbort check here
    have done : ((s.abortCheck n true).enterHeld n).finishEvent.raised (.dotcheckDone n) =
        s.raised (.dotcheckDone n) := by
      rw [done_finishEvent, (confined_enterHeld ..).done, done_abortCheck]
    have asked := asked_heldAfterAbort check here
    have kept := asked_heldAfterCommand (n := n) check
    have answers (commanded) (d) (i) := answers_heldAfterCommand check here commanded (d := d) (i := i)
    generalize ((s.abortCheck n true).enterHeld n).finishEvent = t at e other none done asked kept answers ⊢
    rw [station_recordCommand]
    exact ⟨by rw [e]; rfl, other, none, by simp [e, station_abortCheck, Station.holding, Station.enter],
      by simp [e, station_abortCheck, Station.holding, Station.enter], done, asked,
      fun commanded => ⟨kept commanded, answers commanded⟩⟩
  · rw [recordCommand, updStation_updStation]
    rfl

end Sys2Proof.Machine
end

section
/-! The labels, the entries and the completions of a lane over an event that has nothing to do for them, also where a check
begins at the station (R136, R141, R142, R184, R186). -/

namespace Sys2Proof.Machine

namespace State

/-- The labels, the pending entries and the completions of lane n stand. -/
structure LabelsStand (n : StationNo) (s t : State) : Prop where
  queue : (t.station n).queue = (s.station n).queue
  triggers : (t.station n).triggers = (s.station n).triggers
  pending : (t.chan (.station n)).pendingCompletions = (s.chan (.station n)).pendingCompletions

namespace LabelsStand

variable {n : StationNo} {s t u : State}

theorem refl (s : State) : s.LabelsStand n s := ⟨rfl, rfl, rfl⟩

theorem trans (h : s.LabelsStand n t) (k : t.LabelsStand n u) : s.LabelsStand n u :=
  ⟨k.queue.trans h.queue, k.triggers.trans h.triggers, k.pending.trans h.pending⟩

theorem of_laneStands (h : s.LaneStands n t) : s.LabelsStand n t :=
  ⟨by rw [h.station], by rw [h.station], by rw [h.chan]⟩

theorem updStation (s : State) {f : Station → Station} (queue : (f (s.station n)).queue = (s.station n).queue)
    (triggers : (f (s.station n)).triggers = (s.station n).triggers) : s.LabelsStand n (s.updStation n f) :=
  ⟨by rw [station_updStation, queue], by rw [station_updStation, triggers], by rw [chan_updStation]⟩

/-- With no entry pending there is nothing for skip-on-fault to take (R139). -/
theorem skipPending (none : (s.station n).triggers = []) : s.LabelsStand n (s.skipPending n) := by
  rw [skipPending_eq, none]
  exact updStation (f := fun t => { t with triggers := [] }) s rfl none.symm

theorem enterHeld (none : (s.station n).triggers = []) : s.LabelsStand n (s.enterHeld n) := by
  have entered : s.LabelsStand n (s.holdEntered n) :=
    ⟨by rw [station_holdEntered]; rfl, by rw [station_holdEntered]; rfl, by rw [chan_holdEntered]⟩
  rw [enterHeld_eq]
  exact entered.trans (skipPending (entered.triggers.trans none))

theorem enterRest (none : (s.station n).triggers = []) : s.LabelsStand n (s.enterRest n) := by
  unfold State.enterRest
  split
  · exact enterHeld none
  · exact updStation s rfl rfl

theorem raise (s : State) (c : Cause) : s.LabelsStand n (s.raise c) := ⟨by simp, by simp, rfl⟩

theorem enterFault (none : (s.station n).triggers = []) (c : FaultCause) :
    s.LabelsStand n (s.enterFault n c) := by
  have entered : s.LabelsStand n (((s.enter n .fault).updStation n fun t =>
      { t with faultCause := c, holdPending := false }).raise (.stationFault n)) :=
    ((updStation (f := fun t => t.enter .fault s.clock) s rfl rfl).trans (updStation _ rfl rfl)).trans (raise ..)
  exact entered.trans (skipPending (entered.triggers.trans none))

end LabelsStand

variable {n : StationNo}

/-! ### The end of an event (R136, R141, R142, R186) -/

theorem waits_beginCheck {s : State} (m : StationNo) (waits : (s.station n).Waits) :
    ((s.beginCheck m .auto).station n).Waits := by
  by_cases e : n = m
  · subst e
    have begun : ((s.beginAtStation n).station n).Waits := by
      unfold beginAtStation
      cases (s.station n).state
      case idle | held =>
        dsimp only
        rw [station_enterChecking]
        exact fun _ _ idle => nomatch idle
      case parked =>
        dsimp only
        rw [station_updStation, station_wakeUp]
        exact fun _ _ idle => nomatch idle
      case waking =>
        dsimp only
        rw [station_updStation]
        exact waits
      all_goals exact waits
    exact begun
  · rw [station_beginCheck_ne s .auto e]
    exact waits

theorem labelsStand_beginCheck (s : State) (m : StationNo) : s.LabelsStand n (s.beginCheck m .auto) := by
  obtain ⟨queue, triggers, -⟩ := station_beginCheck s m .auto n
  refine ⟨queue, triggers, ?_⟩
  by_cases e : n = m
  · rw [(confined_beginCheck (n := if n = .s0 then .s1 else .s0) s m .auto).chan]
    subst e
    cases n <;> nofun
  · rw [(laneStands_beginCheck s .auto e).chan]

theorem labelsStand_checkAndStart {s : State} (m : StationNo) (waits : (s.station n).Waits) :
    s.LabelsStand n (s.beginCheck m .auto).startAll :=
  (labelsStand_beginCheck s m).trans (.of_laneStands (laneStands_startAll (waits_beginCheck m waits)))

theorem labelsStand_serveAndStart (k : Nat) : ∀ {s : State}, (s.station n).Waits →
    s.LabelsStand n (s.serveAndStart k) := by
  induction k with
  | zero => exact fun waits => .of_laneStands (laneStands_startAll waits)
  | succ k ih =>
    intro s waits
    have counted : s.LabelsStand n { s with freeIndex := s.freeIndex + 1 } := ⟨rfl, rfl, rfl⟩
    unfold serveAndStart
    split
    · exact .of_laneStands (laneStands_startAll waits)
    · next m _ =>
      split
      · next race =>
        dsimp only
        split
        · exact counted.trans (labelsStand_checkAndStart m waits)
        · have other : n ≠ m := fun e => by
            subst e
            simp [races, startTest_eq_wait_iff.mpr waits] at race
          have started : State.LaneStands n { s with freeIndex := s.freeIndex + 1 }
              (startStation { s with freeIndex := s.freeIndex + 1 } m) :=
            .of_other other (laneWork_startStation ..) (confined_startLoop ..)
          exact (counted.trans (.of_laneStands started)).trans (ih (by rw [started.station]; exact waits))
      · exact labelsStand_checkAndStart m waits

/-- Labels that wait, and that the Composer does not take, stand over the end of an event with the entries and the
completions. -/
theorem labelsStand_finishEvent {s : State} (paired : (s.station n).Paired) (waits : (s.station n).Waits)
    (plain : ∀ l ∈ (s.station n).queue, l.mayCompose = false) : s.LabelsStand n s.finishEvent := by
  have pairing := laneStands_pairAll paired
  have choice := choiceLeaves_chooseLabels s.pairAll
  obtain ⟨g, stays, e⟩ := choice.stations n
  have same : s.pairAll.chooseLabels.station n = s.station n := by
    rw [e, pairing.station, List.map_congr_left fun l member => stays l (plain l member), List.map_id']
  have chosen : s.LabelsStand n s.pairAll.chooseLabels :=
    ⟨by rw [same], by rw [same], by rw [choice.chan, pairing.chan]⟩
  have parked (x : State) : x.LabelsStand n x.parkTimers :=
    ⟨by rw [station_parkTimers], by rw [station_parkTimers], by rw [chan_parkTimers]⟩
  have settled (x : State) : x.LabelsStand n x.settleBus :=
    ⟨by rw [station_settleBus], by rw [station_settleBus],
      by rw [chan_settleBus, Channel.request_pendingCompletions]⟩
  have served := labelsStand_serveAndStart (n := n) 5 (s := s.pairAll.chooseLabels) (by rw [same]; exact waits)
  rw [finishEvent, settleStations]
  exact ((chosen.trans served).trans (parked _)).trans (settled _)

end State

/-! ### A head that is marked -/

/-- The head of the queue, if there is one, carries a mark. -/
def Station.HeadMarked (t : Station) : Prop := ∀ l, t.queue.head? = some l → l.mark.isSome = true

theorem Station.HeadMarked.firm {t : Station} (h : t.HeadMarked) : t.Firm := fun l head _ unmarked => by
  have marked := h l head
  simp [unmarked] at marked

end Sys2Proof.Machine
end

section
/-! FLUSH (R125, R154). -/

namespace Sys2Proof.Machine

open State

/-- The mark of an abandonment with FLUSHED (R154). -/
def Label.flushed (l : Label) : Label := { l with mark := some .flushed }

/-- The labels of some context numbers marked FLUSHED. -/
def Label.flushedIn (cs : List Nat) (l : Label) : Label := if l.ctx ∈ cs then l.flushed else l

theorem Label.ctx_flushedIn (cs : List Nat) (l : Label) : (l.flushedIn cs).ctx = l.ctx := by
  unfold flushedIn
  split <;> rfl

namespace State

variable {n : StationNo}

/-- The head of the queue takes its mark or leaves, label after label (R154). -/
theorem headMarked_abandonAll (st : Status) (cs : List Nat) : ∀ {s : State},
    (s.station n).queue.map (fun l => l.ctx) = cs ∨ (s.station n).HeadMarked ∧ (s.station n).queue ≠ [] →
    ((s.abandonAll n st cs).station n).HeadMarked := by
  induction cs with
  | nil =>
    rintro s (all | ⟨marked, -⟩)
    · intro l head
      rw [abandonAll, List.map_eq_nil_iff.mp all] at head
      cases head
    · exact marked
  | cons c cs ih =>
    intro s h
    rw [abandonAll]
    have keeps {l : Label} (head : (s.station n).queue.head? = some l) (marked : l.mark.isSome = true) :
        ((s.abandon n c st).station n).HeadMarked ∧ ((s.abandon n c st).station n).queue ≠ [] := by
      have stays := head?_abandon head marked c st
      refine ⟨fun x there => ?_, fun none => by simp [none] at stays⟩
      rw [stays, Option.some.injEq] at there
      rw [← there]
      exact marked
    cases queue : (s.station n).queue with
    | nil =>
      rcases h with all | ⟨-, some⟩
      · simp [queue] at all
      · exact absurd queue some
    | cons l rest =>
      have head : (s.station n).queue.head? = some l := by rw [queue]; rfl
      by_cases marked : l.mark.isSome = true
      · exact ih (.inr (keeps head marked))
      rcases h with all | ⟨marks, -⟩
      · rw [queue, List.map_cons, List.cons.injEq] at all
        obtain ⟨rfl, behind⟩ := all
        have unmarked : l.mark = none := by simpa using marked
        by_cases composing : l.state = .composing
        · refine ih (.inr ⟨fun x there => ?_, fun none => ?_⟩)
          · rw [abandon_of_composing queue unmarked composing, updLabel, station_updStation] at there
            simp only [queue, List.map_cons, if_true, List.head?_cons, Option.some.injEq] at there
            rw [← there]
            rfl
          · rw [abandon_of_composing queue unmarked composing, updLabel, station_updStation] at none
            simp [queue] at none
        · refine ih (.inl ?_)
          rw [abandon_of_head queue unmarked composing, station_finishHead, queue]
          exact behind
      · exact absurd (marks l head) marked

/-- Unmarked labels that are not COMPOSING finish in order (R154). -/
theorem abandonAll_of_started (st : Status) (pre cs : List Nat) (ls : List Label) :
    ∀ {s : State} {rest : List Label}, (s.station n).queue = ls ++ rest →
    (∀ l ∈ ls, l.mark = none ∧ l.state ≠ .composing) → ls.map (fun l => l.ctx) = pre →
    ∃ x : State, s.abandonAll n st (pre ++ cs) = x.abandonAll n st cs ∧
      x.station n = { s.station n with queue := rest } ∧
      (x.chan (.station n)).pendingCompletions = (s.chan (.station n)).pendingCompletions ++
        ls.map (fun l => ⟨l.index, l.completion st⟩) := by
  induction ls generalizing pre with
  | nil =>
    rintro s rest queue - rfl
    rw [List.nil_append] at queue
    exact ⟨s, rfl, by rw [← queue], by simp⟩
  | cons l ls ih =>
    rintro s rest queue plain rfl
    obtain ⟨unmarked, idle⟩ := plain l (List.mem_cons_self ..)
    rw [List.cons_append] at queue
    have after : ((s.finishHead n st).station n) = { s.station n with queue := ls ++ rest } := by
      rw [station_finishHead, queue, List.tail_cons]
    obtain ⟨x, e, station, pending⟩ := ih _ (s := s.finishHead n st) (rest := rest) (by rw [after])
      (fun y member => plain y (List.mem_cons_of_mem _ member)) rfl
    refine ⟨x, ?_, by rw [station, after], ?_⟩
    · rw [List.map_cons, List.cons_append, abandonAll, abandon_of_head queue unmarked idle, e]
    · rw [pending, chan_finishHead queue]
      simp

/-- Behind a marked head a label takes the mark, with those of its number (R154). -/
theorem abandon_of_marked (c : Nat) (l : Label) (rest : List Label) {s : State} {done : List Nat}
    (marked : l.ctx ∈ done) (unmarked : ∀ x ∈ l :: rest, x.mark = none)
    (queue : (s.station n).queue = (l :: rest).map (Label.flushedIn done)) :
    (s.abandon n c .flushed).station n =
        { s.station n with queue := (l :: rest).map (Label.flushedIn (done ++ [c])) } ∧
      (s.abandon n c .flushed).chan (.station n) = s.chan (.station n) := by
  have same (h : ∀ x ∈ l :: rest, x.ctx = c → c ∈ done) :
      (l :: rest).map (Label.flushedIn (done ++ [c])) = (s.station n).queue := by
    rw [queue]
    refine List.map_congr_left fun x member => ?_
    have iff : x.ctx ∈ done ++ [c] ↔ x.ctx ∈ done := by
      rw [List.mem_append, List.mem_singleton]
      exact ⟨fun both => both.elim id fun e => e ▸ h x member e, .inl⟩
    simp only [Label.flushedIn, iff]
  unfold abandon
  split
  · next absent =>
    rw [Station.label?, queue, List.find?_eq_none] at absent
    rw [same fun x member e => absurd (e : x.ctx = c) (by
      simpa [Label.ctx_flushedIn] using absent _ (List.mem_map_of_mem member))]
    exact ⟨rfl, rfl⟩
  · next y found =>
    have named : y.ctx = c := by simpa using List.find?_some found
    obtain ⟨x, member, rfl⟩ := List.mem_map.mp (queue ▸ List.mem_of_find?_eq_some found)
    rw [Label.ctx_flushedIn] at named
    split
    · next before =>
      have here : c ∈ done := by
        by_contra other
        rw [Label.flushedIn, named, if_neg other, unmarked x member] at before
        cases before
      rw [same fun _ _ _ => here]
      exact ⟨rfl, rfl⟩
    · next before =>
      have other : c ∉ done := fun here => before (by rw [Label.flushedIn, named, if_pos here]; rfl)
      have behind : ¬((s.station n).queue.head?.map fun h => h.ctx) = some c := by
        simp only [queue, List.map_cons, List.head?_cons, Option.map_some, Label.ctx_flushedIn,
          Option.some.injEq]
        exact fun e => other (e ▸ marked)
      rw [if_neg fun both => behind both.1, updLabel, station_updStation, chan_updStation, queue, List.map_map]
      refine ⟨?_, rfl⟩
      congr 1
      refine List.map_congr_left fun z _ => ?_
      simp only [Function.comp_apply, Label.ctx_flushedIn]
      by_cases e : z.ctx = c
      · subst e
        rw [if_pos rfl, Label.flushedIn, if_neg other, Label.flushedIn, if_pos (by simp)]
        rfl
      · simp [Label.flushedIn, e]

/-- Behind a marked head every label takes the mark (R154). -/
theorem abandonAll_of_marked (cs : List Nat) (l : Label) (rest : List Label) :
    ∀ {s : State} {done : List Nat}, l.ctx ∈ done → (∀ x ∈ l :: rest, x.mark = none) →
    (s.station n).queue = (l :: rest).map (Label.flushedIn done) →
    (s.abandonAll n .flushed cs).station n =
        { s.station n with queue := (l :: rest).map (Label.flushedIn (done ++ cs)) } ∧
      (s.abandonAll n .flushed cs).chan (.station n) = s.chan (.station n) := by
  induction cs with
  | nil =>
    intro s done _ _ queue
    rw [List.append_nil, ← queue]
    exact ⟨rfl, rfl⟩
  | cons c cs ih =>
    intro s done marked unmarked queue
    obtain ⟨station, chan⟩ := abandon_of_marked c l rest marked unmarked queue
    obtain ⟨stationAll, chanAll⟩ := ih (s := s.abandon n c .flushed) (done := done ++ [c])
      (List.mem_append_left _ marked) unmarked (by rw [station])
    rw [abandonAll, stationAll, chanAll, station, chan, List.append_assoc]
    exact ⟨rfl, rfl⟩

/-! ### The queues are flushed (R154) -/

section

variable (s : State) (n : StationNo)

theorem station_abandonAll (st : Status) (cs : List Nat) : ∀ s : State,
    ∃ q, (s.abandonAll n st cs).station n = { s.station n with queue := q } := by
  induction cs with
  | nil => exact fun s => ⟨_, rfl⟩
  | cons c cs ih =>
    intro s
    obtain ⟨_, here⟩ := station_abandon s n c st
    obtain ⟨q, e⟩ := ih (s.abandon n c st)
    exact ⟨q, by rw [abandonAll, e, here]⟩

theorem laneWork_abandonAll (st : Status) (cs : List Nat) : ∀ s : State,
    s.LaneWork n (s.abandonAll n st cs) := by
  induction cs with
  | nil => exact .refl
  | cons c cs ih => exact fun s => (laneWork_abandon ..).trans (ih _)

/-- The station whose trigger queue and print deadline are cleared (R154). -/
def deadlineCleared : State := s.updStation n fun t => { t with triggers := [], printDeadline := none }

theorem flushQueues_eq : s.flushQueues n =
    (s.deadlineCleared n).abandonAll n .flushed ((s.station n).queue.map fun l => l.ctx) := rfl

theorem station_deadlineCleared : (s.deadlineCleared n).station n =
    { s.station n with triggers := [], printDeadline := none } := station_updStation ..

theorem chan_deadlineCleared (c : Chan) : (s.deadlineCleared n).chan c = s.chan c := chan_updStation ..

theorem laneWork_flushQueues : s.LaneWork n (s.flushQueues n) :=
  (laneWork_updStation_of_same s n rfl rfl rfl).trans (laneWork_abandonAll ..)

theorem station_flushQueues : ∃ q, (s.flushQueues n).station n =
    { s.station n with triggers := [], printDeadline := none, queue := q } := by
  obtain ⟨q, e⟩ := station_abandonAll n .flushed ((s.station n).queue.map fun l => l.ctx) (s.deadlineCleared n)
  exact ⟨q, by rw [flushQueues_eq, e, station_deadlineCleared]⟩

theorem headMarked_flushQueues : ((s.flushQueues n).station n).HeadMarked := by
  rw [flushQueues_eq]
  refine headMarked_abandonAll .flushed _ (.inl ?_)
  rw [station_deadlineCleared]

variable {s n}

/-- Labels before the first COMPOSING one finish FLUSHED, and it and those behind it take the mark (R154). -/
theorem flushQueues_of_composing {pre rest : List Label} {l : Label}
    (queue : (s.station n).queue = pre ++ l :: rest) (unmarked : ∀ x ∈ (s.station n).queue, x.mark = none)
    (started : ∀ x ∈ pre, x.state ≠ .composing) (composing : l.state = .composing) :
    ((s.flushQueues n).station n).queue = (l :: rest).map Label.flushed ∧
      ((s.flushQueues n).chan (.station n)).pendingCompletions = (s.chan (.station n)).pendingCompletions ++
        pre.map (fun x => ⟨x.index, x.completion .flushed⟩) := by
  obtain ⟨x, e, station, pending⟩ := abandonAll_of_started (n := n) .flushed (pre.map fun l => l.ctx)
    ((l :: rest).map fun l => l.ctx) pre (s := s.deadlineCleared n) (rest := l :: rest)
    (by rw [station_deadlineCleared]; exact queue)
    (fun x member => ⟨unmarked x (by rw [queue]; exact List.mem_append_left _ member), started x member⟩) rfl
  have marks (y : Label) (member : y ∈ l :: rest) : y.mark = none :=
    unmarked y (by rw [queue]; exact List.mem_append_right _ member)
  have here : (x.station n).queue = l :: rest := by rw [station]
  have marked : ((x.abandon n l.ctx .flushed).station n).queue = (l :: rest).map (Label.flushedIn [l.ctx]) := by
    rw [abandon_of_composing here (marks l (List.mem_cons_self ..)) composing, updLabel, station_updStation, here]
    refine List.map_congr_left fun y _ => ?_
    simp only [Label.flushedIn, List.mem_singleton]
    rfl
  obtain ⟨all, chan⟩ := abandonAll_of_marked (n := n) (rest.map fun l => l.ctx) l rest
    (s := x.abandon n l.ctx .flushed) (done := [l.ctx]) (by simp) marks marked
  have whole : (l :: rest).map (Label.flushedIn ([l.ctx] ++ rest.map fun l => l.ctx)) =
      (l :: rest).map Label.flushed :=
    List.map_congr_left fun y member => if_pos (List.mem_map_of_mem member)
  have flushed : s.flushQueues n = (x.abandon n l.ctx .flushed).abandonAll n .flushed (rest.map fun l => l.ctx) := by
    rw [flushQueues_eq, queue, List.map_append, e]
    rfl
  rw [flushed, all, whole, chan, abandon_of_composing here (marks l (List.mem_cons_self ..)) composing,
    updLabel, chan_updStation, pending, chan_deadlineCleared]
  exact ⟨rfl, rfl⟩

/-- Without a COMPOSING label all finish FLUSHED (R154). -/
theorem flushQueues_of_started
    (plain : ∀ l ∈ (s.station n).queue, l.mark = none ∧ l.state ≠ .composing) :
    ((s.flushQueues n).station n).queue = [] ∧
      ((s.flushQueues n).chan (.station n)).pendingCompletions = (s.chan (.station n)).pendingCompletions ++
        (s.station n).queue.map (fun x => ⟨x.index, x.completion .flushed⟩) := by
  obtain ⟨x, e, station, pending⟩ := abandonAll_of_started (n := n) .flushed
    ((s.station n).queue.map fun l => l.ctx) [] (s.station n).queue (s := s.deadlineCleared n) (rest := [])
    (by rw [station_deadlineCleared, List.append_nil]) plain rfl
  rw [List.append_nil] at e
  rw [flushQueues_eq, e, abandonAll, station, pending, chan_deadlineCleared]
  exact ⟨rfl, rfl⟩

end

/-! ### The eject of a flushed label (R154, R155) -/

section

variable (s : State) (n : StationNo)

/-- The station on its way into EJECTING, before its first line (R154). -/
def ejectEntered : State :=
  ((s.enter n .ejecting).updStation n fun t =>
    { t with returnState := some (if t.holdPending then .held else .idle) }).resetUnregistered n

theorem startEject_eq : s.startEject n = (s.ejectEntered n).beginEjecting n := rfl

theorem station_ejectEntered : (s.ejectEntered n).station n = { (s.station n).enter .ejecting s.clock with
    returnState := some (if (s.station n).holdPending then .held else .idle),
    sinceEdge := if (s.station n).registered then (s.station n).sinceEdge else 0 } := by
  simp only [ejectEntered, resetUnregistered, enter, station_updStation]
  rfl

theorem laneWork_startEject : s.LaneWork n (s.startEject n) := by
  have entered : s.LaneWork n (s.ejectEntered n) := by
    unfold ejectEntered resetUnregistered
    exact ((laneWork_enter s n rfl).trans (laneWork_updStation_of_same _ n rfl rfl rfl)).trans
      (laneWork_updStation_of_same _ n rfl rfl rfl)
  refine entered.trans ?_
  rw [startEject_eq, beginEjecting]
  split
  · exact laneWork_mediaFault ..
  split
  · exact laneWork_mediaFault ..
  · exact (laneWork_stepMotor ..).trans (laneWork_setFeed ..)

/-- A station that starts to eject is in EJECTING, or in FAULT (R146, R155). -/
theorem away_startEject : ((s.startEject n).station n).state.checkable = false := by
  have fault : (((s.ejectEntered n).mediaFault n).station n).state.checkable = false := by
    obtain ⟨_, e⟩ := station_mediaFault (s.ejectEntered n) n
    rw [e]
    rfl
  rw [startEject_eq, beginEjecting]
  split
  · exact fault
  split
  · exact fault
  · rw [setFeed, station_updStation, stepMotor, station_updStation, station_ejectEntered]
    rfl

variable {s n}

theorem LabelsStand.startEject (none : (s.station n).triggers = []) : s.LabelsStand n (s.startEject n) := by
  have entered : s.LabelsStand n (s.ejectEntered n) :=
    ⟨by rw [station_ejectEntered]; rfl, by rw [station_ejectEntered]; rfl, by
      simp only [ejectEntered, resetUnregistered, enter, chan_updStation]⟩
  have fault : (s.ejectEntered n).LabelsStand n ((s.ejectEntered n).mediaFault n) := by
    have idle : (s.ejectEntered n).finishWorking n .mediaFault = s.ejectEntered n :=
      if_neg (by rw [station_ejectEntered]; nofun)
    have stock : (s.ejectEntered n).LabelsStand n ((s.ejectEntered n).setStock n false false) :=
      updStation _ rfl rfl
    rw [mediaFault, idle]
    exact stock.trans (enterFault ((stock.triggers.trans entered.triggers).trans none) _)
  refine entered.trans ?_
  rw [startEject_eq, beginEjecting]
  split
  · exact fault
  split
  · exact fault
  · exact (updStation _ rfl rfl).trans (updStation _ rfl rfl)

/-- With the stock there and lines since edge below the limit the first line of the eject begins (R155). -/
theorem station_startEject (present : (s.station n).mediaPresent = true)
    (below : (if (s.station n).registered then (s.station n).sinceEdge else 0) < (s.station n).edgeLimit) :
    ((s.startEject n).station n).state = .ejecting ∧ ((s.startEject n).station n).returnState =
      some (if (s.station n).holdPending then .held else .idle) := by
  have here : ((s.ejectEntered n).station n).mediaPresent = true := by rw [station_ejectEntered]; exact present
  have room : ¬((s.ejectEntered n).station n).edgeLimit < ((s.ejectEntered n).station n).sinceEdge + 1 := by
    rw [station_ejectEntered]
    exact Nat.not_lt.mpr below
  rw [startEject_eq, beginEjecting, if_neg (by simp [here]), if_neg room, setFeed, station_updStation, stepMotor, station_updStation,
    station_ejectEntered]
  exact ⟨rfl, rfl⟩

end

/-! ### FLUSH by state (R154) -/

/-- What FLUSH does at the station after the queues (R154). -/
def flushDone (s : State) (n : StationNo) : State :=
  match (s.station n).state with
  | .printing => (s.flushQueues n).startEject n
  | .presenting => (s.flushQueues n).enterRest n
  | _ => s.flushQueues n

variable {s : State}

theorem flush_of_refused (refused : (s.station n).state ∈ [StationState.offline, .calibrating]) :
    s.flush n = (.state, s) := by
  simp only [List.mem_cons, List.not_mem_nil, or_false] at refused
  unfold flush
  rcases refused with e | e <;> (rw [e]; rfl)

theorem flush_of_taken (taken : (s.station n).state ∉ [StationState.offline, .calibrating]) :
    s.flush n = (s.flushDone n).done := by
  simp only [List.mem_cons, List.not_mem_nil, or_false, not_or] at taken
  unfold flush flushDone
  cases state : (s.station n).state
  case offline => exact absurd state taken.1
  case calibrating => exact absurd state taken.2
  all_goals rfl

theorem flushDone_of_printing (printing : (s.station n).state = .printing) :
    s.flushDone n = (s.flushQueues n).startEject n := by
  rw [flushDone, printing]

theorem flushDone_of_presenting (presenting : (s.station n).state = .presenting) :
    s.flushDone n = (s.flushQueues n).enterRest n := by
  rw [flushDone, presenting]

theorem flushDone_of_other (printing : (s.station n).state ≠ .printing)
    (presenting : (s.station n).state ≠ .presenting) : s.flushDone n = s.flushQueues n := by
  unfold flushDone
  split
  · next e => exact absurd e printing
  · next e => exact absurd e presenting
  · rfl

theorem triggers_flushQueues (s : State) (n : StationNo) : ((s.flushQueues n).station n).triggers = [] := by
  obtain ⟨_, e⟩ := station_flushQueues s n
  rw [e]

/-- Eject and rest leave the queues as they are flushed. -/
theorem labelsStand_flushDone (s : State) (n : StationNo) : (s.flushQueues n).LabelsStand n (s.flushDone n) := by
  unfold flushDone
  split
  · exact .startEject (triggers_flushQueues s n)
  · exact .enterRest (triggers_flushQueues s n)
  · exact .refl _

theorem triggers_flushDone (s : State) (n : StationNo) : ((s.flushDone n).station n).triggers = [] :=
  (labelsStand_flushDone s n).triggers.trans (triggers_flushQueues s n)

theorem headMarked_flushDone (s : State) (n : StationNo) : ((s.flushDone n).station n).HeadMarked := by
  unfold Station.HeadMarked
  rw [(labelsStand_flushDone s n).queue]
  exact headMarked_flushQueues s n

/-- Labels that are all marked stand over the rest of the event. -/
theorem flushed_finishEvent (marked : ∀ l ∈ ((s.flushQueues n).station n).queue, l.mark.isSome = true) :
    (s.flushQueues n).LabelsStand n (s.flushDone n).finishEvent := by
  have done := labelsStand_flushDone s n
  refine done.trans (labelsStand_finishEvent (Station.paired_of_no_triggers (triggers_flushDone s n))
    (headMarked_flushDone s n).firm.waits fun l member => ?_)
  rw [done.queue] at member
  have mark := marked l member
  cases none : l.mark with
  | none => simp [none] at mark
  | some _ => simp [Label.mayCompose, none]

/-- A station that is flushed in a state that it keeps. -/
theorem eventStands_flushDone (unserved : (s.flushDone n).Unserved n) :
    (s.flushDone n).EventStands n (s.flushDone n).finishEvent :=
  eventStands (Station.paired_of_no_triggers (triggers_flushDone s n)) (headMarked_flushDone s n).firm unserved

end State

theorem Station.edgeLimit_eq {t : Station} {p : Profile} (profile : t.profile = some p) :
    t.edgeLimit = p.pitch + p.tolerance := by
  simp only [edgeLimit, profile]

/-- Settles O25: the labels are abandoned one by one, none of those left is the start test's or the Composer's, and the
station ejects, comes to rest or stays by its state. -/
theorem flush : Obligations.Flush := by
  refine ⟨fun t p => Station.edgeLimit_eq, fun s n c =>
    ⟨fun refused => execFlush_of_outcome c (flush_of_refused refused), fun taken =>
    ⟨_, execFlush_of_outcome c (flush_of_taken taken), ?_⟩⟩⟩
  obtain ⟨q, queues⟩ := station_flushQueues s n
  have ended := (kept_finishEvent (s.flushDone n)).lanes n
  have triggers : ((s.flushDone n).finishEvent.station n).triggers = [] := by
    have fewer := ended.triggers
    rw [triggers_flushDone, List.length_nil, Nat.le_zero, List.length_eq_zero_iff] at fewer
    exact fewer
  rw [station_recordCommand, chan_recordCommand]
  refine ⟨rfl, rfl, triggers, fun stays => ?_, fun rests noCheck => ?_, fun plain => ?_,
    fun pre l rest queue unmarked started composing => ?_, fun printing present below => ?_,
    fun presenting hold => ?_, fun presenting free noCheck => ?_⟩
  · have same : s.flushDone n = s.flushQueues n := flushDone_of_other (by rintro e; simp [e] at stays)
      (by rintro e; simp [e] at stays)
    obtain ⟨_, _, _, e⟩ := lane_finishEvent_of_away (s := s.flushDone n) (n := n) (by
      rw [same, queues]
      simp only [List.mem_cons, List.not_mem_nil, or_false] at stays
      rcases stays with e | e | e | e | e <;> simp [e, StationState.checkable])
    rw [e, same, queues]
    exact ⟨rfl, rfl⟩
  · have same : s.flushDone n = s.flushQueues n := flushDone_of_other (by rintro e; simp [e] at rests)
      (by rintro e; simp [e] at rests)
    obtain ⟨_, -, -, e⟩ := (eventStands_flushDone (s := s) (n := n) fun _ => by
      rw [same, unasked, (laneWork_flushQueues s n).checkPending]
      exact noCheck).station
    rw [e, same, queues]
    exact ⟨rfl, rfl, rfl⟩
  · obtain ⟨none, pending⟩ := flushQueues_of_started plain
    have stands := flushed_finishEvent (s := s) (n := n) fun l member => by
      rw [none] at member
      cases member
    exact ⟨stands.queue.trans none, stands.pending.trans pending⟩
  · obtain ⟨marked, pending⟩ := flushQueues_of_composing queue unmarked started composing
    have stands := flushed_finishEvent (s := s) (n := n) fun x member => by
      rw [marked] at member
      obtain ⟨_, -, rfl⟩ := List.mem_map.mp member
      rfl
    exact ⟨stands.queue.trans marked, stands.pending.trans pending⟩
  · rw [flushDone_of_printing printing]
    obtain ⟨_, _, _, e⟩ := lane_finishEvent_of_away (away_startEject (s.flushQueues n) n)
    obtain ⟨state, back⟩ := station_startEject (s := s.flushQueues n) (n := n) (by rw [queues]; exact present)
      (by rw [queues]; exact below)
    rw [e]
    exact ⟨state, by rw [queues] at back; exact back⟩
  · rw [flushDone_of_presenting presenting, enterRest_of_hold (by rw [queues]; exact hold)]
    obtain ⟨_, e⟩ := finishEvent_of_holding (station_enterHeld (s.flushQueues n) n)
    rw [e]
    exact ⟨rfl, rfl, rfl, rfl⟩
  · have same : s.flushDone n = (s.flushQueues n).enter n .idle := by
      rw [flushDone_of_presenting presenting, enterRest_of_free (by rw [queues]; exact free)]
    obtain ⟨_, -, -, e⟩ := (eventStands_flushDone (s := s) (n := n) fun _ => by
      rw [same, unasked, enter, updStation_checkPending, (laneWork_flushQueues s n).checkPending]
      exact noCheck).station
    rw [e, same, station_enter, queues]
    exact ⟨rfl, free, rfl, rfl⟩

end Sys2Proof.Machine
end

section
/-! Where a calibration or an eject ends, and CALIBRATE (R155, R159 to R161). -/

namespace Sys2Proof.Machine

open State

namespace State

variable {s : State} {n : StationNo}

/-! ### The return state (R155, R160, R161) -/

/-- A station whose return state is HELD, or for which a hold is pending. -/
abbrev ReturnsHeld (s : State) (n : StationNo) : Prop :=
  (s.station n).holdPending = true ∨ (s.station n).returnState = some .held

theorem enterReturn_of_held (held : s.ReturnsHeld n) : s.enterReturn n = s.enterHeld n := if_pos held

theorem enterReturn_of_idle (idle : ¬s.ReturnsHeld n) : s.enterReturn n = s.enter n .idle := if_neg idle

/-- Neither return touches the other channels, RCH-C, or the requests for checks. -/
theorem control_enterReturn (s : State) (n : StationNo) : (s.enterReturn n).control = s.control := by
  unfold enterReturn
  split
  · exact control_of_confined (confined_enterHeld ..)
  · rfl

/-- A station that goes back to IDLE with no label and no check asked for stays there. -/
theorem station_idleEmpty (empty : (s.station n).queue = []) (noCheck : s.unasked n) :
    (s.enter n .idle).finishEvent.station n = { (s.station n).enter .idle s.clock with
      parkTimer := ((s.station n).enter .idle s.clock).parkTimerAt s.clock } := by
  have none : ((s.enter n .idle).station n).queue = [] := by
    rw [station_enter]
    exact empty
  rw [(eventStands_of_empty none noCheck).of_empty none, station_enter]
  rfl

/-! ### A calibration that ends (R160) -/

/-- The state of a calibration that has failed, before the station returns. -/
def calibrationFailed (s : State) (n : StationNo) : State :=
  (s.report .calibrate (controlCompletion .mediaFault [])).setStock n false false

theorem calibrationFails_eq (s : State) (n : StationNo) :
    s.calibrationFails n = (s.calibrationFailed n).enterReturn n := rfl

theorem station_calibrationFailed (s : State) (n : StationNo) : (s.calibrationFailed n).station n =
    { s.station n with registered := false, aligned := false } := by
  rw [calibrationFailed, setStock, station_updStation, station_report]

theorem clock_calibrationFailed (s : State) (n : StationNo) : (s.calibrationFailed n).clock = s.clock := by
  rw [calibrationFailed, setStock, updStation_clock, (kept_report ..).clock]

theorem checkPending_calibrationFailed (s : State) (n : StationNo) :
    (s.calibrationFailed n).checkPending = s.checkPending := by
  obtain ⟨-, -, -, -, same, -⟩ := (chanWork_report s .calibrate (controlCompletion .mediaFault [])).sameLanes
  rw [calibrationFailed, setStock, updStation_checkPending, same]

theorem control_calibrationFailed {d : List Byte} {i : Nat} (hand : s.control.hand = some ⟨d, i, .busy⟩)
    (named : controlCode d = .calibrate) :
    (s.calibrationFailed n).control.hand = some ⟨d, i, .complete (controlCompletion .mediaFault [])⟩ :=
  control_report hand named _

/-- What a failed calibration has answered, and answers at the end of the event. -/
theorem answers_calibrationFails {d : List Byte} {i : Nat} (hand : s.control.hand = some ⟨d, i, .busy⟩)
    (named : controlCode d = .calibrate) : (s.calibrationFails n).answersAlone .mediaFault ∧
      (s.calibrationFails n).finishEvent.answersAlone .mediaFault := by
  have answered : (s.calibrationFails n).control.hand =
      some ⟨d, i, .complete (controlCompletion .mediaFault [])⟩ := by
    rw [calibrationFails_eq, control_enterReturn, control_calibrationFailed hand named]
  exact ⟨answersAlone_of_hand answered, answersAlone_of_hand (by rw [control_finishEvent, answered])⟩

theorem returnsHeld_calibrationFailed : (s.calibrationFailed n).ReturnsHeld n ↔ s.ReturnsHeld n := by
  unfold ReturnsHeld
  rw [station_calibrationFailed]

/-- A failed calibration comes back to HELD (R160). -/
theorem calibrationFails_of_held (held : s.ReturnsHeld n) : ∃ q,
    (s.calibrationFails n).finishEvent.station n =
      Station.holding { s.station n with registered := false, aligned := false } s.clock q := by
  have entered := finishEvent_of_holding (station_enterHeld (s.calibrationFailed n) n)
  rwa [station_calibrationFailed, clock_calibrationFailed,
    ← enterReturn_of_held (returnsHeld_calibrationFailed.mpr held)] at entered

/-- A failed calibration comes back to IDLE (R160). -/
theorem calibrationFails_of_idle (idle : ¬s.ReturnsHeld n) :
    s.calibrationFails n = (s.calibrationFailed n).enter n .idle :=
  enterReturn_of_idle fun held => idle (returnsHeld_calibrationFailed.mp held)

theorem station_calibrationFails_of_idle (idle : ¬s.ReturnsHeld n) : (s.calibrationFails n).station n =
    Station.enter { s.station n with registered := false, aligned := false } .idle s.clock := by
  rw [calibrationFails_of_idle idle, station_enter, station_calibrationFailed, clock_calibrationFailed]

theorem stockLost_calibrationFails (s : State) (n : StationNo) :
    ((s.calibrationFails n).station n).StockLost := by
  by_cases held : s.ReturnsHeld n
  · obtain ⟨_, e⟩ := station_enterHeld (s.calibrationFailed n) n
    rw [calibrationFails_eq, enterReturn_of_held (returnsHeld_calibrationFailed.mpr held), e,
      station_calibrationFailed]
    exact ⟨rfl, rfl⟩
  · rw [station_calibrationFails_of_idle held]
    exact ⟨rfl, rfl⟩

theorem calibrationFails_of_empty (idle : ¬s.ReturnsHeld n) (empty : (s.station n).queue = [])
    (noCheck : s.unasked n) : ((s.calibrationFails n).finishEvent.station n).state = .idle ∧
      ((s.calibrationFails n).finishEvent.station n).power = true ∧
      ((s.calibrationFails n).finishEvent.station n).registered = false ∧
      ((s.calibrationFails n).finishEvent.station n).aligned = false ∧
      ((s.calibrationFails n).finishEvent.station n).motor = false := by
  rw [calibrationFails_of_idle idle, station_idleEmpty (by rw [station_calibrationFailed]; exact empty)
    (by rw [unasked, checkPending_calibrationFailed]; exact noCheck), station_calibrationFailed]
  exact ⟨rfl, rfl, rfl, rfl, rfl⟩

/-! ### CALIBRATE (R159) -/

theorem control_outcome {d : List Byte} {i : Nat} {w : Work} (hand : s.control.hand = some ⟨d, i, w⟩)
    (b : List Byte) : (s.outcome b).control.hand = some ⟨d, i, .complete b⟩ := by
  simp [outcome, setWork, updChan, hand]

/-- A refusal that carries its status alone is what RCH-C has to write at the end of the event. -/
theorem answersAlone_refused {d : List Byte} {i : Nat} {w : Work} (hand : s.control.hand = some ⟨d, i, w⟩)
    (st : Status) : (s.outcome (controlCompletion st [])).finishEvent.answersAlone st :=
  answersAlone_of_hand (by rw [control_finishEvent, control_outcome hand])

/-- The station in CALIBRATING before its first line, with RCH-C waiting (R159). -/
def calibrationEntered (s : State) (n : StationNo) : State :=
  ((s.updStation n fun t => { t with
    returnState := some (s.station n).state.asReturn, sinceEdge := 0 }).enter n .calibrating).setWork .control .busy

theorem startCalibration_eq (s : State) (n : StationNo) :
    s.startCalibration n = (s.calibrationEntered n).beginCalibrating n 0 0 := rfl

theorem station_calibrationEntered (s : State) (n : StationNo) : (s.calibrationEntered n).station n =
    Station.enter { s.station n with
      returnState := some (s.station n).state.asReturn, sinceEdge := 0 } .calibrating s.clock := by
  rw [calibrationEntered, setWork, station_updChan, station_enter, station_updStation, updStation_clock]

theorem control_calibrationEntered {d : List Byte} {i : Nat} {w : Work}
    (hand : s.control.hand = some ⟨d, i, w⟩) :
    (s.calibrationEntered n).control.hand = some ⟨d, i, .busy⟩ := by
  have entered : ((s.updStation n fun t => { t with
      returnState := some (s.station n).state.asReturn, sinceEdge := 0 }).enter n .calibrating).control.hand =
      some ⟨d, i, w⟩ := hand
  simp [calibrationEntered, setWork, updChan, entered]

theorem unasked_calibrationEntered (noCheck : s.unasked n) : (s.calibrationEntered n).unasked n := by
  rw [unasked, calibrationEntered, setWork, updChan_checkPending]
  exact noCheck

theorem returnsHeld_calibrationEntered : (s.calibrationEntered n).ReturnsHeld n ↔
    (s.station n).holdPending = true ∨ (s.station n).state = .held := by
  unfold ReturnsHeld
  rw [station_calibrationEntered]
  refine or_congr Iff.rfl ?_
  simp only [Station.enter, StationState.asReturn, reduceCtorEq, true_or, or_true, if_true, Option.some.injEq]
  split
  · next held => simp [held]
  · next other => simp [other]

/-- A line of CALIBRATING begins where the stock is there and a line is left (R160). -/
theorem beginCalibrating_of_stock (present : (s.station n).mediaPresent = true) {lines : Nat} (edges : Nat)
    (more : lines < Config.calibrationLimit) : s.beginCalibrating n lines edges = s.updStation n fun t => { t with
      sinceEdge := t.sinceEdge + 1, motor := true,
      feed := some ⟨.calibrate (lines + 1) edges, false, (s.station n).nominalPeriod⟩ } := by
  rw [beginCalibrating, if_neg (by simp [present]), if_neg (Nat.not_le.mpr more)]
  exact updStation_updStation ..

theorem beginCalibrating_of_none {lines edges : Nat}
    (ends : (s.station n).mediaPresent = false ∨ Config.calibrationLimit ≤ lines) :
    s.beginCalibrating n lines edges = s.calibrationFails n := by
  unfold beginCalibrating
  dsimp only
  split
  · rfl
  · next present => rw [if_pos (ends.resolve_left (by simpa using present))]

end State

theorem Station.nominalPeriod_eq {t : Station} {p : Profile} (profile : t.profile = some p) :
    t.nominalPeriod = p.linePeriod := by
  simp only [nominalPeriod, profile]

section

variable {s : State} {n : StationNo} {d : List Byte} {i : Nat}

theorem execCalibrate_of_given (given : s.given d .calibrate i) (station : ctlStation? d = some n) :
    exec .calibrate s = .next (s.takeCalibrate n).finishEvent := by
  show execCalibrate s = _
  simp only [execCalibrate, commandInHand?_of_given given, station]

theorem takeCalibrate_of_absent (absent : (s.station n).dotCount = 0) :
    s.takeCalibrate n = s.outcome (controlCompletion .noHead []) := by
  simp [takeCalibrate, Station.calibrateRefusal?, firstRefusal, Station.fitted, absent]

theorem takeCalibrate_of_offline (fitted : (s.station n).dotCount ≠ 0) (offline : (s.station n).state = .offline) :
    s.takeCalibrate n = s.outcome (controlCompletion .stationOffline []) := by
  simp [takeCalibrate, Station.calibrateRefusal?, firstRefusal, Station.fitted, fitted, offline]

theorem takeCalibrate_of_busy (fitted : (s.station n).dotCount ≠ 0) (online : (s.station n).state ≠ .offline)
    (busy : (s.station n).state ≠ .idle ∧ (s.station n).state ≠ .held) :
    s.takeCalibrate n = s.outcome (controlCompletion .stationBusy []) := by
  simp [takeCalibrate, Station.calibrateRefusal?, firstRefusal, Station.fitted, fitted, online, busy]

theorem takeCalibrate_of_free (fitted : (s.station n).dotCount ≠ 0)
    (free : ¬((s.station n).state ≠ .idle ∧ (s.station n).state ≠ .held)) :
    s.takeCalibrate n = s.startCalibration n := by
  have none : (s.station n).calibrateRefusal? = none := by
    simp only [ne_eq, not_and_or, not_not] at free
    rcases free with state | state <;>
      simp [Station.calibrateRefusal?, firstRefusal, Station.fitted, fitted, state]
  rw [takeCalibrate, none]

end

/-- Settles O32: the first refusal that holds, and otherwise the first line of the calibration or its failure. -/
theorem calibrate : Obligations.Calibrate := by
  refine ⟨fun t p => Station.nominalPeriod_eq, fun s d i n given station =>
    ⟨_, execCalibrate_of_given given station, ?_, ?_⟩⟩
  · exact (((kept_takeCalibrate ..).trans (kept_finishEvent _)).lanes n).profile
  obtain ⟨hand, named⟩ := given
  split
  · next absent =>
    rw [takeCalibrate_of_absent absent]
    exact answersAlone_refused hand _
  next absent =>
  split
  · next offline =>
    rw [takeCalibrate_of_offline absent offline]
    exact answersAlone_refused hand _
  next offline =>
  split
  · next busy =>
    rw [takeCalibrate_of_busy absent offline busy]
    exact answersAlone_refused hand _
  next busy =>
  split
  · next missing =>
    have waits := control_calibrationEntered (n := n) hand
    have entered := station_calibrationEntered s n
    have fails : s.takeCalibrate n = (s.calibrationEntered n).calibrationFails n := by
      rw [takeCalibrate_of_free absent busy, startCalibration_eq,
        beginCalibrating_of_none (.inl (by rw [entered]; exact missing))]
    obtain ⟨answered, answers⟩ := answers_calibrationFails (n := n) waits named
    have lost := (goesOn_finishEvent n ((s.calibrationEntered n).calibrationFails n)).stock
      (stockLost_calibrationFails ..)
    rw [fails]
    refine ⟨answers, ?_, ?_, fun held => ?_, fun idle free => ⟨⟨_, rfl, answered, ?_⟩, fun empty noCheck => ?_⟩⟩
    · exact lost.1
    · exact lost.2
    · obtain ⟨_, e⟩ := calibrationFails_of_held (returnsHeld_calibrationEntered.mpr held.symm)
      rw [e]
      exact ⟨rfl, rfl, rfl⟩
    · rw [station_calibrationFails_of_idle (fun held => by
        have holds := returnsHeld_calibrationEntered.mp held
        simp [free, idle] at holds), entered]
      simp [Station.enter, powerAfter]
    · obtain ⟨state, power, -, -, motor⟩ := calibrationFails_of_empty (s := s.calibrationEntered n) (n := n)
        (fun held => by
          have holds := returnsHeld_calibrationEntered.mp held
          simp [free, idle] at holds)
        (by rw [entered]; exact empty) (unasked_calibrationEntered noCheck)
      exact ⟨state, power, motor⟩
  · next missing =>
    have entered := station_calibrationEntered s n
    have begins : s.takeCalibrate n = (s.calibrationEntered n).updStation n fun t => { t with
        sinceEdge := t.sinceEdge + 1, motor := true,
        feed := some ⟨.calibrate 1 0, false, ((s.calibrationEntered n).station n).nominalPeriod⟩ } := by
      rw [takeCalibrate_of_free absent busy, startCalibration_eq,
        beginCalibrating_of_stock (by rw [entered]; exact (Bool.not_eq_false _).mp missing) 0 (by decide)]
    rw [begins]
    obtain ⟨_, _, _, e⟩ := lane_finishEvent_of_away (s := (s.calibrationEntered n).updStation n fun t => { t with
        sinceEdge := t.sinceEdge + 1, motor := true,
        feed := some ⟨.calibrate 1 0, false, ((s.calibrationEntered n).station n).nominalPeriod⟩ }) (n := n)
      (by rw [station_updStation, entered]; rfl)
    refine ⟨?_, ?_⟩
    · rw [control_finishEvent]
      exact control_calibrationEntered hand
    · rw [e, station_updStation, entered]
      exact ⟨rfl, rfl, rfl, by simp [Station.enter, StationState.asReturn], rfl, rfl⟩

end Sys2Proof.Machine
end

section
/-! Label edges (R145, R146, R155, R160). -/

namespace Sys2Proof.Machine

open State

/-! ### An edge and the station's items -/

theorem Station.edgeGood_iff {t : Station} {p : Profile} (profile : t.profile = some p) : t.edgeGood = true ↔
    t.registered = false ∨ (p.pitch - p.tolerance ≤ t.sinceEdge ∧ t.sinceEdge ≤ p.pitch + p.tolerance) := by
  simp [edgeGood, profile, within]

/-- An edge below the window is not good (R145). -/
theorem Station.edgeGood_of_below {t : Station} {p : Profile} (profile : t.profile = some p)
    (registered : t.registered = true) (below : t.sinceEdge < p.pitch - p.tolerance) : t.edgeGood = false := by
  rw [← Bool.not_eq_true, edgeGood_iff profile]
  rintro (none | ⟨above, -⟩)
  · simp [registered] at none
  · omega

namespace State

variable {s : State} {n : StationNo}

/-- A change at a station at rest on which rest does not depend is the whole of its event. -/
theorem finishEvent_updStation_of_atRest (rest : s.atRest = true) {f : Station → Station}
    (same : (s.station n).SameRest (f (s.station n))) : (s.updStation n f).finishEvent = s.updStation n f :=
  finishEvent_of_atRest ((untouched_updStation s n same).stays.rest rest)

theorem enter_idle_eq (s : State) (n : StationNo) : s.enter n .idle = s.updStation n fun t => { t with
    state := .idle, power := true, motor := false, feed := none, drive := none,
    parkTimer := none, wakeTimer := none, applyTimer := none, labelOut := false,
    checkDue := false, returnState := none, printDeadline := none } := by
  rw [enter]
  congr 1
  funext t
  simp [Station.enter, powerAfter]

/-! ### The second edge of a calibration (R160) -/

/-- The state of a calibration that has its pitch, before the station returns. -/
def calibrationDone (s : State) (n : StationNo) (pitch : Nat) : State :=
  ((s.report .calibrate (calibrateCompletion pitch)).updStation n fun t =>
    { t with profile := t.profile.map (fun p => { p with pitch := pitch }), sinceEdge := 0 }).setStock n true true

theorem calibrationMeasured_of_within {pitch : Nat} (inside : 16 ≤ pitch ∧ pitch ≤ 4200) :
    s.calibrationMeasured n pitch = (s.calibrationDone n pitch).enterReturn n := by
  rw [calibrationMeasured, if_pos (by simpa [within] using inside)]
  rfl

theorem calibrationMeasured_of_outside {pitch : Nat} (outside : ¬(16 ≤ pitch ∧ pitch ≤ 4200)) :
    s.calibrationMeasured n pitch = (s.calibrationFailed n).enterReturn n := by
  rw [calibrationMeasured, if_neg (by simpa [within] using outside)]
  rfl

theorem station_calibrationDone (s : State) (n : StationNo) (pitch : Nat) : (s.calibrationDone n pitch).station n =
    { s.station n with
      profile := (s.station n).profile.map (fun p => { p with pitch := pitch }),
      sinceEdge := 0, registered := true, aligned := true } := by
  rw [calibrationDone, setStock, station_updStation, station_updStation, station_report]

/-- What the second edge leaves before the station returns: its items, and what RCH-C has to write (R160). -/
structure CalibrationEnds (s : State) (n : StationNo) (p : Profile) (good : Bool) (z : State) : Prop where
  station : z.station n = { s.station n with
    profile := some (if good then { p with pitch := (s.station n).sinceEdge } else p),
    registered := good, aligned := good, sinceEdge := if good then 0 else (s.station n).sinceEdge }
  checkPending : z.checkPending = s.checkPending
  judged : s.calibrationMeasured n (s.station n).sinceEdge = z.enterReturn n

theorem calibrationEnds_of_within {p : Profile} (profile : (s.station n).profile = some p)
    (inside : 16 ≤ (s.station n).sinceEdge ∧ (s.station n).sinceEdge ≤ 4200) :
    s.CalibrationEnds n p true (s.calibrationDone n (s.station n).sinceEdge) := by
  refine ⟨?_, ?_, calibrationMeasured_of_within inside⟩
  · rw [station_calibrationDone, profile]
    rfl
  · obtain ⟨-, -, -, -, same, -⟩ :=
      (chanWork_report s .calibrate (calibrateCompletion (s.station n).sinceEdge)).sameLanes
    rw [calibrationDone, setStock, updStation_checkPending, updStation_checkPending, same]

theorem calibrationEnds_of_outside {p : Profile} (profile : (s.station n).profile = some p)
    (outside : ¬(16 ≤ (s.station n).sinceEdge ∧ (s.station n).sinceEdge ≤ 4200)) :
    s.CalibrationEnds n p false (s.calibrationFailed n) := by
  refine ⟨?_, checkPending_calibrationFailed s n, calibrationMeasured_of_outside outside⟩
  rw [station_calibrationFailed]
  simp only [Bool.false_eq_true, if_false, ← profile]

namespace CalibrationEnds

variable {p : Profile} {good : Bool} {z : State} (h : s.CalibrationEnds n p good z)

include h

theorem returnsHeld : z.ReturnsHeld n ↔ s.ReturnsHeld n := by
  unfold ReturnsHeld
  rw [h.station]

theorem profile : ((s.calibrationMeasured n (s.station n).sinceEdge).finishEvent.station n).profile =
    (z.station n).profile := by
  rw [h.judged]
  exact (((kept_enterReturn z n).trans (kept_finishEvent _)).lanes n).profile

/-- What RCH-C has to write at the end of the event. -/
theorem controlAnswer? {d b : List Byte} {i : Nat} (hand : z.control.hand = some ⟨d, i, .complete b⟩) :
    (s.calibrationMeasured n (s.station n).sinceEdge).finishEvent.controlAnswer? = some b := by
  refine controlAnswer?_of_hand (d := d) (i := i) ?_
  rw [h.judged, control_finishEvent, control_enterReturn, hand]

/-- Where the station returns, and what of its stock it takes with it (R160). -/
theorem returned :
    ((s.station n).holdPending = true ∨ (s.station n).returnState = some .held →
      ((s.calibrationMeasured n (s.station n).sinceEdge).finishEvent.station n).state = .held ∧
      ((s.calibrationMeasured n (s.station n).sinceEdge).finishEvent.station n).holdPending = false ∧
      ((s.calibrationMeasured n (s.station n).sinceEdge).finishEvent.station n).registered = good ∧
      ((s.calibrationMeasured n (s.station n).sinceEdge).finishEvent.station n).aligned = good ∧
      ((s.calibrationMeasured n (s.station n).sinceEdge).finishEvent.station n).motor = false) ∧
    ((s.station n).holdPending = false → (s.station n).returnState ≠ some .held →
      (∃ u : State, (s.calibrationMeasured n (s.station n).sinceEdge).finishEvent = (u.enter n .idle).finishEvent ∧
        u.station n = { s.station n with
          profile := ((s.calibrationMeasured n (s.station n).sinceEdge).finishEvent.station n).profile,
          registered := good, aligned := good,
          sinceEdge := if good then 0 else (s.station n).sinceEdge }) ∧
      ((s.station n).queue = [] → s.unasked n →
        ((s.calibrationMeasured n (s.station n).sinceEdge).finishEvent.station n).state = .idle ∧
        ((s.calibrationMeasured n (s.station n).sinceEdge).finishEvent.station n).power = true ∧
        ((s.calibrationMeasured n (s.station n).sinceEdge).finishEvent.station n).registered = good ∧
        ((s.calibrationMeasured n (s.station n).sinceEdge).finishEvent.station n).aligned = good ∧
        ((s.calibrationMeasured n (s.station n).sinceEdge).finishEvent.station n).motor = false)) := by
  have taken := h.profile
  rw [h.judged] at taken ⊢
  refine ⟨fun returns => ?_, fun free back => ?_⟩
  · rw [enterReturn_of_held (h.returnsHeld.mpr returns)]
    obtain ⟨_, e⟩ := finishEvent_of_holding (station_enterHeld z n)
    rw [e, h.station]
    exact ⟨rfl, rfl, rfl, rfl, rfl⟩
  · have idle : z.enterReturn n = z.enter n .idle :=
      enterReturn_of_idle fun held => (h.returnsHeld.mp held).elim (by simp [free]) back
    rw [idle] at taken ⊢
    refine ⟨⟨z, rfl, by rw [taken, h.station]⟩, fun empty noCheck => ?_⟩
    rw [station_idleEmpty (by rw [h.station]; exact empty) (by rw [unasked, h.checkPending]; exact noCheck),
      h.station]
    exact ⟨rfl, rfl, rfl, rfl, rfl⟩

end CalibrationEnds

end State

/-- The completion of a calibration carries the pitch in its index field's place (R209). -/
theorem calibrateCompletion_eq (pitch : Nat) : calibrateCompletion pitch =
    byte Status.ok.code :: List.replicate 7 0 ++ [byte pitch, byte (pitch / 256)] ++ List.replicate 21 0 := by
  simp [calibrateCompletion, controlCompletion, areaBytes, List.range_succ, fieldByte, bytesLE]

theorem le16_calibrateCompletion {pitch : Nat} (inside : pitch ≤ 4200) :
    le16 (listReader (calibrateCompletion pitch)) 8 = pitch := by
  have carried : le16 (listReader (calibrateCompletion pitch)) 8 = pitch % 65536 := by
    rw [← two_bytes, calibrateCompletion_eq]
    rfl
  rw [carried, Nat.mod_eq_of_lt (by omega)]

/-- MOTOR steps in a line that hot hold does not pause (R144). -/
theorem Station.Legal.stepping {t : Station} (h : t.Legal) : t.motor = t.feed.any fun f => !f.paused := by
  obtain ⟨-, work⟩ := h
  simp only [workLegal, Bool.and_eq_true, beq_iff_eq] at work
  tauto

section

variable {s : State} {n : StationNo} {kind : LineKind} {last : Nat}

theorem execGapEdge_of_feed (feed : (s.station n).feed = some ⟨kind, false, last⟩) :
    exec (.gapEdge n) s = .next (s.judgeEdge n ⟨kind, false, last⟩).finishEvent := by
  show execGapEdge n s = _
  simp only [execGapEdge, feed, Bool.false_eq_true, if_false]

/-- An edge while MOTOR is stopped is not taken (R145). -/
theorem execGapEdge_of_stopped (stopped : (s.station n).feed = none ∨
    (∃ k last, (s.station n).feed = some ⟨k, true, last⟩) ∨
    (s.lanesLegal = true ∧ (s.station n).motor = false)) : exec (.gapEdge n) s = .next s := by
  show execGapEdge n s = _
  unfold execGapEdge
  split
  · next f feed =>
    have paused : f.paused = true := by
      rcases stopped with none | ⟨k, last, paused⟩ | ⟨legal, motor⟩
      · cases none.symm.trans feed
      · cases paused.symm.trans feed
        rfl
      · have stepping := (lanesLegal_iff.mp legal n).stepping
        simpa [feed, motor] using stepping
    rw [if_pos paused]
  · rfl

/-- A good edge by the kind of the line, as one update of the station (R145). -/
theorem judgeEdge_of_plain (plain : kind = .printed ∨ ∃ k, kind = .peel k) (good : (s.station n).edgeGood = true) :
    s.judgeEdge n ⟨kind, false, last⟩ =
      s.updStation n fun t => { t with sinceEdge := 0, registered := true } := by
  rcases plain with rfl | ⟨_, rfl⟩ <;> exact if_pos good

/-- A good edge that aligns the stock (R145, R155). -/
theorem align_takeEdge (s : State) (n : StationNo) : (s.takeEdge n).align n =
    s.updStation n fun t => { t with sinceEdge := 0, registered := true, aligned := true } := by
  rw [align, takeEdge, updStation_updStation]
  rfl

theorem judgeEdge_of_leading (good : (s.station n).edgeGood = true) :
    s.judgeEdge n ⟨.leading, false, last⟩ =
      s.updStation n fun t => { t with sinceEdge := 0, registered := true, aligned := true } := by
  rw [← align_takeEdge]
  exact if_pos good

theorem judgeEdge_of_eject (good : (s.station n).edgeGood = true) :
    s.judgeEdge n ⟨.eject, false, last⟩ =
      (s.updStation n fun t => { t with sinceEdge := 0, registered := true, aligned := true }).enterReturn n := by
  rw [← align_takeEdge]
  exact if_pos good

/-- The first edge of a calibration sets the count to 0 (R160). -/
theorem judgeEdge_of_first (s : State) (n : StationNo) (lines : Nat) :
    s.judgeEdge n ⟨.calibrate lines 0, false, last⟩ =
      s.updStation n fun t => { t with sinceEdge := 0, feed := some ⟨.calibrate lines 1, false, last⟩ } := by
  show s.calibrationEdge n _ lines 0 = _
  rw [calibrationEdge, if_pos rfl]

theorem judgeEdge_of_second (s : State) (n : StationNo) (lines : Nat) :
    s.judgeEdge n ⟨.calibrate lines 1, false, last⟩ = s.calibrationMeasured n (s.station n).sinceEdge := by
  show s.calibrationEdge n _ lines 1 = _
  rw [calibrationEdge, if_neg (by decide)]

theorem judgeEdge_of_bad (other : ∀ lines edges, kind ≠ .calibrate lines edges)
    (bad : (s.station n).edgeGood = false) : s.judgeEdge n ⟨kind, false, last⟩ = s.mediaFault n := by
  unfold judgeEdge
  cases kind with
  | calibrate lines edges => exact absurd rfl (other lines edges)
  | leading | printed | peel | eject => exact if_neg (by simp [bad])

end

/-- Settles O53: the edge is judged by the kind of the line; what it changes of the stock leaves a machine at rest as it
is, and the ends of a calibration and an eject return by the hold and the return state. -/
theorem gapEdges : Obligations.GapEdges := by
  refine ⟨enter_idle_eq, fun s n => execGapEdge_of_stopped, fun s n p kind last rest profile feed =>
    ⟨fun lines _ e => ?_, fun lines d i _ e hand named => ?_, fun printing good => ?_, fun ejecting e good => ?_,
      fun working other registered below => ?_⟩⟩
  · subst e
    rw [execGapEdge_of_feed feed, judgeEdge_of_first,
      finishEvent_updStation_of_atRest rest ⟨rfl, rfl, rfl, rfl, rfl⟩]
  · subst e
    refine ⟨_, execGapEdge_of_feed feed, ?_⟩
    rw [judgeEdge_of_second]
    by_cases inside : 16 ≤ (s.station n).sinceEdge ∧ (s.station n).sinceEdge ≤ 4200
    · have ends := calibrationEnds_of_within profile inside
      have answer := ends.controlAnswer? (b := calibrateCompletion (s.station n).sinceEdge)
        (control_report hand named _)
      simp only [if_pos inside, decide_eq_true inside]
      refine ⟨⟨answers_of_controlAnswer? (answer.trans (by rw [calibrateCompletion_eq]; rfl)), ?_, ?_, ?_⟩,
        ends.returned⟩
      · rw [ends.profile, ends.station]
        rfl
      · rw [answer, Option.map_some, le16_calibrateCompletion inside.2]
      · rw [answer, calibrateCompletion_eq]
    · have ends := calibrationEnds_of_outside profile inside
      have answer := ends.controlAnswer? (control_calibrationFailed hand named)
      simp only [if_neg inside, decide_eq_false inside]
      refine ⟨⟨⟨answers_of_controlAnswer? (answer.trans (by rw [controlCompletion_nil])), answer.trans
        (by rw [controlCompletion_nil])⟩, ?_⟩, ends.returned⟩
      rw [ends.profile, ends.station]
      rfl
  · have edge := (Station.edgeGood_iff profile).mpr good
    refine ⟨fun e => ?_, fun plain => ?_⟩
    · subst e
      rw [execGapEdge_of_feed feed, judgeEdge_of_leading edge,
        finishEvent_updStation_of_atRest rest ⟨rfl, rfl, rfl, rfl, rfl⟩]
    · rw [execGapEdge_of_feed feed, judgeEdge_of_plain plain edge,
        finishEvent_updStation_of_atRest rest ⟨rfl, rfl, rfl, rfl, rfl⟩]
  · subst e
    have edge := (Station.edgeGood_iff profile).mpr good
    have judged := (execGapEdge_of_feed feed).trans (congrArg (fun x => Host.Outcome.next (State.finishEvent x))
      (judgeEdge_of_eject edge))
    generalize found : (s.updStation n fun t => { t with sinceEdge := 0, registered := true, aligned := true }) = x
      at judged ⊢
    have station : x.station n =
        { s.station n with sinceEdge := 0, registered := true, aligned := true } := by
      rw [← found, station_updStation]
    have returns : x.ReturnsHeld n ↔ s.ReturnsHeld n := by
      unfold ReturnsHeld
      rw [station]
    refine ⟨fun held => ⟨_, judged, ?_⟩, fun free back => ?_⟩
    · rw [enterReturn_of_held (returns.mpr held)]
      obtain ⟨_, e⟩ := finishEvent_of_holding (station_enterHeld x n)
      rw [e, station]
      exact ⟨rfl, rfl, rfl, rfl, rfl, rfl, rfl⟩
    · have idle : x.enterReturn n = x.enter n .idle :=
        enterReturn_of_idle fun held => (returns.mp held).elim (by simp [free]) back
      rw [idle] at judged
      refine ⟨judged, fun empty noCheck => ⟨_, judged, ?_⟩⟩
      have asked : x.unasked n := by
        rw [← found]
        exact noCheck
      rw [station_idleEmpty (by rw [station]; exact empty) asked, station]
      exact ⟨rfl, rfl, rfl, rfl, rfl, rfl, rfl⟩
  · refine ⟨_, execGapEdge_of_feed feed, ?_⟩
    rw [judgeEdge_of_bad other (Station.edgeGood_of_below profile registered below)]
    obtain ⟨_, e⟩ := finishEvent_of_faulted (station_mediaFault s n)
    rw [e]
    exact ⟨rfl, rfl, (kept_finishEvent _).raised _ (raised_mediaFault ..), rfl, rfl⟩

end Sys2Proof.Machine
end

section
/-! The strobe sub-phases of a printed line: the class of a dot, the split of a class, the order of firing, and the heat
history after the last (R168 to R170). -/

namespace Sys2Proof.Machine

/-! ### A class cut into parts (R169) -/

/-- Nothing is lost or moved where a class is cut into parts. -/
theorem flatten_chunks {m : Nat} (hm : 0 < m) (r : Nat) :
    ∀ l : List Nat, l.length ≤ r → (chunks m r l).flatten = l := by
  induction r with
  | zero =>
    intro l h
    rw [List.eq_nil_of_length_eq_zero (Nat.le_zero.mp h)]
    rfl
  | succ r ih =>
    intro l h
    unfold chunks
    split
    · next empty => rw [List.isEmpty_iff.mp empty, List.flatten_nil]
    · have shorter : (l.drop m).length ≤ r := by
        rw [List.length_drop]
        omega
      rw [List.flatten_cons, ih _ shorter, List.take_append_drop]

/-- A part holds a dot and no more than the most. -/
theorem part_bounds {m : Nat} (hm : 0 < m) (r : Nat) :
    ∀ l : List Nat, ∀ part ∈ chunks m r l, part ≠ [] ∧ part.length ≤ m := by
  induction r with
  | zero => exact fun _ _ member => nomatch member
  | succ r ih =>
    intro l part member
    unfold chunks at member
    split at member
    · cases member
    · next some =>
      rcases List.mem_cons.mp member with rfl | later
      · refine ⟨fun none => ?_, List.length_take_le ..⟩
        rcases List.take_eq_nil_iff.mp none with zero | empty
        · omega
        · exact some (List.isEmpty_iff.mpr empty)
      · exact ih _ _ later

/-- Each part but the last is full. -/
theorem length_part {m k : Nat} {l : List Nat} (more : k + 1 < (l.length + m - 1) / m) :
    ((l.drop (m * k)).take m).length = m := by
  have hm : 0 < m := Nat.pos_of_ne_zero fun zero => by simp [zero] at more
  have full : (k + 2) * m ≤ l.length + m - 1 := (Nat.le_div_iff_mul_le hm).mp more
  have split : (k + 2) * m = m * k + m + m := by ring
  rw [List.length_take, List.length_drop]
  omega

/-! ### The classes of a line's dots (R168) -/

theorem historyClass_eq (previous older : List Nat) (e : Nat) : historyClass previous older e =
    if e ∈ previous then (if e ∈ older then .both else .prevOnly)
    else (if e ∈ older then .olderOnly else .neither) := by
  unfold historyClass
  by_cases h : e ∈ previous <;> by_cases k : e ∈ older <;> simp [h, k]

theorem HistoryClass.mem_all (c : HistoryClass) : c ∈ all := by cases c <;> decide

/-- The phases fire by rising class code. -/
theorem HistoryClass.pairwise_all : all.Pairwise fun c c' => c.code < c'.code := by decide

/-- The dots of a class, in the order of the line. -/
def classDots (previous older dots : List Nat) (c : HistoryClass) : List Nat :=
  dots.filter fun e => historyClass previous older e == c

section

variable {previous older dots : List Nat}

theorem mem_classDots {c : HistoryClass} {e : Nat} :
    e ∈ classDots previous older dots c ↔ e ∈ dots ∧ historyClass previous older e = c := by
  rw [classDots, List.mem_filter, beq_iff_eq]

theorem count_classDots (c : HistoryClass) (e : Nat) : (classDots previous older dots c).count e =
    if historyClass previous older e = c then dots.count e else 0 := by
  split
  · next here => exact List.count_filter (by simpa using here)
  · next other => exact List.count_eq_zero_of_not_mem fun member => other (mem_classDots.mp member).2

/-- Every dot of the line is in one class. -/
theorem perm_classDots : ((HistoryClass.all.map (classDots previous older dots)).flatten).Perm dots := by
  refine List.perm_iff_count.mpr fun e => ?_
  cases here : historyClass previous older e <;> simp [HistoryClass.all, count_classDots, here]

/-- Class by class, and ascending within a class. -/
theorem pairwise_classDots (ascending : dots.Pairwise fun a b => a < b) :
    ((HistoryClass.all.map (classDots previous older dots)).flatten).Pairwise fun a b =>
      (historyClass previous older a).code < (historyClass previous older b).code ∨
      (historyClass previous older a = historyClass previous older b ∧ a < b) := by
  rw [List.pairwise_flatten, List.forall_mem_map, List.pairwise_map]
  refine ⟨fun c _ => ?_, HistoryClass.pairwise_all.imp fun before a here b there => .inl ?_⟩
  · refine (ascending.sublist List.filter_sublist).imp_of_mem fun {a b} here there less => .inr ⟨?_, less⟩
    rw [(mem_classDots.mp here).2, (mem_classDots.mp there).2]
  · rwa [(mem_classDots.mp here).2, (mem_classDots.mp there).2]

/-! ### The sub-phases of a line (R169, R170) -/

variable {p : Profile} {band : Band} {darkness : Int}

/-- The sub-phases of a class: one for each part. -/
def classPhases (p : Profile) (band : Band) (darkness : Int) (previous older dots : List Nat) (c : HistoryClass) :
    List SubPhase :=
  (chunks p.maxDots (classDots previous older dots c).length (classDots previous older dots c)).map fun part =>
    ⟨part, strobeWidth p band darkness c⟩

theorem subPhases_eq_classPhases : subPhases p band darkness previous older dots =
    (HistoryClass.all.map (classPhases p band darkness previous older dots)).flatten := rfl

theorem mem_subPhases {x : SubPhase} : x ∈ subPhases p band darkness previous older dots ↔
    ∃ c, x ∈ classPhases p band darkness previous older dots c := by
  simp only [subPhases_eq_classPhases, List.mem_flatten, List.mem_map, HistoryClass.mem_all, true_and,
    exists_exists_eq_and]

theorem firedDots_classPhases (hm : 0 < p.maxDots) (c : HistoryClass) :
    ((classPhases p band darkness previous older dots c).map fun x => x.dots).flatten =
      classDots previous older dots c := by
  rw [classPhases, List.map_map]
  exact (congrArg List.flatten (List.map_id' _)).trans (flatten_chunks hm _ _ le_rfl)

/-- The dots as they are fired: class by class. -/
theorem firedDots_eq (hm : 0 < p.maxDots) :
    ((subPhases p band darkness previous older dots).map fun x => x.dots).flatten =
      (HistoryClass.all.map (classDots previous older dots)).flatten := by
  rw [subPhases_eq_classPhases, List.map_flatten, List.flatten_flatten, List.map_map, List.map_map]
  exact congrArg List.flatten (List.map_congr_left fun c _ => firedDots_classPhases hm c)

theorem subPhase_bounds (hm : 0 < p.maxDots) {x : SubPhase}
    (member : x ∈ subPhases p band darkness previous older dots) :
    x.dots ≠ [] ∧ x.dots.length ≤ p.maxDots ∧ ∃ c, x.width = strobeWidth p band darkness c ∧
      ∀ e ∈ x.dots, e ∈ dots ∧ historyClass previous older e = c := by
  obtain ⟨c, member⟩ := mem_subPhases.mp member
  obtain ⟨part, cut, rfl⟩ := List.mem_map.mp member
  obtain ⟨some, most⟩ := part_bounds hm _ _ _ cut
  refine ⟨some, most, c, rfl, fun e here => mem_classDots.mp ?_⟩
  rw [← flatten_chunks hm _ (classDots previous older dots c) le_rfl]
  exact List.mem_flatten.mpr ⟨_, cut, here⟩

theorem subPhases_eq (hm : 0 < p.maxDots) : subPhases p band darkness previous older dots =
    (HistoryClass.all.map fun c =>
      (List.range (((classDots previous older dots c).length + p.maxDots - 1) / p.maxDots)).map fun k =>
        (⟨((classDots previous older dots c).drop (p.maxDots * k)).take p.maxDots,
          strobeWidth p band darkness c⟩ : SubPhase)).flatten := by
  rw [subPhases_eq_classPhases]
  refine congrArg List.flatten (List.map_congr_left fun c _ => ?_)
  rw [classPhases, chunks_eq _ hm _ _ le_rfl, List.map_map]
  rfl

/-- A line without dots fires nothing, and no other. -/
theorem subPhases_eq_nil (hm : 0 < p.maxDots) :
    subPhases p band darkness previous older dots = [] ↔ dots = [] := by
  have fired := (firedDots_eq (band := band) (darkness := darkness) hm).symm ▸
    perm_classDots (previous := previous) (older := older) (dots := dots)
  constructor
  · intro none
    rw [none] at fired
    exact (List.nil_perm.mp fired)
  · rintro rfl
    refine List.eq_nil_iff_forall_not_mem.mpr fun x member => ?_
    obtain ⟨some, -, c, -, each⟩ := subPhase_bounds hm member
    obtain ⟨e, here⟩ := List.exists_mem_of_ne_nil _ some
    exact nomatch (each e here).1

end

/-! ### The end of a sub-phase (R168, R169) -/

theorem Drive.fireNext_of_last {d : Drive} {x : SubPhase} (last : d.firing = [x]) : d.fireNext = d.moveOn := by
  simp [fireNext, last]

theorem Drive.fireNext_of_more {d : Drive} {x y : SubPhase} {rest : List SubPhase}
    (more : d.firing = x :: y :: rest) : d.fireNext = { d with firing := y :: rest } := by
  simp [fireNext, more]

/-- Settles O52: the phases by class and part, and the history moved on after the last sub-phase. -/
theorem strobeHistory : Obligations.StrobeHistory := by
  refine ⟨rfl, rfl, fun _ _ => rfl, fun d none => by simp [Drive.fireNext, none],
    fun _ _ => Drive.fireNext_of_last, fun _ _ _ _ => Drive.fireNext_of_more, historyClass_eq,
    fun _ _ _ _ => rfl, fun p band darkness previous older dots hm =>
      ⟨fun _ => subPhase_bounds hm, ?_, fun ascending => ?_, subPhases_eq hm, fun _ _ => length_part⟩⟩
  · rw [firedDots_eq hm]
    exact perm_classDots
  · rw [firedDots_eq hm]
    exact pairwise_classDots ascending

end Sys2Proof.Machine
end

section
/-! A printed line at the drive: the live set, the dots that its entries set, and what is left to fire (R60, R165 to
R167). -/

namespace Sys2Proof.Machine

/-! ### The live set (R165) -/

/-- In a list sorted by top line the walk meets every entry that begins at the line or above. -/
theorem takeLine_eq {line : Nat} : ∀ {list : List Element}, list.Pairwise (fun a b => a.top ≤ b.top) →
    takeLine line list = list.filter fun x => decide (x.top ≤ line) := by
  intro list sorted
  induction sorted with
  | nil => rfl
  | @cons x rest least sorted ih =>
    unfold takeLine
    split
    · next met => rw [List.filter_cons, if_pos (decide_eq_true met), ih]
    · next below =>
      refine (List.filter_eq_nil_iff.mpr fun y member met => ?_).symm
      rcases List.mem_cons.mp member with rfl | later
      · exact below (of_decide_eq_true met)
      · exact below ((least y later).trans (of_decide_eq_true met))

theorem Drive.mem_updateLive {d : Drive} {list : List Element} {line : Nat}
    (sorted : list.Pairwise fun a b => a.top ≤ b.top) {x : Element} :
    x ∈ (d.updateLive list line).live ↔ (x ∈ d.live ∧ line ≤ x.top + x.lines - 1) ∨
      (x ∈ list.drop d.listPosition ∧ x.top = line) := by
  simp only [updateLive, takeLine_eq (sorted.sublist (List.drop_sublist ..)), List.mem_append, List.mem_filter,
    decide_eq_true_eq, beq_iff_eq, and_assoc]
  refine or_congr_right (and_congr_right fun _ => ?_)
  exact ⟨fun ⟨_, begins⟩ => begins, fun begins => ⟨begins.le, begins⟩⟩

theorem Drive.updateLive_listPosition {d : Drive} {list : List Element} {line : Nat}
    (sorted : list.Pairwise fun a b => a.top ≤ b.top) : (d.updateLive list line).listPosition = d.listPosition +
      ((list.drop d.listPosition).filter fun x => decide (x.top ≤ line)).length := by
  rw [← takeLine_eq (sorted.sublist (List.drop_sublist ..))]
  rfl

/-! ### The dots of a line (R60, R166, R167) -/

theorem pairwise_rasterLine (glyphs : Nat → Reader) (live : List Element) (line margin dotCount : Nat) :
    (rasterLine glyphs live line margin dotCount).Pairwise fun a b => a < b :=
  List.pairwise_lt_range.sublist List.filter_sublist

theorem mem_rasterLine {glyphs : Nat → Reader} {live : List Element} {line margin dotCount e : Nat} :
    e ∈ rasterLine glyphs live line margin dotCount ↔ e < dotCount ∧ margin ≤ e ∧
      ∃ x ∈ live, x.setsDot glyphs line (e - margin) = true := by
  simp only [rasterLine, List.mem_filter, List.mem_range, Bool.and_eq_true, decide_eq_true_eq, List.any_eq_true]

theorem glyphBit_eq (rd : Reader) (x : Element) (row col : Nat) :
    glyphBit rd x.bitmap x.width row col = bitmapBit rd x row col := by
  rw [glyphBit, bitmapBit, ceilDiv, Nat.add_sub_assoc (by decide)]

namespace Element

variable {glyphs : Nat → Reader} {x : Element} {line dot : Nat}

/-- A bar or a rule sets every dot of its box. -/
theorem setsDot_of_solid (solid : x.kind ≠ .glyph) :
    x.setsDot glyphs line dot = true ↔ x.left ≤ dot ∧ dot < x.left + x.dots := by
  cases kind : x.kind with
  | glyph => exact absurd kind solid
  | bar | rule => simp [setsDot, kind]

theorem setsDot_of_upright (kind : x.kind = .glyph) (upright : x.rot90 = false) :
    x.setsDot glyphs line dot = true ↔ (x.left ≤ dot ∧ dot < x.left + x.dots) ∧
      bitmapBit (glyphs x.glyphBody) x (line - x.cellTop) (dot - x.cellLeft) = true := by
  simp [setsDot, kind, upright, glyphBit_eq]

theorem setsDot_of_turned (kind : x.kind = .glyph) (turned : x.rot90 = true) :
    x.setsDot glyphs line dot = true ↔ (x.left ≤ dot ∧ dot < x.left + x.dots) ∧
      bitmapBit (glyphs x.glyphBody) x (x.cellLeft + x.height - 1 - dot) (line - x.cellTop) = true := by
  simp [setsDot, kind, turned, glyphBit_eq]

end Element

namespace State

variable {s : State} {n : StationNo} {p : Profile} {l : Label} {d : Drive}

theorem glyphContents_of_pinned {k h v : Nat} (pinned : l.pinned[k]? = some (h, v)) :
    s.glyphContents l k = s.versionContent h v := by
  rw [glyphContents, pinned]

/-! ### The drive at the begin of a line (R165 to R169) -/

/-- The drive with the live set of its next line. -/
def walked (s : State) (l : Label) (d : Drive) : Drive :=
  d.updateLive (s.entries l.elementBlocks (l.elementCount.getD 0)) d.nextLine

/-- The dots of the drive's next line. -/
def dotsOf (s : State) (n : StationNo) (p : Profile) (l : Label) (d : Drive) : List Nat :=
  rasterLine (s.glyphContents l) (s.walked l d).live d.nextLine p.leftMargin (s.station n).dotCount

/-- The sub-phases of the drive's next line. -/
def phasesOf (s : State) (n : StationNo) (p : Profile) (l : Label) (d : Drive) : List SubPhase :=
  subPhases p (s.station n).thermal.band (formDarkness (s.formContent l)) d.previous d.older (s.dotsOf n p l d)

theorem rasterise_of_dots (hm : 0 < p.maxDots) (some : s.dotsOf n p l d ≠ []) : s.rasterise n p l d =
    { s.walked l d with
      nextLine := d.nextLine + 1, lineDots := s.dotsOf n p l d, firing := s.phasesOf n p l d } :=
  if_neg fun none => some ((subPhases_eq_nil hm).mp (List.isEmpty_iff.mp none))

theorem rasterise_of_none (hm : 0 < p.maxDots) (none : s.dotsOf n p l d = []) : s.rasterise n p l d =
    { s.walked l d with
      nextLine := d.nextLine + 1, older := d.previous, previous := [], lineDots := [], firing := [] } := by
  have moved : s.rasterise n p l d = Drive.moveOn { s.walked l d with
      nextLine := d.nextLine + 1, lineDots := s.dotsOf n p l d, firing := s.phasesOf n p l d } :=
    if_pos (List.isEmpty_iff.mpr ((subPhases_eq_nil hm).mpr none))
  rw [moved, none]
  rfl

/-- Dots or none, the line is counted and the walk of the list goes on. -/
theorem rasterise_walked (hm : 0 < p.maxDots) : (s.rasterise n p l d).nextLine = d.nextLine + 1 ∧
    (s.rasterise n p l d).live = (s.walked l d).live ∧
    (s.rasterise n p l d).listPosition = (s.walked l d).listPosition := by
  by_cases none : s.dotsOf n p l d = []
  · rw [rasterise_of_none hm none]
    exact ⟨rfl, rfl, rfl⟩
  · rw [rasterise_of_dots hm none]
    exact ⟨rfl, rfl, rfl⟩

end State

open State

/-- Settles O51: the walk of the sorted list, the line's dots, and the history moved on where there is none. -/
theorem linesRastered : Obligations.LinesRastered := by
  refine ⟨fun _ _ _ _ _ => glyphContents_of_pinned, fun s n p l d sorted hm => ?_, fun _ _ _ _ =>
    ⟨Element.setsDot_of_solid, Element.setsDot_of_upright, Element.setsDot_of_turned⟩⟩
  obtain ⟨line, live, position⟩ := rasterise_walked (s := s) (n := n) (l := l) (d := d) hm
  refine ⟨line, fun x => ?_, position.trans (Drive.updateLive_listPosition sorted), s.dotsOf n p l d,
    pairwise_rasterLine .., fun e => ?_, fun some => ?_, fun none => ?_⟩
  · rw [live]
    exact Drive.mem_updateLive sorted
  · rw [live]
    exact mem_rasterLine
  · rw [rasterise_of_dots hm some]
    exact ⟨rfl, rfl, rfl, rfl⟩
  · rw [rasterise_of_none hm none]
    exact ⟨rfl, rfl, rfl, rfl⟩

end Sys2Proof.Machine
end

section
/-! The causes that work at the lanes and the end of an event can raise: RECORD_FREED and STATION_FAULT (R13, R140, R146,
R200). Every other cause stands over them. -/

namespace Sys2Proof.Machine

/-- The causes that work at the lanes can raise. -/
def Cause.ofLanes : Cause → Bool
  | .recordFreed => true
  | .stationFault _ => true
  | .controlDone => false
  | .stationDone _ => false
  | .ringSuspended _ => false
  | .ringError => false
  | .cartonMissed _ => false
  | .therm _ => false
  | .dotcheckDone _ => false
  | .configDefaulted => false

/-- No cause but those of the lanes is raised or cleared. -/
structure State.LaneCauses (s t : State) : Prop where
  raised : ∀ e : Cause, e.ofLanes = false → t.raised e = s.raised e

namespace State.LaneCauses

variable {s t u : State}

theorem refl (s : State) : s.LaneCauses s := ⟨fun _ _ => rfl⟩

theorem trans (h : s.LaneCauses t) (k : t.LaneCauses u) : s.LaneCauses u :=
  ⟨fun e other => (k.raised e other).trans (h.raised e other)⟩

theorem of_events (events : t.eventStatus = s.eventStatus) : s.LaneCauses t :=
  ⟨fun e _ => by rw [State.raised, State.raised, events]⟩

theorem of_tableWork (h : s.TableWork t) : s.LaneCauses t := of_events h.sameEvents.1

theorem of_chanWork (h : s.ChanWork t) : s.LaneCauses t := of_events h.sameEvents.1

theorem raise (s : State) {c : Cause} (lane : c.ofLanes = true) : s.LaneCauses (s.raise c) := by
  refine ⟨fun e other => ?_⟩
  have differ : (e == c) = false := beq_eq_false_iff_ne.mpr fun same => by simp [same, lane] at other
  rw [raised_raise, differ, Bool.false_or]

theorem updStation (s : State) (n : StationNo) (f : Station → Station) : s.LaneCauses (s.updStation n f) :=
  of_events rfl

theorem foldl {β : Type} {f : State → β → State} (each : ∀ s b, State.LaneCauses s (f s b)) (l : List β) :
    ∀ s : State, s.LaneCauses (l.foldl f s) := by
  induction l with
  | nil => exact .refl
  | cons b l ih => exact fun s => (each s b).trans (ih _)

end State.LaneCauses

namespace State

variable (s : State) (n : StationNo)

/-! ### Pins and draws (R6, R12, R13) -/

theorem laneCauses_freeIfRetired (h : Nat) : s.LaneCauses (s.freeIfRetired h) := by
  unfold freeIfRetired
  dsimp only
  split
  · exact (LaneCauses.of_tableWork (tableWork_freeRecord s h)).trans (.raise _ rfl)
  · exact .refl s

theorem laneCauses_unpinBody (h v : Nat) : s.LaneCauses (s.unpinBody h v) := by
  have written (r : Record) : s.LaneCauses (s.setRecord h r) := .of_events rfl
  unfold unpinBody
  dsimp only
  split
  · split
    · exact (written _).trans (laneCauses_freeIfRetired ..)
    split
    · next b _ =>
      split
      · split
        · exact ((written _).trans (.of_tableWork (tableWork_freeBody? _ (some b)))).trans
            (laneCauses_freeIfRetired ..)
        · exact written _
      · exact .refl s
    · exact .refl s
  · exact .refl s

theorem laneCauses_unpinCounter (h : Nat) : s.LaneCauses (s.unpinCounter h) := by
  unfold unpinCounter
  dsimp only
  split
  · exact (LaneCauses.of_tableWork (tableWork_setRecord ..)).trans (laneCauses_freeIfRetired ..)
  · exact .refl s

theorem laneCauses_releasePins (l : Label) : s.LaneCauses (s.releasePins l) := by
  have bodies (l : List (Nat × Nat)) : ∀ s : State, s.LaneCauses (s.unpinBodies l) := by
    induction l with
    | nil => exact .refl
    | cons p l ih => exact fun s => (laneCauses_unpinBody ..).trans (ih _)
  have counters (l : List Nat) : ∀ s : State, s.LaneCauses (s.unpinCounters l) := by
    induction l with
    | nil => exact .refl
    | cons h l ih => exact fun s => (laneCauses_unpinCounter ..).trans (ih _)
  exact (bodies ..).trans (counters ..)

theorem laneCauses_writeContents (blocks : List Nat) (bs : List Byte) :
    ∀ (s : State) (i : Nat), s.LaneCauses (s.writeContents blocks i bs) := by
  induction bs with
  | nil => exact fun s _ => .refl s
  | cons b bs ih =>
    refine fun s i => LaneCauses.trans ?_ (ih _ _)
    unfold writeContent
    split
    · exact .of_events rfl
    · exact .refl s

theorem laneCauses_drawAll (hs : List Nat) : ∀ s : State, s.LaneCauses (s.drawAll hs).1 := by
  induction hs with
  | nil => exact .refl
  | cons h hs ih =>
    refine fun s => LaneCauses.trans ?_ (ih _)
    unfold drawOne
    split
    · exact .refl s
    · exact ((laneCauses_writeContents ..).trans (laneCauses_writeContents _ [_] _ 2)).trans
        (laneCauses_unpinCounter ..)

/-! ### Labels that leave a queue (R125, R126, R139) -/

theorem laneCauses_finishHead (st : Status) : s.LaneCauses (s.finishHead n st) := by
  unfold finishHead
  split
  · exact .refl s
  · exact (((LaneCauses.updStation ..).trans (.of_tableWork (tableWork_freeBlocks ..))).trans
      (laneCauses_releasePins ..)).trans (.of_events (updChan_eventStatus ..))

theorem laneCauses_abandon (ctx : Nat) (st : Status) : s.LaneCauses (s.abandon n ctx st) := by
  unfold abandon
  split
  · exact .refl s
  split
  · exact .refl s
  split
  · exact laneCauses_finishHead ..
  · exact .updStation ..

theorem laneCauses_skipOne : s.LaneCauses (s.skipOne n) := by
  unfold skipOne
  split
  · split
    · exact laneCauses_abandon ..
    · exact .refl s
  · exact .refl s

theorem laneCauses_skipPending : s.LaneCauses (s.skipPending n) := by
  have many (k : Nat) : ∀ s : State, s.LaneCauses (s.skipMany n k) := by
    induction k with
    | zero => exact .refl
    | succ k ih => exact fun s => (laneCauses_skipOne s n).trans (ih _)
  exact (LaneCauses.updStation ..).trans (many ..)

/-! ### Lines and faults (R144 to R146) -/

theorem laneCauses_mediaFault : s.LaneCauses (s.mediaFault n) := by
  have worked : s.LaneCauses (s.finishWorking n .mediaFault) := by
    unfold finishWorking
    split
    · exact laneCauses_finishHead ..
    · exact .refl s
  exact ((((worked.trans (.updStation ..)).trans (.updStation ..)).trans (.updStation ..)).trans
    (.raise _ rfl)).trans (laneCauses_skipPending ..)

theorem laneCauses_beginPrinting (k : LineKind) : s.LaneCauses (s.beginPrinting n k) := by
  unfold beginPrinting
  dsimp only
  split
  · exact .updStation ..
  split
  · exact laneCauses_mediaFault ..
  split
  · exact laneCauses_mediaFault ..
  cases k with
  | printed =>
    obtain ⟨_, _, e, -⟩ := firePrinted_eq (s.stepMotor n) n
    dsimp only
    rw [e]
    exact .of_events rfl
  | leading | peel | eject | calibrate => exact .of_events rfl

theorem laneCauses_releasePaused : s.LaneCauses (s.releasePaused n) := by
  unfold releasePaused
  dsimp only
  split
  · split
    · exact laneCauses_beginPrinting ..
    · exact .refl s
  · exact .refl s

/-! ### The parts of the end of an event -/

theorem laneCauses_startLoop (r : Nat) : ∀ s : State, s.LaneCauses (State.startLoop n r s) := by
  induction r with
  | zero => exact .refl
  | succ r ih =>
    intro s
    unfold startLoop
    split
    · exact .refl s
    · next l _ =>
      have taken : s.LaneCauses ((s.takeHead n l).resetUnregistered n) := .of_events rfl
      rw [printStart_eq]
      exact taken.trans (laneCauses_beginPrinting ..)
    · exact ((LaneCauses.updStation ..).trans (laneCauses_finishHead ..)).trans (ih _)

theorem laneCauses_pair (r : Nat) : ∀ s : State, s.LaneCauses (State.pair n r s) := by
  have expired (s : State) (k : Nat) (l : Label) : s.LaneCauses (s.expireEntry n k l) := by
    unfold expireEntry
    dsimp only
    split
    · exact (LaneCauses.updStation s ..).trans (laneCauses_finishHead ..)
    · exact (LaneCauses.updStation s ..).trans (laneCauses_abandon ..)
  induction r with
  | zero => exact .refl
  | succ r ih =>
    intro s
    unfold pair
    split
    · exact .refl s
    · dsimp only
      split
      · exact (expired ..).trans (ih _)
      · exact (LaneCauses.updStation ..).trans (ih _)

theorem laneCauses_composerChoose (k : Nat) : ∀ s : State, s.LaneCauses (State.composerChoose k s) := by
  have taken (s : State) (m : StationNo) (l : Label) : s.LaneCauses (s.composerTake m l) := by
    unfold composerTake
    split
    · exact .of_events rfl
    · exact (laneCauses_drawAll ..).trans (.of_events rfl)
  induction k with
  | zero => exact .refl
  | succ k ih =>
    intro s
    unfold composerChoose
    split
    · exact .refl s
    split
    · exact .refl s
    split
    · exact .refl s
    · exact (taken ..).trans (ih _)

theorem laneCauses_startAll : s.LaneCauses s.startAll :=
  .foldl (fun s n => laneCauses_startLoop n _ s) _ s

theorem laneCauses_checkAndStart (m : StationNo) : s.LaneCauses (s.beginCheck m .auto).startAll := by
  obtain ⟨_, e, -⟩ := beginAtStation_eq s m
  have begun : s.LaneCauses (s.beginAtStation m) := e ▸ .updStation ..
  have checked : s.LaneCauses (s.beginCheck m .auto) := begun.trans (.of_events rfl)
  exact checked.trans (laneCauses_startAll _)

theorem laneCauses_serveAndStart (k : Nat) : ∀ s : State, s.LaneCauses (s.serveAndStart k) := by
  induction k with
  | zero => exact laneCauses_startAll
  | succ k ih =>
    intro s
    have counted : s.LaneCauses { s with freeIndex := s.freeIndex + 1 } := .of_events rfl
    unfold serveAndStart
    split
    · exact laneCauses_startAll s
    split
    · dsimp only
      split
      · exact counted.trans (laneCauses_checkAndStart ..)
      · exact (counted.trans (laneCauses_startLoop ..)).trans (ih _)
    · exact laneCauses_checkAndStart ..

/-- The end of an event raises no cause but those of the lanes. -/
theorem laneCauses_finishEvent : s.LaneCauses s.finishEvent := by
  have paired : s.LaneCauses s.pairAll := .foldl (fun s n => laneCauses_pair n _ s) _ s
  have parked (x : State) : x.LaneCauses x.parkTimers := .foldl (fun s n => .updStation s n _) _ x
  exact (((paired.trans (laneCauses_composerChoose ..)).trans (laneCauses_serveAndStart ..)).trans
    (parked _)).trans (.of_chanWork (chanWork_settleBus _))

end State

end Sys2Proof.Machine
end

section
/-! The lines that hot hold pauses, SET_LIMITS, and the sample of a thermal monitor (R144, R174 to R178). -/

namespace Sys2Proof.Machine

/-! ### Lines of PRINTING, begun or paused (R144, R178) -/

namespace State

variable {s : State} {n : StationNo}

/-- A line of PRINTING begins where nothing pauses it, the stock is there and an edge may still come (R144 to R146). -/
theorem station_beginPrinting_of_free {p : Profile} (profile : (s.station n).profile = some p)
    (cool : (s.station n).thermal.hotHold = false) (present : (s.station n).mediaPresent = true)
    (below : (s.station n).sinceEdge < p.pitch + p.tolerance) (k : LineKind) : ∃ drive period,
      (s.beginPrinting n k).station n = { s.station n with
        sinceEdge := (s.station n).sinceEdge + 1, motor := true, drive := drive,
        feed := some ⟨k, false, period⟩ } := by
  have within : ¬(s.station n).edgeLimit < (s.station n).sinceEdge + 1 := by
    simp only [Station.edgeLimit, profile]
    omega
  unfold beginPrinting
  dsimp only
  rw [if_neg (by simp [cool]), if_neg (by simp [present]), if_neg within]
  cases k with
  | printed =>
    obtain ⟨drive, period, e, -⟩ := firePrinted_eq (s.stepMotor n) n
    refine ⟨drive, period, ?_⟩
    dsimp only
    rw [e]
    simp only [setFeed, stepMotor, station_updStation]
  | leading | peel | eject | calibrate =>
    refine ⟨(s.station n).drive, (s.station n).nominalPeriod, ?_⟩
    simp only [setFeed, stepMotor, station_updStation]

theorem releasePaused_of_hot (hot : (s.station n).thermal.hotHold = true) : s.releasePaused n = s := by
  unfold releasePaused
  dsimp only
  split
  · exact if_neg fun ⟨_, _, cool⟩ => by simp [hot] at cool
  · rfl

theorem releasePaused_of_cool {k : LineKind} {last : Nat} (printing : (s.station n).state = .printing)
    (paused : (s.station n).feed = some ⟨k, true, last⟩) (cool : (s.station n).thermal.hotHold = false) :
    s.releasePaused n = s.beginPrinting n k := by
  simp only [releasePaused, paused, printing, cool, and_self, if_true]

theorem confined_releasePaused (s : State) (n : StationNo) : s.Confined n (s.releasePaused n) := by
  unfold releasePaused
  dsimp only
  split
  · split
    · exact confined_beginPrinting ..
    · exact .refl s
  · exact .refl s

/-- The release of a pause and the end of its event touch no thermal monitor. -/
theorem thermal_released (s : State) (n : StationNo) :
    ((s.releasePaused n).finishEvent.station n).thermal = (s.station n).thermal :=
  (((kept_releasePaused s n).trans (kept_finishEvent _)).lanes n).thermal

/-- The line that hot hold paused begins in the event in which the condition ceases (R178). -/
theorem begins_released {a : Station} {th : Thermal} {p : Profile} {k : LineKind} {last : Nat}
    (stored : s.station n = { a with thermal := th }) (cool : th.hotHold = false) (profile : a.profile = some p)
    (printing : a.state = .printing) (paused : a.feed = some ⟨k, true, last⟩) (present : a.mediaPresent = true)
    (below : a.sinceEdge < p.pitch + p.tolerance) :
    ((s.releasePaused n).finishEvent.station n).state = .printing ∧
      ((s.releasePaused n).finishEvent.station n).motor = true ∧
      ((s.releasePaused n).finishEvent.station n).sinceEdge = a.sinceEdge + 1 ∧
      ((s.releasePaused n).finishEvent.station n).feed.map (fun f => (f.kind, f.paused)) = some (k, false) := by
  obtain ⟨_, _, begun⟩ := station_beginPrinting_of_free (s := s) (n := n) (p := p) (by rw [stored]; exact profile)
    (by rw [stored]; exact cool) (by rw [stored]; exact present) (by rw [stored]; exact below) k
  rw [stored] at begun
  obtain ⟨_, _, _, ended⟩ := lane_finishEvent_of_away (s := s.beginPrinting n k) (n := n) (by
    rw [begun]
    exact congrArg StationState.checkable printing)
  rw [releasePaused_of_cool (by rw [stored]; exact printing) (by rw [stored]; exact paused)
    (by rw [stored]; exact cool), ended, begun]
  exact ⟨printing, rfl, rfl, rfl⟩

/-- A line waits on where hot hold lasts (R178). -/
theorem waits_released {a : Station} {th : Thermal} (stored : s.station n = { a with thermal := th })
    (hot : th.hotHold = true) (printing : a.state = .printing) :
    ((s.releasePaused n).finishEvent.station n).feed = a.feed ∧
      ((s.releasePaused n).finishEvent.station n).sinceEdge = a.sinceEdge := by
  obtain ⟨_, _, _, ended⟩ := lane_finishEvent_of_away (s := s) (n := n) (by
    rw [stored]
    exact congrArg StationState.checkable printing)
  rw [releasePaused_of_hot (by rw [stored]; exact hot), ended, stored]
  exact ⟨rfl, rfl⟩

end State

open State

/-! ### SET_LIMITS (R174) -/

/-- A completion that carries an index alone beside its status (R208, R209). -/
theorem controlCompletion_index (st : Status) (j : Nat) : controlCompletion st [indexField j] =
    byte st.code :: List.replicate 5 0 ++ [byte j, byte (j / 256)] ++ List.replicate 23 0 := by
  simp [controlCompletion, areaBytes, List.range_succ, fieldByte, indexField, bytesLE]

theorem State.answersItem_of_hand {s : State} {d : List Byte} {i j : Nat} {st : Status}
    (hand : s.control.hand = some ⟨d, i, .complete (controlCompletion st [indexField j])⟩) (small : j < 65536) :
    s.answersItem st j := by
  have answer := (controlAnswer?_of_hand hand).trans (congrArg some (controlCompletion_index st j))
  refine ⟨⟨answers_of_controlAnswer? answer, ?_⟩, answer⟩
  rw [controlIndex?, answer]
  exact congrArg some ((two_bytes j).trans (Nat.mod_eq_of_lt small))

theorem Limit.bad_iff {l : Limit} : l.bad = true ↔
    l.valid = true ∧ (127 < l.threshold ∨ 1 < l.direction ∨ 3 < l.action) := by
  simp [bad, or_assoc]

/-- No limit that SET_LIMITS has just stored is crossed, so hot hold has ceased. -/
theorem hotHold_thermalOf (d : List Byte) (clock : Word) : (thermalOf d clock).hotHold = false := by
  simp [thermalOf, Thermal.hotHold, Limit.acts, ctlLimit]

section

variable {s : State} {n : StationNo} {d : List Byte} {i : Nat}

theorem execSetLimits_of_given (given : s.given d .setLimits i) (station : ctlStation? d = some n) :
    exec .setLimits s = .next (s.takeLimits n d).finishEvent := by
  show execSetLimits s = _
  simp only [execSetLimits, commandInHand?_of_given given, station]

/-- The refusals in the order of the rule (R174). -/
theorem limitsRefusal?_eq (t : Station) (d : List Byte) : t.limitsRefusal? d =
    if t.dotCount = 0 then some (.noHead, [])
    else if ctlInterval d < 1 ∨ 64 < ctlInterval d then some (.badLimits, [indexField 0])
    else if (ctlLimit d 24).bad then some (.badLimits, [indexField 1])
    else if (ctlLimit d 28).bad then some (.badLimits, [indexField 2])
    else none := by
  have absent : (!t.fitted) = true ↔ t.dotCount = 0 := by simp [Station.fitted]
  have outside : (!within 1 64 (ctlInterval d)) = true ↔ ctlInterval d < 1 ∨ 64 < ctlInterval d := by
    simp only [Bool.not_eq_true', ← Bool.not_eq_true, within_iff]
    omega
  simp only [Station.limitsRefusal?, firstRefusal, absent, outside]

/-- A refusal answers, and leaves the monitor as it was. -/
theorem limits_of_refused {w : Work} (hand : s.control.hand = some ⟨d, i, w⟩) {r : Status × List CompletionField}
    (refused : (s.station n).limitsRefusal? d = some r) :
    (s.takeLimits n d).finishEvent.control.hand = some ⟨d, i, .complete (controlCompletion r.1 r.2)⟩ ∧
      ((s.takeLimits n d).finishEvent.station n).thermal = (s.station n).thermal := by
  have taken : s.takeLimits n d = s.outcome (controlCompletion r.1 r.2) := by
    unfold takeLimits
    rw [refused]
  rw [taken, control_finishEvent, control_outcome hand]
  exact ⟨rfl, (((kept_outcome ..).trans (kept_finishEvent _)).lanes n).thermal⟩

/-- The limits stored and the command answered, before a paused line begins. -/
def State.limitsTaken (s : State) (n : StationNo) (d : List Byte) : State :=
  (s.updStation n fun t => { t with thermal := thermalOf d s.clock }).outcome (controlCompletion .ok [])

theorem takeLimits_of_taken (taken : (s.station n).limitsRefusal? d = none) :
    s.takeLimits n d = (s.limitsTaken n d).releasePaused n := by
  unfold takeLimits
  rw [taken]
  rfl

theorem station_limitsTaken : (s.limitsTaken n d).station n =
    { s.station n with thermal := thermalOf d s.clock } :=
  (station_updChan ..).trans (station_updStation ..)

theorem control_limitsTaken {w : Work} (hand : s.control.hand = some ⟨d, i, w⟩) :
    ((s.limitsTaken n d).releasePaused n).finishEvent.control.hand =
      some ⟨d, i, .complete (controlCompletion .ok [])⟩ := by
  rw [control_finishEvent, control_of_confined (confined_releasePaused ..)]
  exact control_outcome (s := s.updStation n _) hand _

end

/-- Settles O31: the refusals in their order, and the limits taken with the pause released. -/
theorem setLimits : Obligations.SetLimits := by
  refine ⟨fun s d i n given station => ⟨_, execSetLimits_of_given given station, ?_⟩,
    fun _ _ _ e => e ▸ ⟨rfl, rfl, rfl, rfl, rfl, rfl, rfl, rfl⟩, fun _ => Limit.bad_iff⟩
  obtain ⟨hand, -⟩ := given
  have order := limitsRefusal?_eq (s.station n) d
  split
  · next absent =>
    obtain ⟨answer, same⟩ := limits_of_refused (n := n) hand (order.trans (if_pos absent))
    exact ⟨answersAlone_of_hand answer, same⟩
  next fitted =>
  rw [if_neg fitted] at order
  split
  · next outside =>
    obtain ⟨answer, same⟩ := limits_of_refused (n := n) hand (order.trans (if_pos outside))
    exact ⟨answersItem_of_hand answer (by decide), same⟩
  next inside =>
  rw [if_neg inside] at order
  split
  · next badA =>
    obtain ⟨answer, same⟩ := limits_of_refused (n := n) hand (order.trans (if_pos badA))
    exact ⟨answersItem_of_hand answer (by decide), same⟩
  next goodA =>
  rw [if_neg goodA] at order
  split
  · next badB =>
    obtain ⟨answer, same⟩ := limits_of_refused (n := n) hand (order.trans (if_pos badB))
    exact ⟨answersItem_of_hand answer (by decide), same⟩
  next goodB =>
  rw [takeLimits_of_taken (order.trans (if_neg goodB))]
  refine ⟨answersAlone_of_hand (control_limitsTaken hand), ?_, fun p k last profile printing paused present below =>
    begins_released station_limitsTaken (hotHold_thermalOf ..) profile printing paused present below⟩
  rw [thermal_released, station_limitsTaken, thermalOf]
  simp only [Bool.or_eq_true]

/-! ### A sample (R175 to R178) -/

theorem Limit.sample_eq (l : Limit) (temp : Nat) : l.sample temp = { l with
    crossed := if l.direction = 1 then decide (temp < l.threshold) else decide (l.threshold < temp),
    verdictValid := true,
    frozen := (if l.direction = 1 then decide (temp < l.threshold) else decide (l.threshold < temp)) && l.report } :=
  rfl

theorem Limit.acts_iff {l : Limit} {action : Nat} :
    l.acts action = true ↔ l.valid = true ∧ l.crossed = true ∧ l.action = action := by
  simp [acts, and_assoc]

theorem Limit.eligible_iff {l : Limit} : l.eligible = true ↔ l.valid = true ∧ l.frozen = false := by
  simp [eligible]

namespace Thermal

variable {th : Thermal}

/-- LIM_A is sampled in its turn, and in that of LIM_B where LIM_B is not eligible (R175). -/
theorem pick_limA : th.pick = some .limA ↔
    th.limA.eligible = true ∧ (th.turn = .limA ∨ ¬th.limB.eligible = true) := by
  unfold pick
  cases th.turn with
  | limA => by_cases a : th.limA.eligible = true <;> simp [a]
  | limB => by_cases b : th.limB.eligible = true <;> simp [b]

theorem pick_limB : th.pick = some .limB ↔
    th.limB.eligible = true ∧ (th.turn = .limB ∨ ¬th.limA.eligible = true) := by
  unfold pick
  cases th.turn with
  | limA => by_cases a : th.limA.eligible = true <;> simp [a]
  | limB => by_cases b : th.limB.eligible = true <;> simp [b]

theorem limit_sampled (w : Turn) (temp : Nat) (clock : Word) :
    (th.sampled w temp clock).limit w = (th.limit w).sample temp := by cases w <;> rfl

theorem band_eq (th : Thermal) : th.band =
    if (th.limA.valid ∧ th.limA.crossed ∧ th.limA.action = 1) ∨
        (th.limB.valid ∧ th.limB.crossed ∧ th.limB.action = 1) then .warm
    else if (th.limA.valid ∧ th.limA.crossed ∧ th.limA.action = 2) ∨
        (th.limB.valid ∧ th.limB.crossed ∧ th.limB.action = 2) then .cold
    else .normal := by
  simp only [band, Bool.or_eq_true, Limit.acts_iff, actWarm, actCold]

theorem hotHold_iff : th.hotHold = true ↔
    (th.limA.valid = true ∧ th.limA.crossed = true ∧ th.limA.action = 3) ∨
    (th.limB.valid = true ∧ th.limB.crossed = true ∧ th.limB.action = 3) := by
  simp only [hotHold, Bool.or_eq_true, Limit.acts_iff, actHotHold]

end Thermal

section

variable {s : State} {n : StationNo} {deg : Int} {t0 : Word} {iv : Nat}

theorem execThermalSample_of_pick {w : Turn} (timer : (s.station n).thermal.timer = some t0)
    (interval : (s.station n).thermal.interval = some iv) (pick : (s.station n).thermal.pick = some w) :
    exec (.thermalSample n deg) s =
      .next ((s.reachTime (afterMs t0 iv)).takeSample n w (clampDegrees deg)) := by
  show execThermalSample n deg s = _
  simp only [execThermalSample, timer, interval, pick]

theorem execThermalSample_of_none (timer : (s.station n).thermal.timer = some t0)
    (interval : (s.station n).thermal.interval = some iv) (none : (s.station n).thermal.pick = none) :
    exec (.thermalSample n deg) s = .next ((s.reachTime (afterMs t0 iv)).stopSampling n) := by
  show execThermalSample n deg s = _
  simp only [execThermalSample, timer, interval, none]

end

namespace State

variable (s : State) (n : StationNo) (w : Turn) (temp : Nat)

theorem raised_reachTime (t : Word) (e : Cause) : (s.reachTime t).raised e = s.raised e := by
  obtain ⟨_, reached⟩ := reachTime_eq s t
  rw [reached]
  rfl

/-- The sample stored and its cause raised, before a paused line begins. -/
def sampleStored : State :=
  (s.updStation n fun st => { st with thermal := (s.station n).thermal.sampled w temp s.clock }).reportSample n
    (((s.station n).thermal.sampled w temp s.clock).limit w)

theorem takeSample_eq : s.takeSample n w temp = ((s.sampleStored n w temp).releasePaused n).finishEvent := rfl

theorem station_sampleStored : (s.sampleStored n w temp).station n =
    { s.station n with thermal := (s.station n).thermal.sampled w temp s.clock } := by
  unfold sampleStored reportSample
  split
  · rw [station_raise, station_updStation]
  · rw [station_updStation]

theorem clock_sampleStored : (s.sampleStored n w temp).clock = s.clock := by
  unfold sampleStored reportSample
  split <;> rfl

/-- THERM-n is raised where the sampled limit freezes, and at no other sample (R176). -/
theorem raised_takeSample : (s.takeSample n w temp).raised (.therm n) =
    ((((s.station n).thermal.limit w).sample temp).frozen || s.raised (.therm n)) := by
  have stands := ((laneCauses_releasePaused (s.sampleStored n w temp) n).trans (laneCauses_finishEvent _)).raised
    (.therm n) rfl
  rw [takeSample_eq, stands]
  unfold sampleStored reportSample
  rw [Thermal.limit_sampled]
  split
  · next frozen => simp [raised_raise, frozen]
  · next thawed =>
    rw [Bool.not_eq_true] at thawed
    rw [thawed, Bool.false_or]
    rfl

theorem clock_takeSample : (s.takeSample n w temp).clock = s.clock := by
  rw [takeSample_eq, ((kept_releasePaused ..).trans (kept_finishEvent _)).clock, clock_sampleStored]

theorem thermal_takeSample :
    ((s.takeSample n w temp).station n).thermal = (s.station n).thermal.sampled w temp s.clock := by
  rw [takeSample_eq, thermal_released, station_sampleStored]

end State

/-- Settles O58: the limit sampled, its verdict and freeze, and the paused line released or kept waiting. -/
theorem thermalSampled : Obligations.ThermalSampled := by
  refine ⟨fun s n deg t0 iv timer interval => ⟨fun w pick =>
      ⟨_, execThermalSample_of_pick timer interval pick, clock_takeSample .., ?_, ?_, fun frozen => ?_,
        fun thawed => ?_, fun p k last profile printing paused => ?_⟩, fun none => ?_⟩,
    fun th => ⟨?_, ?_⟩, fun _ => ⟨rfl, rfl⟩, Limit.sample_eq, Thermal.band_eq, fun _ => Thermal.hotHold_iff⟩
  · rintro rfl
    rw [thermal_takeSample, station_reachTime]
    rfl
  · rintro rfl
    rw [thermal_takeSample, station_reachTime]
    rfl
  · rw [raised_takeSample, station_reachTime, Bool.or_eq_true]
    exact .inl frozen
  · rw [raised_takeSample, station_reachTime, raised_reachTime]
    exact (congrArg (· || s.raised (.therm n)) thawed).trans (Bool.false_or _)
  · have stored := station_sampleStored (s.reachTime (afterMs t0 iv)) n w (clampDegrees deg)
    rw [thermal_takeSample, takeSample_eq]
    rw [station_reachTime] at stored ⊢
    refine ⟨fun hot => ?_, fun cool present below => ?_⟩
    · obtain ⟨feed, edge⟩ := waits_released stored hot printing
      exact ⟨feed.trans paused, edge⟩
    · obtain ⟨-, begun⟩ := begins_released stored cool profile printing paused present below
      exact begun
  · rw [execThermalSample_of_none timer interval none, stopSampling,
      ← congrArg Station.thermal (station_reachTime s (afterMs t0 iv) n)]
    rfl
  · simp only [← Limit.eligible_iff]
    exact Thermal.pick_limA
  · simp only [← Limit.eligible_iff]
    exact Thermal.pick_limB

end Sys2Proof.Machine
end

section
/-! The begin of a check over the event in which it is made, by DOTCHECK or by the service test (R184 to R186). -/

namespace Sys2Proof.Machine

open State

namespace State

/-! ### The begin of a check at its station (R184) -/

section

variable {s : State} {n : StationNo} (o : CheckOrigin)

theorem check_beginCheck : (s.beginCheck n o).check = some (Check.begun n o (s.station n).beginPhase
    (if (s.station n).beginPhase = .settling then some s.clock else none)) := rfl

theorem station_beginCheck_of_idle (idle : (s.station n).state = .idle) : (s.beginCheck n o).station n =
    Station.enter { s.station n with returnState := some .idle } .checking s.clock := by
  show (s.beginAtStation n).station n = _
  rw [beginAtStation, idle]
  exact station_enterChecking ..

theorem station_beginCheck_of_held (held : (s.station n).state = .held) : (s.beginCheck n o).station n =
    Station.enter { s.station n with returnState := some .held } .checking s.clock := by
  show (s.beginAtStation n).station n = _
  rw [beginAtStation, held]
  exact station_enterChecking ..

theorem station_beginCheck_of_parked (parked : (s.station n).state = .parked) : (s.beginCheck n o).station n =
    { (s.station n).enter .waking s.clock with wakeCause := .check, checkDue := true } := by
  show (s.beginAtStation n).station n = _
  rw [beginAtStation, parked]
  dsimp only
  rw [station_updStation, station_wakeUp]

theorem station_beginCheck_of_waking (waking : (s.station n).state = .waking) : (s.beginCheck n o).station n =
    { s.station n with checkDue := true } := by
  show (s.beginAtStation n).station n = _
  rw [beginAtStation, waking]
  exact station_updStation ..

variable (s n)

/-- The begin of a check takes its station out of IDLE and PARKED, where the service test could take it again. -/
theorem away_beginCheck : ((s.beginCheck n o).station n).state.checkable = false := by
  cases state : (s.station n).state
  case idle => rw [station_beginCheck_of_idle o state]; rfl
  case held => rw [station_beginCheck_of_held o state]; rfl
  case parked => rw [station_beginCheck_of_parked o state]; rfl
  case waking =>
    rw [station_beginCheck_of_waking o state]
    exact congrArg StationState.checkable state
  all_goals
    show ((s.beginAtStation n).station n).state.checkable = false
    rw [beginAtStation, state]
    exact congrArg StationState.checkable state

theorem checkPending_beginCheck : (s.beginCheck n o).checkPending.get n = false := Four.get_set_same ..

theorem control_beginCheck : (s.beginCheck n o).control = s.control :=
  control_of_confined (confined_beginCheck (n := n) s n o)

/-- A check that has begun goes on over the end of its event, and no request of its station is left. -/
theorem dcu_finishEvent_of_begun : (s.beginCheck n o).finishEvent.check = (s.beginCheck n o).check ∧
    (s.beginCheck n o).finishEvent.checkPending.get n = false := by
  refine ⟨check_finishEvent (.inl rfl), ?_⟩
  rw [(dcu_finishEvent_of_away (away_beginCheck s n o)).1, checkPending_beginCheck]

end

/-! ### The check that the service test begins (R186) -/

/-- A check in progress is an automatic one, just begun, of a station that was asked for. -/
def BegunFor (asked : Four Bool) (s : State) : Prop :=
  ∀ x, s.check = some x → asked.get x.station = true ∧ ∃ phase timer, x = .begun x.station .auto phase timer

variable {asked : Four Bool} {s : State}

theorem BegunFor.of_none (idle : s.check = none) : s.BegunFor asked := fun _ check => nomatch idle.symm.trans check

theorem check_startAll (s : State) : s.startAll.check = s.check :=
  foldl_keeps (P := fun x => x.check = s.check) (fun x m h => (laneWork_startStation x m).check.trans h) _ s rfl

theorem dcu_pairAll (s : State) : s.pairAll.check = s.check ∧ s.pairAll.checkPending = s.checkPending :=
  foldl_keeps (P := fun x => x.check = s.check ∧ x.checkPending = s.checkPending)
    (fun x m ⟨check, pending⟩ => ⟨(laneWork_pairStation x m).check.trans check,
      (laneWork_pairStation x m).checkPending.trans pending⟩) _ s ⟨rfl, rfl⟩

theorem asked_of_serviceStation? {m : StationNo} (h : s.serviceStation? = some m) :
    s.checkPending.get m = true := by
  unfold serviceStation? at h
  split at h
  · cases h
  · have eligible := List.find?_some h
    exact Bool.and_elim_left eligible

theorem begunFor_checkAndStart {m : StationNo} (wanted : asked.get m = true) (s : State) :
    (s.beginCheck m .auto).startAll.BegunFor asked := by
  intro x check
  rw [check_startAll, check_beginCheck] at check
  cases check
  exact ⟨wanted, _, _, rfl⟩

theorem begunFor_serveAndStart (k : Nat) : ∀ {s : State}, s.check = none → s.checkPending = asked →
    (s.serveAndStart k).BegunFor asked := by
  induction k with
  | zero => exact fun {s} idle _ => .of_none ((check_startAll s).trans idle)
  | succ k ih =>
    intro s idle pending
    unfold serveAndStart
    split
    · exact .of_none ((check_startAll s).trans idle)
    · next m serviced =>
      have wanted : asked.get m = true := pending ▸ asked_of_serviceStation? serviced
      split
      · dsimp only
        split
        · exact begunFor_checkAndStart wanted _
        · have started := laneWork_startStation { s with freeIndex := s.freeIndex + 1 } m
          exact ih (started.check.trans idle) (started.checkPending.trans pending)
      · exact begunFor_checkAndStart wanted s

/-- The end of an event begins no check of an IDLE DCU but one that the pending set asks for. -/
theorem begunFor_finishEvent (idle : s.check = none) : s.finishEvent.BegunFor s.checkPending := by
  obtain ⟨check, checkPending⟩ := dcu_pairAll s
  have choice := choiceWork_chooseLabels s.pairAll
  have served := begunFor_serveAndStart 5 (choice.check.trans (check.trans idle))
    (choice.checkPending.trans checkPending)
  obtain ⟨-, parked, -⟩ := parkTimers_rest (s.pairAll.chooseLabels.serveAndStart 5)
  obtain ⟨-, -, -, settled, -⟩ := sameLanes_settleBus s.settleStations
  intro x begun
  rw [finishEvent, settled, settleStations, parked] at begun
  exact served x begun

end State

end Sys2Proof.Machine
end

section
/-! DOTCHECK (R183, R184). -/

namespace Sys2Proof.Machine

open State

theorem StationState.busyForCheck_iff {st : StationState} : st.busyForCheck = true ↔
    st ∈ [StationState.printing, .presenting, .ejecting, .calibrating, .checking, .fault] := by
  cases st <;> decide

section

variable {s : State} {n : StationNo} {d : List Byte} {i : Nat}

theorem execDotcheck_of_given (given : s.given d .dotcheck i) (station : ctlStation? d = some n) :
    exec .dotcheck s = .next (s.takeDotcheck n).finishEvent := by
  show execDotcheck s = _
  simp only [execDotcheck, commandInHand?_of_given given, station]

/-- The refusals in the order of the rule (R183). -/
theorem dotcheckRefusal?_eq (s : State) (n : StationNo) : s.dotcheckRefusal? n =
    if (s.station n).dotCount = 0 then some .noHead
    else if (s.station n).state = .offline then some .stationOffline
    else if (s.station n).headOpen = true then some .headOpen
    else if (s.station n).state ∈ [StationState.printing, .presenting, .ejecting, .calibrating, .checking,
      .fault] then some .stationBusy
    else if s.check ≠ none then some .dcuBusy
    else none := by
  have absent : (!(s.station n).fitted) = true ↔ (s.station n).dotCount = 0 := by simp [Station.fitted]
  have checking : s.check.isSome = true ↔ s.check ≠ none := Option.isSome_iff_ne_none
  simp only [dotcheckRefusal?, firstRefusal, absent, beq_iff_eq, StationState.busyForCheck_iff, checking]

theorem answersAlone_dotcheck_refused {w : Work} (hand : s.control.hand = some ⟨d, i, w⟩) {st : Status}
    (refused : s.dotcheckRefusal? n = some st) : (s.takeDotcheck n).finishEvent.answersAlone st := by
  unfold takeDotcheck
  rw [refused]
  exact answersAlone_refused hand st

theorem takeDotcheck_of_free (free : s.dotcheckRefusal? n = none) :
    s.takeDotcheck n = (s.setWork .control .busy).beginCheck n .command := by
  unfold takeDotcheck
  rw [free]

theorem control_setBusy {w : Work} (hand : s.control.hand = some ⟨d, i, w⟩) :
    (s.setWork .control .busy).control.hand = some ⟨d, i, .busy⟩ := by
  simp [setWork, updChan, hand]

end

/-- Settles O33: the first refusal that holds, and otherwise the check begun, which stands over the end of the event. -/
theorem dotcheck : Obligations.Dotcheck := by
  refine fun s d i n given station => ⟨_, execDotcheck_of_given given station, ?_⟩
  obtain ⟨hand, -⟩ := given
  have order := dotcheckRefusal?_eq s n
  split
  · next absent => exact answersAlone_dotcheck_refused hand (order.trans (if_pos absent))
  next fitted =>
  rw [if_neg fitted] at order
  split
  · next offline => exact answersAlone_dotcheck_refused hand (order.trans (if_pos offline))
  next online =>
  rw [if_neg online] at order
  split
  · next opened => exact answersAlone_dotcheck_refused hand (order.trans (if_pos opened))
  next closed =>
  rw [if_neg closed] at order
  split
  · next busy => exact answersAlone_dotcheck_refused hand (order.trans (if_pos busy))
  next still =>
  rw [if_neg still] at order
  split
  · next checking => exact answersAlone_dotcheck_refused hand (order.trans (if_pos checking))
  next free =>
  rw [takeDotcheck_of_free (order.trans (if_neg free))]
  have waits := control_setBusy hand
  have same : (s.setWork .control .busy).station n = s.station n := station_updChan ..
  have clock : (s.setWork .control .busy).clock = s.clock := (kept_setWork ..).clock
  generalize s.setWork .control .busy = x at waits same clock ⊢
  obtain ⟨check, asked⟩ := dcu_finishEvent_of_begun x n .command
  obtain ⟨_, _, _, lane⟩ := lane_finishEvent_of_away (away_beginCheck x n .command)
  rw [check_beginCheck, same, clock] at check
  rw [lane, check]
  refine ⟨?_, asked, fun idle => ?_, fun held => ?_, fun parked => ?_, fun waking => ?_⟩
  · rw [control_finishEvent, control_beginCheck, waits]
  · rw [station_beginCheck_of_idle _ (same ▸ idle)]
    exact ⟨rfl, rfl, by simp [Station.beginPhase, idle, Check.begun]⟩
  · rw [station_beginCheck_of_held _ (same ▸ held)]
    refine ⟨rfl, rfl, rfl, ?_⟩
    cases power : (s.station n).power <;> simp [Station.beginPhase, held, power, Check.begun]
  · rw [station_beginCheck_of_parked _ (same ▸ parked)]
    exact ⟨rfl, rfl, rfl, by simp [Station.beginPhase, parked, Check.begun]⟩
  · rw [station_beginCheck_of_waking _ (same ▸ waking)]
    refine ⟨?_, rfl, by simp [Station.beginPhase, waking, Check.begun]⟩
    rw [same]
    exact waking

end Sys2Proof.Machine
end

section
/-! The bytes of a DOTCHECK completion (R188, R208). -/

namespace Sys2Proof.Machine

/-- The fields of a DOTCHECK completion, as dotcheckCompletion gives them (R188, R208). -/
def dotcheckFields (count : Nat) (dots : List FailedDot) : List CompletionField :=
  [(32, [byte Status.ok.code]), (36, bytesLE 2 count), (38, ((dots.take 8).map FailedDot.bytes).flatten)]

variable (count : Nat) (dots : List FailedDot)

theorem length_dotcheckCompletion : (dotcheckCompletion count dots).length = 31 := areaBytes_length ..

theorem getD_dotcheckCompletion {j : Nat} (bound : j < 31) :
    (dotcheckCompletion count dots).getD j 0 = fieldByte (dotcheckFields count dots) (32 + j) :=
  areaBytes_getD _ bound

variable {count dots} in
theorem State.answers_of_dotcheckCompletion {s : State}
    (answer : s.controlAnswer? = some (dotcheckCompletion count dots)) : s.answers .ok := by
  rw [answers, controlStatus?, answer]
  rfl

/-- The reserved bytes between the status and the count (R208, R209). -/
theorem dotcheckCompletion_reserved : ∀ j ∈ [1, 2, 3], (dotcheckCompletion count dots).getD j 0 = 0 := by
  simp only [List.mem_cons, List.not_mem_nil, or_false]
  rintro j (rfl | rfl | rfl) <;> rfl

theorem dotcheckCompletion_count :
    le16 (listReader (dotcheckCompletion count dots)) 4 = count % 65536 := two_bytes count

theorem length_bytes_of_mem {b : List Byte} (h : b ∈ (dots.take 8).map FailedDot.bytes) : b.length = 3 := by
  obtain ⟨_, -, rfl⟩ := List.mem_map.mp h
  rfl

theorem length_dotBytes : ((dots.take 8).map FailedDot.bytes).flatten.length = 3 * min 8 dots.length := by
  have three : List.length ∘ FailedDot.bytes = fun _ => 3 := rfl
  rw [List.length_flatten, List.map_map, three]
  simp [Nat.mul_comm]

/-- From byte 38 on stand the bytes of the failed elements, and 0 behind them. -/
theorem getD_dotcheckCompletion_dots {k : Nat} (bound : k < 25) : (dotcheckCompletion count dots).getD (6 + k) 0 =
    (((dots.take 8).map FailedDot.bytes).flatten).getD k 0 := by
  rw [getD_dotcheckCompletion _ _ (by omega), ← Nat.add_assoc,
    fieldByte_drop 2 (by simp [dotcheckFields, bytesLE]; omega)]
  by_cases inside : k < ((dots.take 8).map FailedDot.bytes).flatten.length
  · exact fieldByte_cons _ inside
  · rw [List.getD_eq_default _ _ (by omega)]
    exact if_neg (by omega)

variable {count dots}

/-- The three bytes of a failed element of the list (R208). -/
theorem dotcheckCompletion_dot {j : Nat} {x : FailedDot} (bound : j < 8) (listed : dots[j]? = some x) :
    (dotcheckCompletion count dots).getD (6 + 3 * j) 0 = x.reading ∧
      (dotcheckCompletion count dots).getD (7 + 3 * j) 0 = byte x.element ∧
      (dotcheckCompletion count dots).getD (8 + 3 * j) 0 =
        byte (x.element / 256 % 4 + 16 * x.cls.code) := by
  have entry : ((dots.take 8).map FailedDot.bytes).getD j [] = x.bytes := by
    simp [List.getD_eq_getElem?_getD, bound, listed]
  have at_ {k : Nat} (hk : k < 3) :
      (dotcheckCompletion count dots).getD (6 + (3 * j + k)) 0 = x.bytes.getD k 0 := by
    rw [getD_dotcheckCompletion_dots _ _ (by omega), getD_flatten (fun _ => length_bytes_of_mem dots) hk, entry]
  rw [show 6 + 3 * j = 6 + (3 * j + 0) by omega, show 7 + 3 * j = 6 + (3 * j + 1) by omega,
    show 8 + 3 * j = 6 + (3 * j + 2) by omega, at_ (by decide), at_ (by decide), at_ (by decide), Nat.mul_comm 16]
  exact ⟨rfl, rfl, rfl⟩

theorem dotcheckCompletion_behind {j : Nat} (behind : 6 + 3 * dots.length ≤ j) :
    (dotcheckCompletion count dots).getD j 0 = 0 := by
  by_cases inside : j < 31
  · obtain ⟨k, rfl⟩ := Nat.exists_eq_add_of_le (show 6 ≤ j by omega)
    rw [getD_dotcheckCompletion_dots _ _ (by omega)]
    exact List.getD_eq_default _ _ (by rw [length_dotBytes]; omega)
  · exact List.getD_eq_default _ _ (by rw [length_dotcheckCompletion]; omega)

end Sys2Proof.Machine
end

section
/-! ELEMENT_MEASUREMENT_END: a measurement, and the end of a check (R161, R187, R188). -/

namespace Sys2Proof.Machine

open State

/-! ### A measurement (R187) -/

theorem Check.measure_eq (c : Check) (r : Byte) : c.measure r = { c with
    map := c.map ++ [(classOf r, r)], next := c.next + 1,
    count := if classOf r = .good then c.count else c.count + 1,
    dots := if classOf r ≠ .good ∧ c.dots.length < 8 then c.dots ++ [⟨c.next, classOf r, r⟩] else c.dots } := by
  unfold measure
  cases classOf r <;> simp

section

variable {s : State} {c : Check}

theorem execElementMeasurementEnd_of_measuring (check : s.check = some c) (measuring : c.phase = .measuring)
    (r : Byte) : exec (.elementMeasurementEnd r) s = .next (s.measured (c.measure r)) := by
  show execElementMeasurementEnd r s = _
  simp only [execElementMeasurementEnd, check, if_pos measuring]

theorem measured_of_more (more : c.next < (s.station c.station).dotCount) :
    s.measured c = { s with check := some c } := if_neg (Nat.not_le.mpr more)

theorem measured_of_last (last : (s.station c.station).dotCount ≤ c.next) :
    s.measured c = (s.completeCheck c).finishEvent := if_pos last

end

namespace State

/-! ### The results of a check (R188) -/

variable (s : State) (c : Check)

/-- The results of a check stand in its station's map and summary, and DOTCHECK_DONE is raised (R188, 1 to 3). -/
def checkRecorded : State :=
  (s.updStation c.station fun t => { t with map := c.map, summary := ⟨c.count, c.dots⟩ }).raise
    (.dotcheckDone c.station)

/-- The outcome of a commanded check is handed to RCH-C, before the station returns (R188, 4). -/
def checkReported : State :=
  match c.origin with
  | .command => (s.checkRecorded c).report .dotcheck (dotcheckCompletion c.count c.dots)
  | .auto => s.checkRecorded c

theorem completeCheck_eq :
    s.completeCheck c = { (s.checkReported c).enterReturn c.station with check := none } := rfl

theorem chanWork_checkReported : (s.checkRecorded c).ChanWork (s.checkReported c) := by
  unfold checkReported
  split
  · exact chanWork_report ..
  · exact .refl _

theorem station_checkReported : (s.checkReported c).station c.station =
    { s.station c.station with map := c.map, summary := ⟨c.count, c.dots⟩ } := by
  rw [(chanWork_checkReported s c).station, checkRecorded, station_raise, station_updStation]

theorem checkPending_checkReported : (s.checkReported c).checkPending = s.checkPending := by
  obtain ⟨-, -, -, -, same, -⟩ := (chanWork_checkReported s c).sameLanes
  exact same

theorem done_checkReported : (s.checkReported c).raised (.dotcheckDone c.station) = true := by
  obtain ⟨events, -⟩ := (chanWork_checkReported s c).sameEvents
  rw [raised, events, ← raised, checkRecorded, raised_raise, beq_self_eq_true, Bool.true_or]

theorem returnsHeld_checkReported : (s.checkReported c).ReturnsHeld c.station ↔ s.ReturnsHeld c.station := by
  unfold ReturnsHeld
  rw [station_checkReported]

/-! ### The end of a check, before the end of its event (R161, R188) -/

theorem kept_checkReturned : (s.checkReported c).Kept (s.completeCheck c) :=
  (kept_enterReturn (s.checkReported c) c.station).trans (kept_rest _ ..)

theorem checkPending_enterReturn (n : StationNo) : (s.enterReturn n).checkPending = s.checkPending := by
  unfold enterReturn
  split
  · exact (laneWork_enterHeld s n).checkPending
  · exact updStation_checkPending ..

theorem checkPending_completeCheck : (s.completeCheck c).checkPending = s.checkPending :=
  (checkPending_enterReturn (s.checkReported c) c.station).trans (checkPending_checkReported s c)

/-- The check that the service test begins in the event that completes one (R186, R188). -/
theorem begunFor_checkReturned : (s.completeCheck c).finishEvent.BegunFor s.checkPending := by
  rw [← checkPending_completeCheck s c]
  exact begunFor_finishEvent rfl

variable {s c}

/-- A commanded check hands its count and its failed elements to RCH-C. -/
theorem control_completeCheck {d : List Byte} {i : Nat} (commanded : c.origin = .command)
    (hand : s.control.hand = some ⟨d, i, .busy⟩) (named : controlCode d = .dotcheck) :
    (s.completeCheck c).control.hand = some ⟨d, i, .complete (dotcheckCompletion c.count c.dots)⟩ := by
  show ((s.checkReported c).enterReturn c.station).control.hand = _
  rw [control_enterReturn, checkReported, commanded]
  exact control_report (s := s.checkRecorded c) hand named _

/-- A station that goes back to HELD stays there (R161). -/
theorem state_checkReturned_of_held (held : s.ReturnsHeld c.station) :
    ((s.completeCheck c).finishEvent.station c.station).state = .held := by
  have entered : ∃ q, (s.completeCheck c).station c.station =
      ((s.checkReported c).station c.station).holding (s.checkReported c).clock q := by
    rw [completeCheck_eq, enterReturn_of_held ((returnsHeld_checkReported s c).mpr held)]
    exact station_enterHeld (s.checkReported c) c.station
  obtain ⟨_, e⟩ := finishEvent_of_holding entered
  rw [e]
  rfl

/-- A station that goes back to IDLE stays there where it has no label and no check is asked for (R161). -/
theorem state_checkReturned_of_idle (idle : ¬s.ReturnsHeld c.station) (empty : (s.station c.station).queue = [])
    (noCheck : s.unasked c.station) : ((s.completeCheck c).finishEvent.station c.station).state = .idle ∧
      ((s.completeCheck c).finishEvent.station c.station).power = true := by
  have returned : s.completeCheck c =
      State.enter { s.checkReported c with check := none } c.station .idle := by
    rw [completeCheck_eq, enterReturn_of_idle fun held => idle ((returnsHeld_checkReported s c).mp held)]
    rfl
  have none : (State.station { s.checkReported c with check := none } c.station).queue = [] := by
    show ((s.checkReported c).station c.station).queue = []
    rw [station_checkReported]
    exact empty
  rw [returned, station_idleEmpty none (by rw [unasked, checkPending_checkReported]; exact noCheck)]
  exact ⟨rfl, rfl⟩

end State

/-- Settles O57: the working items after a measurement; after the last, the results recorded and handed on, the station
back in its return state, and the service test that follows. -/
theorem elementMeasured : Obligations.ElementMeasured := by
  refine ⟨fun _ => rfl, rfl, fun s c r check measuring more => ?_, fun s c r check measuring last => ?_⟩
  · rw [execElementMeasurementEnd_of_measuring check measuring, Check.measure_eq, measured_of_more more]
  · have fields := Check.measure_eq c r
    refine ⟨_, execElementMeasurementEnd_of_measuring check measuring r, ?_⟩
    generalize c.measure r = m at fields ⊢
    have station : m.station = c.station := by rw [fields]
    have origin : m.origin = c.origin := by rw [fields]
    have map : m.map = c.map ++ [(classOf r, r)] := by rw [fields]
    have count := congrArg Check.count fields
    have dots := congrArg Check.dots fields
    have next : m.next = c.next + 1 := by rw [fields]
    dsimp only at count dots ⊢
    rw [← station, ← next] at last
    rw [measured_of_last last, ← station, ← origin, ← map, ← count, ← dots]
    have ended := (kept_checkReturned s m).trans (kept_finishEvent _)
    have begun := begunFor_checkReturned s m
    refine ⟨ended.raised _ (done_checkReported s m), ?_, ?_, fun held => state_checkReturned_of_held (.inr held),
      fun back free empty noCheck => ?_, fun unasked => ?_, fun x inProgress => ?_,
      fun d i commanded hand named => ?_⟩
    · rw [(ended.lanes m.station).map, station_checkReported]
    · rw [(ended.lanes m.station).summary, station_checkReported]
    · exact state_checkReturned_of_idle (fun held => held.elim (by simp [free]) back) empty noCheck
    · refine Option.eq_none_iff_forall_not_mem.mpr fun x inProgress => ?_
      obtain ⟨asked, -⟩ := begun x inProgress
      cases (unasked x.station).symm.trans asked
    · obtain ⟨asked, _, _, e⟩ := begun x inProgress
      rw [e]
      exact ⟨asked, rfl, rfl, rfl, rfl, rfl⟩
    · have answer := controlAnswer?_of_hand
        ((control_finishEvent _).trans (control_completeCheck commanded hand named))
      exact ⟨answers_of_dotcheckCompletion answer, _, answer, length_dotcheckCompletion ..,
        dotcheckCompletion_reserved _ _, dotcheckCompletion_count .., fun _ _ => dotcheckCompletion_dot,
        fun _ => dotcheckCompletion_behind⟩

end Sys2Proof.Machine
end

section
/-! Every command keeps the queue, and, but for the commands that name them, the card, the settings of the engine, the
bases and sizes of the rings, and the causes raised (R83, R103, R194, R195, R201 to R203). -/

namespace Sys2Proof.Machine

open State

/-! ### What a command keeps -/

theorem State.SameCard.refl (s : State) : s.SameCard s := ⟨rfl, rfl, rfl, rfl, fun _ => rfl⟩

theorem State.SameCard.trans {s t u : State} (h : s.SameCard t) (k : t.SameCard u) : s.SameCard u := by
  obtain ⟨h1, h2, h3, h4, h5⟩ := h
  obtain ⟨k1, k2, k3, k4, k5⟩ := k
  exact ⟨k1.trans h1, k2.trans h2, k3.trans h3, k4.trans h4, fun n => (k5 n).trans (h5 n)⟩

theorem State.SameEngine.refl (s : State) : s.SameEngine s := ⟨rfl, rfl, rfl, rfl, rfl⟩

theorem State.SameEngine.trans {s t u : State} (h : s.SameEngine t) (k : t.SameEngine u) : s.SameEngine u := by
  obtain ⟨h1, h2, h3, h4, h5⟩ := h
  obtain ⟨k1, k2, k3, k4, k5⟩ := k
  exact ⟨k1.trans h1, k2.trans h2, k3.trans h3, k4.trans h4, k5.trans h5⟩

theorem State.sameRegs_of_same {s t : State} (control : t.control = s.control) (rings : t.rings = s.rings)
    (r : Chan) : (t.chan r).base = (s.chan r).base ∧ (t.chan r).size = (s.chan r).size := by
  cases r <;> simp only [State.chan, control, rings, and_self]

/-- What a command keeps of the queue, the card, the settings, the rings and the causes raised. -/
structure State.SettingsKept (i : Instr) (s t : State) : Prop where
  pending : t.pending = s.pending
  card : i.setsCard = false → s.SameCard t
  engine : i.setsEngine = false → s.SameEngine t
  rings : i.setsRings = false → ∀ r, (t.chan r).base = (s.chan r).base ∧ (t.chan r).size = (s.chan r).size
  events : i.clearsEvents = false → ∀ e, s.raised e = true → t.raised e = true

namespace State.SettingsKept

variable {i : Instr} {s t u : State}

theorem refl (s : State) : s.SettingsKept i s :=
  ⟨rfl, fun _ => .refl s, fun _ => .refl s, fun _ _ => ⟨rfl, rfl⟩, fun _ _ => id⟩

theorem trans (h : s.SettingsKept i t) (k : t.SettingsKept i u) : s.SettingsKept i u := by
  refine ⟨k.pending.trans h.pending, fun e => (h.card e).trans (k.card e),
    fun e => (h.engine e).trans (k.engine e), fun e r => ?_, fun e c => k.events e c ∘ h.events e c⟩
  obtain ⟨base, size⟩ := h.rings e r
  obtain ⟨base', size'⟩ := k.rings e r
  exact ⟨base'.trans base, size'.trans size⟩

/-- The shared operations keep all of it. -/
theorem of_kept (k : s.Kept t) : s.SettingsKept i t :=
  ⟨k.pending, fun _ => ⟨k.loading, k.defaulted, k.boardTag, k.total, fun n => (k.lanes n).dotCount⟩,
    fun _ => ⟨k.arbiter, k.autoPoll, k.eventEnable, k.inspect, k.readData⟩,
    fun _ r => ⟨(k.regs r).base, (k.regs r).size⟩, fun _ => k.raised⟩

/-- An update of a station that keeps its dot count. -/
theorem updStation (n : StationNo) {f : Station → Station}
    (dots : (f (s.station n)).dotCount = (s.station n).dotCount := by rfl) :
    s.SettingsKept i (s.updStation n f) := by
  refine ⟨rfl, fun _ => ⟨rfl, rfl, rfl, rfl, fun m => ?_⟩, fun _ => .refl s,
    fun _ r => by rw [chan_updStation]; exact ⟨rfl, rfl⟩, fun _ _ => id⟩
  by_cases e : m = n
  · subst e
    rw [station_updStation]
    exact dots
  · rw [station_updStation_ne s f e]

/-- An update of a channel, which keeps its base and size but where the command sets these. -/
theorem updChan (c : Chan) {f : Channel → Channel}
    (regs : i.setsRings = false → (f (s.chan c)).base = (s.chan c).base ∧
      (f (s.chan c)).size = (s.chan c).size := by exact fun _ => ⟨rfl, rfl⟩) :
    s.SettingsKept i (s.updChan c f) := by
  refine ⟨updChan_pending .., fun _ => ⟨updChan_loading .., updChan_defaulted .., updChan_boardTag ..,
      updChan_total .., fun _ => by rw [station_updChan]⟩, fun _ => ⟨updChan_arbiter .., updChan_autoPoll ..,
      updChan_eventEnable .., updChan_inspect .., updChan_readData ..⟩, fun e d => ?_, fun _ _ => ?_⟩
  · by_cases same : d = c
    · subst same
      rw [chan_updChan]
      exact regs e
    · rw [chan_updChan_ne s f same]
      exact ⟨rfl, rfl⟩
  · rw [raised, raised, updChan_eventStatus]
    exact id

/-- The clock is none of the settings. -/
theorem reachTime (t : Word) : s.SettingsKept i (s.reachTime t) := by
  obtain ⟨_, e⟩ := reachTime_eq s t
  rw [e]
  exact ⟨rfl, fun _ => .refl s, fun _ => .refl s, fun _ => sameRegs_of_same rfl rfl, fun _ _ => id⟩

theorem kept (h : s.SettingsKept i t) (k : t.Kept u) : s.SettingsKept i u := h.trans (of_kept k)

end State.SettingsKept

/-- The state an answer goes on with keeps what the command keeps. -/
def Answer.SettingsKept (i : Instr) (s : State) (a : Answer) : Prop := ∀ t, a = .next t → s.SettingsKept i t

namespace Answer.SettingsKept

variable {i : Instr} {s t : State}

theorem next (h : s.SettingsKept i t) : Answer.SettingsKept i s (.next t) := by
  rintro _ ⟨⟩
  exact h

theorem same : Answer.SettingsKept i s (.next s) := next (.refl s)

theorem fault (r : Fault) : Answer.SettingsKept i s (.fault r) := by rintro _ ⟨⟩

theorem refused (r : Refusal) : Answer.SettingsKept i s (.refused r) := by rintro _ ⟨⟩

/-- A command whose own work keeps the settings, its event ended by the stations. -/
theorem event (h : s.SettingsKept i t) : Answer.SettingsKept i s (.next t.finishEvent) :=
  next (h.kept (kept_finishEvent t))

/-- A command whose own work keeps the settings, its event ended by the channels. -/
theorem busEvent (h : s.SettingsKept i t) : Answer.SettingsKept i s (.next t.settleBus) :=
  next (h.kept (kept_settleBus t))

/-- A command that goes through shared operations alone. -/
theorem eventOf (k : s.Kept t) : Answer.SettingsKept i s (.next t.finishEvent) := event (.of_kept k)

theorem busEventOf (k : s.Kept t) : Answer.SettingsKept i s (.next t.settleBus) := busEvent (.of_kept k)

end Answer.SettingsKept

section

variable (s : State)

/-! ### The card (R194, R205 to R207) -/

theorem settingsKept_execHardwareReset : (execHardwareReset s).SettingsKept .hardwareReset s :=
  .next ⟨rfl, nofun, nofun, nofun, nofun⟩

theorem settingsKept_loaded (cfg : CardConfig) (defaulted : Bool) (rom : Option (List Byte)) :
    s.SettingsKept (.configRomLoadEnd rom) (s.loaded cfg defaulted) :=
  ⟨rfl, nofun, fun _ => ⟨rfl, rfl, rfl, rfl, rfl⟩, fun _ => sameRegs_of_same rfl rfl, fun _ _ => id⟩

theorem settingsKept_execConfigRomLoadEnd (rom : Option (List Byte)) :
    (execConfigRomLoadEnd rom s).SettingsKept (.configRomLoadEnd rom) s := by
  unfold execConfigRomLoadEnd
  split
  · exact .refused _
  split
  · exact .same
  split
  · exact .next (settingsKept_loaded ..)
  · exact .next ((settingsKept_loaded ..).kept (kept_raise ..))

theorem settingsKept_execEngineReset (w : Word) : (execEngineReset w s).SettingsKept (.engineReset w) s := by
  by_cases h : ctlReset w = true ∧ s.loading = false
  · obtain ⟨bit, loaded⟩ := h
    obtain ⟨leaves, -⟩ := engineResetLeaves
    obtain ⟨t, answer, -, -, -, -, -, -, -, chan, -, card, engine, -, pending, -⟩ := leaves s w bit loaded
    rw [show execEngineReset w s = .next t from answer]
    exact .next ⟨pending, fun _ => card, fun _ => engine, fun _ r => by rw [chan]; exact ⟨rfl, rfl⟩, nofun⟩
  · rw [execEngineReset, if_neg h]
    exact .same

/-! ### The register window (R83, R86, R87, R95 to R98, R102, R193 to R204) -/

theorem settingsKept_execRingStart (c : Chan) (w : Word) :
    (execRingStart c w s).SettingsKept (.ringStart c w) s := by
  unfold execRingStart
  split
  · exact .next (.of_kept (kept_startRing s c))
  · exact .same

theorem settingsKept_execRingStop (c : Chan) (w : Word) :
    (execRingStop c w s).SettingsKept (.ringStop c w) s := by
  unfold execRingStop
  split
  · exact .next (.of_kept (kept_stopRing s c))
  · exact .same

theorem settingsKept_execSetAutoPollInterval (w : Word) :
    (execSetAutoPollInterval w s).SettingsKept (.setAutoPollInterval w) s := by
  have interval : s.SettingsKept (.setAutoPollInterval w) { s with autoPoll := ctlAutoPoll w } :=
    ⟨rfl, fun _ => .refl s, nofun, fun _ => sameRegs_of_same rfl rfl, fun _ _ => id⟩
  unfold execSetAutoPollInterval
  split
  · exact .next (interval.kept (kept_foldl _ (fun s c => kept_updChan s c _
      ⟨rfl, rfl, rfl, fun _ => rfl, fun _ => rfl, fun _ h => h⟩) _ _))
  · exact .same

theorem settingsKept_execSetArbiterMode (w : Word) :
    (execSetArbiterMode w s).SettingsKept (.setArbiterMode w) s := by
  unfold execSetArbiterMode
  split
  · exact .next ⟨rfl, fun _ => .refl s, nofun, fun _ => sameRegs_of_same rfl rfl, fun _ _ => id⟩
  · exact .same

theorem settingsKept_execRingBaseWrite (c : Chan) (v : Word) :
    (execRingBaseWrite c v s).SettingsKept (.ringBaseWrite c v) s := by
  unfold execRingBaseWrite
  split
  · exact .next (.updChan c nofun)
  · exact .same

theorem settingsKept_execRingSizeWrite (c : Chan) (v : Word) :
    (execRingSizeWrite c v s).SettingsKept (.ringSizeWrite c v) s := by
  unfold execRingSizeWrite
  split
  · exact .next (.updChan c nofun)
  · exact .same

theorem settingsKept_execRingFetchIndexWrite (c : Chan) (v : Word) :
    (execRingFetchIndexWrite c v s).SettingsKept (.ringFetchIndexWrite c v) s := by
  unfold execRingFetchIndexWrite
  split
  · exact .next (.updChan c)
  · exact .same

theorem settingsKept_execEventStatusClear (v : Word) :
    (execEventStatusClear v s).SettingsKept (.eventStatusClear v) s :=
  .next ⟨rfl, fun _ => .refl s, fun _ => .refl s, fun _ => sameRegs_of_same rfl rfl, nofun⟩

/-- A command that sets the engine's settings, or reads a register whose data the model keeps, alone. -/
theorem settingsKept_engine {i : Instr} (sets : i.setsEngine = true) (enable : BitVec 29)
    (inspect : InspectAddress) (data : Word) :
    s.SettingsKept i { s with eventEnable := enable, inspect := inspect, readData := data } :=
  ⟨rfl, fun _ => .refl s, fun e => (nomatch sets.symm.trans e), fun _ => sameRegs_of_same rfl rfl,
    fun _ _ => id⟩

theorem settingsKept_execInspectionDataRead (lanes : BitVec 4) :
    (execInspectionDataRead lanes s).SettingsKept (.inspectionDataRead lanes) s := by
  unfold execInspectionDataRead
  split
  · exact .refused _
  · exact .next (settingsKept_engine s rfl s.eventEnable _ _)

theorem settingsKept_execStatusARead (n : StationNo) (lanes : BitVec 4) :
    (execStatusARead n lanes s).SettingsKept (.statusARead n lanes) s := by
  unfold execStatusARead
  split
  · exact .refused _
  · exact .next ((settingsKept_engine s rfl s.eventEnable s.inspect _).trans (.updStation n))

theorem settingsKept_execRegisterWriteIgnored (o : BitVec 8) (lanes : BitVec 4) (v : Word) :
    (execRegisterWriteIgnored o lanes v s).SettingsKept (.registerWriteIgnored o lanes v) s := by
  unfold execRegisterWriteIgnored
  split
  · exact .refused _
  · exact .same

/-! ### Station commands (R151 to R156) -/

/-- A station command records its code and its result, and its own rule is a shared operation's work (R151). -/
theorem settingsKept_stationCommand (n : StationNo) (code : BitVec 4) {act : State → CommandOutcome} {i : Instr}
    (k : s.Kept (act s).2) : Answer.SettingsKept i s (.next (s.stationCommand n code act)) := by
  have recorded (x : State) (r : CommandResult) : x.SettingsKept i (x.recordCommand n code r) := .updStation n
  refine .next ?_
  unfold stationCommand
  dsimp only
  split
  · exact recorded ..
  split
  · exact recorded ..
  · exact (State.SettingsKept.of_kept k).trans (recorded ..)

theorem settingsKept_execStationCommandBadCode (n : StationNo) (v : Word) :
    (execStationCommandBadCode n v s).SettingsKept (.stationCommandBadCode n v) s := by
  unfold execStationCommandBadCode
  split
  · exact .refused _
  · exact settingsKept_stationCommand s n _ (.refl s)

/-! ### Commands of RCH-C (R14 to R26, R132, R159, R174, R183) -/

theorem settingsKept_execDefine : (execDefine s).SettingsKept .define s := by
  unfold execDefine
  split
  · exact .same
  · exact .busEventOf (kept_takeDefine ..)

theorem settingsKept_execAmend : (execAmend s).SettingsKept .amend s := by
  unfold execAmend
  split
  · exact .same
  · exact .busEventOf (kept_takeAmend ..)

theorem settingsKept_execRetire : (execRetire s).SettingsKept .retire s := by
  unfold execRetire
  split
  · exact .same
  · exact .busEventOf (kept_takeRetire ..)

theorem settingsKept_execQuery : (execQuery s).SettingsKept .query s := by
  unfold execQuery
  split
  · exact .same
  · exact .busEventOf (kept_takeQuery ..)

theorem settingsKept_giveProfile (n : StationNo) (rd : Reader) (i : Instr) :
    s.SettingsKept i (s.giveProfile n rd) := by
  have profiled : s.SettingsKept i (s.updStation n fun t => t.newProfile (profileOf rd)) := .updStation n
  unfold giveProfile takeProfile
  dsimp only
  split
  · exact .of_kept (kept_outcome ..)
  split
  · exact profiled.kept ((kept_leaveOffline ..).trans (kept_outcome ..))
  · exact profiled.kept (kept_outcome ..)

theorem settingsKept_execSetProfile (bytes : List Byte) :
    (execSetProfile bytes s).SettingsKept (.setProfile bytes) s := by
  unfold execSetProfile
  split
  · exact .refused _
  split
  · exact .same
  split
  · exact .same
  · exact .event ((State.SettingsKept.of_kept (kept_endTransfer ..)).trans (settingsKept_giveProfile ..))

theorem settingsKept_takeLimits (n : StationNo) (d : List Byte) (i : Instr) :
    s.SettingsKept i (s.takeLimits n d) := by
  unfold takeLimits
  split
  · exact .of_kept (kept_outcome ..)
  · exact (State.SettingsKept.updStation n).kept ((kept_outcome ..).trans (kept_releasePaused ..))

theorem settingsKept_execSetLimits : (execSetLimits s).SettingsKept .setLimits s := by
  unfold execSetLimits
  split
  · exact .same
  split
  · exact .same
  · exact .event (settingsKept_takeLimits ..)

theorem settingsKept_execCalibrate : (execCalibrate s).SettingsKept .calibrate s := by
  unfold execCalibrate
  split
  · exact .same
  split
  · exact .same
  · exact .eventOf (kept_takeCalibrate ..)

theorem settingsKept_execDotcheck : (execDotcheck s).SettingsKept .dotcheck s := by
  unfold execDotcheck
  split
  · exact .same
  split
  · exact .same
  · exact .eventOf (kept_takeDotcheck ..)

/-! ### The ends of transfers (R85 to R88, R92 to R94, R99, R100, R111) -/

theorem settingsKept_takeDescriptor (c : Chan) (d : List Byte) (i : Instr) :
    s.SettingsKept i (s.takeDescriptor c d) := by
  have taken (c : Chan) (w : Work) : s.SettingsKept i (s.takeHand c d w) := .updChan c
  unfold takeDescriptor
  split
  · exact taken ..
  · dsimp only
    split
    · exact (taken ..).kept (kept_acceptLabel ..)
    · exact taken ..

theorem settingsKept_fetchEnded (c : Chan) (d : List Byte) (i : Instr) :
    s.SettingsKept i (s.fetchEnded c d) := by
  unfold fetchEnded
  split
  · exact .of_kept (kept_stopChannel ..)
  split
  · exact settingsKept_takeDescriptor ..
  · exact .of_kept (kept_foundHost s c)

theorem settingsKept_execDescriptorFetchEnd (c : Chan) (bytes : List Byte) :
    (execDescriptorFetchEnd c bytes s).SettingsKept (.descriptorFetchEnd c bytes) s := by
  unfold execDescriptorFetchEnd
  split
  · exact .refused _
  split
  · exact .event ((State.SettingsKept.of_kept (kept_endTransfer s c)).trans (settingsKept_fetchEnded ..))
  · exact .same

theorem settingsKept_execBodyBurstEnd (bytes : List Byte) :
    (execBodyBurstEnd bytes s).SettingsKept (.bodyBurstEnd bytes) s := by
  have ended := kept_endTransfer s .control
  unfold execBodyBurstEnd
  split
  · exact .refused _
  split
  · exact .same
  split
  · exact .same
  split
  · exact .same
  split
  · exact .refused _
  split
  · exact .eventOf (ended.trans (kept_abortLoad ..))
  split
  · exact .fault _
  · exact .eventOf (ended.trans (kept_burstEnded ..))

theorem settingsKept_execLabelDataTransferEnd (n : StationNo) (bytes : List Byte) :
    (execLabelDataTransferEnd n bytes s).SettingsKept (.labelDataTransferEnd n bytes) s := by
  unfold execLabelDataTransferEnd
  split
  · exact .refused _
  split
  · exact .same
  split
  · split
    · exact .refused _
    split
    · exact .fault _
    · exact .eventOf ((kept_endTransfer ..).trans (kept_dataTransferEnded ..))
  · exact .same
  · exact .same

/-- A pending completion that is written or has failed is dropped, its channel's registers staying. -/
theorem settingsKept_dropPending (c : Chan) (index : Nat) (i : Instr) :
    s.SettingsKept i (s.dropPending c index) := .updChan c

theorem settingsKept_execCompletionWriteEnd (c : Chan) :
    (execCompletionWriteEnd c s).SettingsKept (.completionWriteEnd c) s := by
  unfold execCompletionWriteEnd
  split
  · split
    · exact .eventOf (kept_handWritten ..)
    · exact .same
  split
  · split
    · exact .event (((State.SettingsKept.of_kept (kept_delivered s c _ _)).trans
        (settingsKept_dropPending ..)).kept (kept_retestFull ..))
    · exact .same
  · exact .same

theorem settingsKept_transferFailed (c : Chan) (x : Xfer) (i : Instr) :
    s.SettingsKept i (s.transferFailed c x) := by
  have failed {undo : State → List Byte → State} (k : ∀ d, s.Kept (undo s d)) :
      s.SettingsKept i (s.failWork c undo) := .of_kept (kept_failWork s c k)
  cases x with
  | fetch => exact .of_kept (kept_stopFailed s c)
  | burst => exact failed (undo := fun s d => s.dropLoading (ctlHandle d)) fun _ => kept_dropLoading ..
  | profile => exact failed (undo := fun s _ => s) fun _ => .refl s
  | data => exact failed (undo := fun s _ => s.discardAt c) fun _ => kept_discardAt s c
  | handCompletion => exact (State.SettingsKept.updChan c).kept (kept_stopFailed _ c)
  | pendingCompletion =>
    unfold transferFailed
    dsimp only
    split
    · exact (settingsKept_dropPending ..).kept (kept_stopAfterHand _ c)
    · exact .of_kept (kept_stopFailed s c)

theorem settingsKept_execTransferBusError (c : Chan) :
    (execTransferBusError c s).SettingsKept (.transferBusError c) s := by
  unfold execTransferBusError
  split
  · split
    · exact .event (((State.SettingsKept.of_kept (kept_endTransfer s c)).trans
        (settingsKept_transferFailed ..)).kept (kept_raiseRingError ..))
    · exact .same
  · exact .same

theorem settingsKept_execAutoPollExpiry (c : Chan) :
    (execAutoPollExpiry c s).SettingsKept (.autoPollExpiry c) s := by
  unfold execAutoPollExpiry
  split
  · split
    · exact .busEvent ((State.SettingsKept.reachTime _).trans (.updChan c))
    · exact .same
  · exact .same
  · exact .same

/-! ### Composition and finish (R117 to R126) -/

theorem settingsKept_execComposerFieldStep :
    (execComposerFieldStep s).SettingsKept .composerFieldStep s := by
  unfold execComposerFieldStep
  split
  · exact .same
  split
  · exact .same
  split
  · exact .eventOf (kept_endMarked ..)
  split
  · exact .eventOf (kept_rejectField ..)
  split
  · exact .fault _
  · exact .eventOf (kept_placeField ..)

theorem settingsKept_execComposerComplete :
    (execComposerComplete s).SettingsKept .composerComplete s := by
  unfold execComposerComplete
  split
  · exact .same
  split
  · exact .same
  split
  · exact .eventOf (kept_endMarked ..)
  split
  · exact .fault _
  · exact .eventOf (kept_completeLabel ..)

variable (n : StationNo)

theorem settingsKept_execMarkedHeadFinish :
    (execMarkedHeadFinish n s).SettingsKept (.markedHeadFinish n) s := by
  unfold execMarkedHeadFinish
  split
  · exact .eventOf (kept_finishHead ..)
  · exact .same

/-! ### Triggers and their expiries (R134 to R138) -/

theorem settingsKept_joinTrigger (i : Instr) : s.SettingsKept i (s.joinTrigger n) := by
  unfold joinTrigger
  dsimp only
  split
  · exact .of_kept (kept_overrun s n)
  · exact .updStation n

theorem settingsKept_arrive (i : Instr) : s.SettingsKept i (s.arrive n) := by
  unfold arrive
  cases (s.station n).state
  case idle | printing | presenting | ejecting | checking | calibrating | waking =>
    exact settingsKept_joinTrigger ..
  case parked =>
    dsimp only
    split
    · exact .of_kept (kept_overrun s n)
    · exact (settingsKept_joinTrigger ..).kept (kept_wakeUp ..)
  case held | fault => exact .of_kept (kept_skipOne s n)
  case offline => exact .refl s

theorem settingsKept_execTriggerLevelChange (high : Bool) :
    (execTriggerLevelChange n high s).SettingsKept (.triggerLevelChange n high) s := by
  have level : s.SettingsKept (.triggerLevelChange n high)
      (s.updStation n fun t => { t with triggerHigh := high }) := .updStation n
  unfold execTriggerLevelChange
  split
  · exact .same
  unfold triggerChanged
  dsimp only
  split
  · exact .next level
  split
  · split
    · split
      · exact .event (level.trans (settingsKept_arrive ..))
      · exact .next (level.trans (.updStation n))
    · exact .next level
  · exact .next (level.trans (.updStation n))

theorem settingsKept_execTriggerArrival :
    (execTriggerArrival n s).SettingsKept (.triggerArrival n) s := by
  unfold execTriggerArrival
  split
  · exact .event (((State.SettingsKept.reachTime _).trans (.updStation n)).trans (settingsKept_arrive ..))
  · exact .same
  · exact .same

theorem settingsKept_execLastStartExpiry (k : Nat) :
    (execLastStartExpiry n k s).SettingsKept (.lastStartExpiry n k) s := by
  unfold execLastStartExpiry
  split
  · exact .refused _
  split
  · exact .event ((State.SettingsKept.reachTime _).kept (kept_expireEntry ..))
  · exact .same
  · exact .same

theorem settingsKept_execDeadlineExpiry (k : Nat) :
    (execDeadlineExpiry n k s).SettingsKept (.deadlineExpiry n k) s := by
  unfold execDeadlineExpiry
  split
  · exact .refused _
  split
  · exact .event ((State.SettingsKept.reachTime _).kept ((kept_dropTrigger ..).trans (kept_raise ..)))
  · exact .same
  · exact .same

/-! ### Lines, strobes and edges (R144, R145, R155, R160, R164, R169) -/

theorem settingsKept_execLinePeriodExpiry :
    (execLinePeriodExpiry n s).SettingsKept (.linePeriodExpiry n) s := by
  unfold execLinePeriodExpiry
  split
  · split
    · exact .same
    · exact .eventOf (kept_nextLine ..)
  · exact .same

theorem settingsKept_calibrationMeasured (pitch : Nat) (i : Instr) :
    s.SettingsKept i (s.calibrationMeasured n pitch) := by
  unfold calibrationMeasured
  split
  · exact ((State.SettingsKept.of_kept (kept_report ..)).trans (.updStation n)).kept
      ((kept_setStock ..).trans (kept_enterReturn ..))
  · exact .of_kept (kept_calibrationFails s n)

theorem settingsKept_judgeEdge (f : Feed) (i : Instr) : s.SettingsKept i (s.judgeEdge n f) := by
  unfold judgeEdge
  cases f.kind with
  | calibrate lines edges =>
    dsimp only [calibrationEdge]
    split
    · exact .updStation n
    · exact settingsKept_calibrationMeasured ..
  | leading => exact .of_kept (kept_edge s n .leading)
  | printed => exact .of_kept (kept_edge s n .printed)
  | peel j => exact .of_kept (kept_edge s n (.peel j))
  | eject => exact .of_kept (kept_edge s n .eject)

theorem settingsKept_execGapEdge : (execGapEdge n s).SettingsKept (.gapEdge n) s := by
  unfold execGapEdge
  split
  · split
    · exact .same
    · exact .event (settingsKept_judgeEdge ..)
  · exact .same

/-! ### Stock, applicator, head and timers (R146, R148 to R150, R157, R158) -/

theorem settingsKept_execMediaPresentFall (active : Bool) :
    (execMediaPresentFall n active s).SettingsKept (.mediaPresentFall n active) s := by
  have fell : s.SettingsKept (.mediaPresentFall n active)
      (s.updStation n fun t => { t with mediaPresent := false, mediaLatch := false }) := .updStation n
  unfold execMediaPresentFall mediaFell
  dsimp only
  split
  · exact .next (.updStation n)
  split
  · split
    · exact .event (fell.kept (kept_mediaFault ..))
    · exact .next fell
  · exact .same

theorem settingsKept_execApplied : (execApplied n s).SettingsKept (.applied n) s := by
  unfold execApplied
  split
  · exact .eventOf ((kept_finishHead ..).trans (kept_enterRest ..))
  · exact .same

theorem settingsKept_execApplyTimeout : (execApplyTimeout n s).SettingsKept (.applyTimeout n) s := by
  unfold execApplyTimeout
  split
  · split
    · exact .event ((State.SettingsKept.reachTime _).kept
        ((kept_finishHead ..).trans (kept_enterFault ..)))
    · exact .same
  · exact .same
  · exact .same

theorem settingsKept_execHeadOpenActive :
    (execHeadOpenActive n s).SettingsKept (.headOpenActive n) s := by
  have opened : s.SettingsKept (.headOpenActive n) (s.updStation n fun t => { t with headOpen := true }) :=
    .updStation n
  unfold execHeadOpenActive headLifted
  dsimp only
  split
  · exact .same
  split
  · exact .next opened
  · exact .event (opened.kept (kept_headOpened ..))

theorem settingsKept_execHeadOpenInactive :
    (execHeadOpenInactive n s).SettingsKept (.headOpenInactive n) s := by
  have closed : s.SettingsKept (.headOpenInactive n) (s.updStation n fun t => { t with headOpen := false }) :=
    .updStation n
  unfold execHeadOpenInactive headClosed
  dsimp only
  split
  · split
    · exact .event (closed.kept (kept_rest _ ..))
    · exact .next closed
  · exact .same

theorem settingsKept_execParkTimerExpiry :
    (execParkTimerExpiry n s).SettingsKept (.parkTimerExpiry n) s := by
  unfold execParkTimerExpiry
  split
  · split
    · exact .event ((State.SettingsKept.reachTime _).kept (kept_enter ..))
    · exact .same
  · exact .same
  · exact .same

theorem settingsKept_execWakeSettleExpiry :
    (execWakeSettleExpiry n s).SettingsKept (.wakeSettleExpiry n) s := by
  unfold execWakeSettleExpiry
  split
  · split
    · exact .event ((State.SettingsKept.reachTime _).kept (kept_endWake ..))
    · exact .same
  · exact .same

/-! ### Dot check and thermal sample (R175, R176, R184, R187, R188) -/

theorem settingsKept_execDcuSettleExpiry : (execDcuSettleExpiry s).SettingsKept .dcuSettleExpiry s := by
  unfold execDcuSettleExpiry
  split
  · exact .same
  split
  · exact .same
  split
  · exact .next ((State.SettingsKept.reachTime _).kept (kept_rest _ ..))
  · exact .same

theorem settingsKept_completeCheck (c : Check) (i : Instr) : s.SettingsKept i (s.completeCheck c) := by
  have recorded : s.SettingsKept i ((s.updStation c.station fun t =>
      { t with map := c.map, summary := ⟨c.count, c.dots⟩ }).raise (.dotcheckDone c.station)) :=
    (State.SettingsKept.updStation c.station).kept (kept_raise ..)
  have ended (x : State) : x.Kept { x.enterReturn c.station with check := none } :=
    (kept_enterReturn ..).trans (kept_rest _ ..)
  unfold completeCheck
  dsimp only
  split
  · exact recorded.kept ((kept_report ..).trans (ended _))
  · exact recorded.kept (ended _)

theorem settingsKept_execElementMeasurementEnd (reading : Byte) :
    (execElementMeasurementEnd reading s).SettingsKept (.elementMeasurementEnd reading) s := by
  unfold execElementMeasurementEnd measured
  split
  · exact .same
  split
  · split
    · exact .event (settingsKept_completeCheck ..)
    · exact .next (.of_kept (kept_rest s ..))
  · exact .same

theorem kept_reportSample (l : Limit) : s.Kept (s.reportSample n l) := by
  unfold reportSample
  split
  · exact kept_raise ..
  · exact .refl s

theorem settingsKept_execThermalSample (degrees : Int) :
    (execThermalSample n degrees s).SettingsKept (.thermalSample n degrees) s := by
  unfold execThermalSample
  dsimp only
  split
  · split
    · exact .event (((State.SettingsKept.reachTime _).trans (.updStation n)).kept
        ((kept_reportSample ..).trans (kept_releasePaused ..)))
    · exact .next ((State.SettingsKept.reachTime _).trans (.updStation n))
  · exact .same
  · exact .same

end

/-! ### Every command -/

theorem settingsKept_exec (i : Instr) (s : State) : Answer.SettingsKept i s (exec i s) := by
  cases i with
  | hardwareReset => exact settingsKept_execHardwareReset s
  | configRomLoadEnd rom => exact settingsKept_execConfigRomLoadEnd s rom
  | engineReset w => exact settingsKept_execEngineReset s w
  | ringStart c w => exact settingsKept_execRingStart s c w
  | ringStop c w => exact settingsKept_execRingStop s c w
  | setAutoPollInterval w => exact settingsKept_execSetAutoPollInterval s w
  | setArbiterMode w => exact settingsKept_execSetArbiterMode s w
  | pollDemand w => exact .busEventOf (kept_pollNamed s w)
  | ringBaseWrite c v => exact settingsKept_execRingBaseWrite s c v
  | ringSizeWrite c v => exact settingsKept_execRingSizeWrite s c v
  | ringFetchIndexWrite c v => exact settingsKept_execRingFetchIndexWrite s c v
  | eventStatusClear v => exact settingsKept_execEventStatusClear s v
  | eventEnableWrite v => exact .next (settingsKept_engine s rfl _ s.inspect s.readData)
  | inspectionAddressWrite v => exact .next (settingsKept_engine s rfl s.eventEnable _ s.readData)
  | inspectionDataRead lanes => exact settingsKept_execInspectionDataRead s lanes
  | statusARead n lanes => exact settingsKept_execStatusARead s n lanes
  | registerWriteIgnored o lanes v => exact settingsKept_execRegisterWriteIgnored s o lanes v
  | hold n => exact settingsKept_stationCommand s n 1 (kept_hold s n)
  | resume n => exact settingsKept_stationCommand s n 2 (kept_resume s n)
  | flush n => exact settingsKept_stationCommand s n 3 (kept_flush s n)
  | wake n => exact settingsKept_stationCommand s n 4 (kept_wake s n)
  | park n => exact settingsKept_stationCommand s n 5 (kept_park s n)
  | stationCommandBadCode n v => exact settingsKept_execStationCommandBadCode s n v
  | descriptorFetchEnd c bytes => exact settingsKept_execDescriptorFetchEnd s c bytes
  | define => exact settingsKept_execDefine s
  | amend => exact settingsKept_execAmend s
  | retire => exact settingsKept_execRetire s
  | query => exact settingsKept_execQuery s
  | setProfile bytes => exact settingsKept_execSetProfile s bytes
  | setLimits => exact settingsKept_execSetLimits s
  | calibrate => exact settingsKept_execCalibrate s
  | dotcheck => exact settingsKept_execDotcheck s
  | bodyBurstEnd bytes => exact settingsKept_execBodyBurstEnd s bytes
  | labelDataTransferEnd n bytes => exact settingsKept_execLabelDataTransferEnd s n bytes
  | completionWriteEnd c => exact settingsKept_execCompletionWriteEnd s c
  | transferBusError c => exact settingsKept_execTransferBusError s c
  | autoPollExpiry c => exact settingsKept_execAutoPollExpiry s c
  | composerFieldStep => exact settingsKept_execComposerFieldStep s
  | composerComplete => exact settingsKept_execComposerComplete s
  | markedHeadFinish n => exact settingsKept_execMarkedHeadFinish s n
  | triggerLevelChange n high => exact settingsKept_execTriggerLevelChange s n high
  | triggerArrival n => exact settingsKept_execTriggerArrival s n
  | lastStartExpiry n k => exact settingsKept_execLastStartExpiry s n k
  | deadlineExpiry n k => exact settingsKept_execDeadlineExpiry s n k
  | linePeriodExpiry n => exact settingsKept_execLinePeriodExpiry s n
  | strobeSubphaseEnd n => exact .next (.updStation n)
  | gapEdge n => exact settingsKept_execGapEdge s n
  | mediaPresentFall n active => exact settingsKept_execMediaPresentFall s n active
  | applied n => exact settingsKept_execApplied s n
  | applyTimeout n => exact settingsKept_execApplyTimeout s n
  | headOpenActive n => exact settingsKept_execHeadOpenActive s n
  | headOpenInactive n => exact settingsKept_execHeadOpenInactive s n
  | parkTimerExpiry n => exact settingsKept_execParkTimerExpiry s n
  | wakeSettleExpiry n => exact settingsKept_execWakeSettleExpiry s n
  | dcuSettleExpiry => exact settingsKept_execDcuSettleExpiry s
  | elementMeasurementEnd reading => exact settingsKept_execElementMeasurementEnd s reading
  | thermalSample n degrees => exact settingsKept_execThermalSample s n degrees

/-- Settles O7: command by command, the shared operations and the end of an event keep all of this, and a command's
own update names what it sets. -/
theorem settingsAndEventsKept : Obligations.SettingsAndEventsKept := by
  intro c s t h
  have kept := settingsKept_exec c s t h
  exact ⟨kept.pending, kept.card, kept.engine, kept.rings, kept.events⟩

end Sys2Proof.Machine
end

section
/-! The machine as a whole: the step, the state after a hardware reset, and the end of the configuration ROM's load
(R29, R31, R82, R130, R197, R205 to R207). -/

namespace Sys2Proof.Machine

open State

/-! ### The step (R197) -/

theorem step_of_pending {s : State} {c : Instr} {rest : List Instr} (waiting : s.pending = c :: rest) :
    step s = exec c { s with pending := rest } := by rw [step, waiting]

theorem step_of_idle {s : State} (idle : s.pending = []) : step s = .next s.tick := by rw [step, idle]

/-- The millisecond clock passes from FFFFFFFFh to 0 (R197). -/
theorem toNat_tick (s : State) :
    s.tick.clock.toNat = if s.clock.toNat = 0xFFFFFFFF then 0 else s.clock.toNat + 1 := by
  rw [tick_clock, BitVec.toNat_add]
  have bound := s.clock.isLt
  split <;> simp <;> omega

/-- Settles O1: the two branches of a step, and the tick modulo 2^32. -/
theorem stepRunsFrontCommand : Obligations.StepRunsFrontCommand :=
  ⟨fun _ _ _ waiting => step_of_pending waiting, fun s idle => ⟨s.tick, step_of_idle idle, rfl, toNat_tick s⟩⟩

/-! ### Hardware reset (R31, R82, R130, R206) -/

/-- Right after reset nothing is left to do: every station is OFFLINE and every channel STOPPED. -/
theorem atRest_reset : State.reset.atRest = true := by
  refine atRest_of_blank (fun n => ?_) fun c => ?_
  · cases n <;> exact ⟨rfl, rfl, rfl, rfl⟩
  · rcases c with _ | n
    · exact ⟨rfl, rfl, rfl, rfl⟩
    · cases n <;> exact ⟨rfl, rfl, rfl, rfl⟩

/-- Settles O2: the items of the reset state are named one by one, and rest holds where nothing is at work. -/
theorem resetLeaves : Obligations.ResetLeaves := by
  obtain ⟨quiet, busQuiet⟩ := Bool.and_eq_true_iff.mp atRest_reset
  refine ⟨fun s => ⟨_, rfl, rfl, fun n => ?_⟩, rfl, by decide, by decide, by decide, by decide, busQuiet, quiet,
    rfl, rfl, rfl, rfl⟩
  cases n <;> rfl

/-! ### The configuration ROM (R205) -/

theorem dotCountOk_iff (d : Nat) : dotCountOk d = true ↔ d = 0 ∨ (64 ≤ d ∧ d ≤ 1024 ∧ d % 8 = 0) := by
  simp [dotCountOk, within, and_assoc]

theorem sizeBlocks?_eq_none {code : Nat} (unknown : 2 < code) : sizeBlocks? code = none := by
  unfold sizeBlocks?
  split
  case h_4 => rfl
  all_goals omega

/-- The dot count a ROM gives a station. -/
def romDots (rom : List Byte) (n : StationNo) : Nat := le16 (listReader rom) (2 + 2 * n.toNat)

theorem romDots_eq (rom : List Byte) (n : StationNo) : romDots rom n =
    (rom.getD (2 + 2 * n.toNat) 0).toNat + 256 * (rom.getD (3 + 2 * n.toNat) 0).toNat := by
  cases n <;> rfl

/-- The bytes of a list at its first places. -/
theorem map_listReader_range {rom : List Byte} {k : Nat} (enough : k ≤ rom.length) :
    (List.range k).map (listReader rom) = (rom.take k).map fun b => b.toNat := by
  refine List.ext_getElem (by simpa using enough) fun i inside _ => ?_
  have here : i < rom.length := by simp at inside; omega
  simp [listReader, here]

/-- A content that passes the three checks of R207 is taken as read. -/
theorem romConfig?_of_sound {rom : List Byte} {total : Nat} (length : rom.length = 16)
    (size : sizeBlocks? (rom.getD 0 0).toNat = some total)
    (sum : ((rom.take 14).map fun b => b.toNat).sum % 65536
      = (rom.getD 14 0).toNat + 256 * (rom.getD 15 0).toNat)
    (dots : ∀ n, dotCountOk (romDots rom n) = true) :
    romConfig? rom = some {
      total := total, tag := BitVec.ofNat 32 (le32 (listReader rom) 10)
      dots := ⟨romDots rom .s0, romDots rom .s1, romDots rom .s2, romDots rom .s3⟩ } := by
  simp only [romConfig?, show sizeBlocks? (listReader rom 0) = some total from size]
  rw [map_listReader_range (by omega)]
  exact if_pos ⟨sum, dots .s0, dots .s1, dots .s2, dots .s3⟩

theorem romConfig?_of_unsound {rom : List Byte} (length : rom.length = 16)
    (fails : (((rom.take 14).map fun b => b.toNat).sum % 65536
        = (rom.getD 14 0).toNat + 256 * (rom.getD 15 0).toNat) →
      ∃ n, dotCountOk (romDots rom n) = false) : romConfig? rom = none := by
  unfold romConfig?
  dsimp only
  rw [map_listReader_range (by omega)]
  split
  · rfl
  · refine if_neg fun ⟨sum, d0, d1, d2, d3⟩ => ?_
    obtain ⟨n, bad⟩ := fails sum
    have sound : dotCountOk (romDots rom n) = true := by cases n <;> assumption
    exact Bool.false_ne_true (bad.symm.trans sound)

theorem romConfig?_of_unknownSize {rom : List Byte} (unknown : 2 < (rom.getD 0 0).toNat) :
    romConfig? rom = none := by
  simp only [romConfig?, show sizeBlocks? (listReader rom 0) = none from sizeBlocks?_eq_none unknown]

/-! ### The end of the load (R29, R31, R206, R207) -/

theorem station_loaded (s : State) (cfg : CardConfig) (defaulted : Bool) (n : StationNo) :
    (s.loaded cfg defaulted).station n = { s.station n with dotCount := cfg.dots.get n } := by
  cases n <;> rfl

theorem configRomLoadEnd_wellFormed {rom : Option (List Byte)} (length : ∀ b, rom = some b → b.length = 16) :
    (Instr.configRomLoadEnd rom).wellFormed = true := by
  cases rom with
  | none => rfl
  | some b => exact beq_iff_eq.mpr (length b rfl)

theorem execConfigRomLoadEnd_of_taken {s : State} {rom : Option (List Byte)} {cfg : CardConfig}
    (loading : s.loading = true) (length : ∀ b, rom = some b → b.length = 16)
    (taken : configOf rom = some cfg) : execConfigRomLoadEnd rom s = .next (s.loaded cfg false) := by
  simp [execConfigRomLoadEnd, configRomLoadEnd_wellFormed length, loading, taken]

theorem execConfigRomLoadEnd_of_replaced {s : State} {rom : Option (List Byte)}
    (loading : s.loading = true) (length : ∀ b, rom = some b → b.length = 16)
    (replaced : configOf rom = none) :
    execConfigRomLoadEnd rom s = .next ((s.loaded CardConfig.defaults true).raise .configDefaulted) := by
  simp [execConfigRomLoadEnd, configRomLoadEnd_wellFormed length, loading, replaced]

/-- Settles O11: a content is taken where its size code is known and the other two checks pass, and replaced where one
of the three fails or no ROM answers. -/
theorem romLoadEnds : Obligations.RomLoadEnds := by
  refine ⟨fun s rom total dots loading length size given sound sum => ?_,
    fun s rom loading length fails => ?_, dotCountOk_iff⟩
  · have same : romDots rom = dots := funext fun n => (romDots_eq rom n).trans (given n).symm
    have code : sizeBlocks? (rom.getD 0 0).toNat = some total := by
      rcases size with ⟨e, rfl⟩ | ⟨e, rfl⟩ | ⟨e, rfl⟩ <;> rw [e] <;> rfl
    have taken := romConfig?_of_sound length code sum fun n => by
      rw [same]
      exact (dotCountOk_iff _).mpr (sound n)
    rw [same] at taken
    refine ⟨_, execConfigRomLoadEnd_of_taken loading (by rintro _ ⟨⟩; exact length) taken, rfl, fun n => ?_, ?_⟩
    · rw [station_loaded]
      cases n <;> rfl
    · refine BitVec.eq_of_toNat_eq ?_
      show (BitVec.ofNat 32 (le32 (listReader rom) 10)).toNat = _
      rw [← le32_listReader]
      exact Nat.mod_eq_of_lt (BitVec.isLt _)
  · have replaced : configOf rom = none := by
      cases rom with
      | none => rfl
      | some b =>
        rcases fails b rfl with unknown | ⟨n, bad⟩ | mismatch
        · exact romConfig?_of_unknownSize unknown
        · exact romConfig?_of_unsound (length b rfl) fun _ => ⟨n, by rw [romDots_eq]; exact bad⟩
        · exact romConfig?_of_unsound (length b rfl) fun sum => absurd sum mismatch
    refine ⟨_, execConfigRomLoadEnd_of_replaced loading length replaced,
      by simp only [State.raise, State.loaded, CardConfig.defaults], fun n => ?_, fun e => ?_⟩
    · rw [station_raise, station_loaded]
      cases n <;> rfl
    · rw [raised_raise, Bool.or_comm]
      rfl

end Sys2Proof.Machine
end

section
/-! The event causes and the inspection window as the host reads and writes them (R193, R200 to R204). -/

namespace Sys2Proof.Machine

open State

/-! ### Event causes and the interrupt line (R200 to R202) -/

theorem getLsbD_cleared (s : State) (v : Word) {i : Nat} (bit : i < 29) :
    (s.eventStatus &&& ~~~(v.setWidth 29)).getLsbD i = (s.eventStatus.getLsbD i && !v.getLsbD i) := by
  simp [bit]

/-- A word is not 0 where some bit of it is set. -/
theorem bne_zero_iff_getLsbD {w : Nat} {v : BitVec w} : (v != 0) = true ↔ ∃ i, i < w ∧ v.getLsbD i = true := by
  rw [bne_iff_ne, ne_eq, ← not_iff_not, not_not, BitVec.eq_of_getLsbD_eq_iff]
  simp

theorem interruptLine_iff {s : State} : s.interruptLine = true ↔
    ∃ i : Nat, i < 29 ∧ s.eventStatus.getLsbD i = true ∧ s.eventEnable.getLsbD i = true := by
  simp only [interruptLine, bne_zero_iff_getLsbD, BitVec.getLsbD_and, Bool.and_eq_true]

/-- Settles O19: each cause has its own bit, which a raise sets and a 1 in the written word clears. -/
theorem eventCauses : Obligations.EventCauses := by
  refine ⟨fun s e f => raised_raise s e f, fun s e => ?_, fun s v => ⟨_, rfl, rfl, fun i bit => ?_⟩, fun _ => rfl,
    fun s v => ?_, fun _ => rfl, fun _ => interruptLine_iff⟩
  · rcases e with _ | _ | ⟨_ | ⟨_ | _ | _ | _⟩⟩ <;> rfl
  · exact getLsbD_cleared s v bit
  · rw [← BitVec.setWidth_eq_extractLsb' (by decide)]
    rfl

end Sys2Proof.Machine
end

section
/-! The inspection window: the address register and its increment, and the data at the address in record memory and in
the map area (R182, R193, R203, R204). -/

namespace Sys2Proof.Machine

open State

/-! ### The address (R203, R204) -/

theorem InspectAddress.word_reads (a : InspectAddress) :
    a.word.extractLsb' 0 8 = a.offset ∧ a.word.extractLsb' 8 13 = a.block ∧ a.word.getLsbD 24 = a.mapArea ∧
      a.word.extractLsb' 25 2 = a.mapStation ∧ a.word.getLsbD 28 = a.postIncrement ∧
      ∀ i, (i ∈ [21, 22, 23, 27] ∨ 28 < i) → a.word.getLsbD i = false := by
  have offset := a.offset.isLt
  have block := a.block.isLt
  have map := a.mapArea.toNat_lt
  have station := a.mapStation.isLt
  have increment := a.postIncrement.toNat_lt
  unfold word
  rw [flagAt_eq, flagAt_eq]
  refine ⟨BitVec.eq_of_toNat_eq ?_, BitVec.eq_of_toNat_eq ?_, getLsbD_ofNat_of_digit (by decide) (by omega),
    BitVec.eq_of_toNat_eq ?_, getLsbD_ofNat_of_digit (by decide) (by omega), fun i place => ?_⟩
  · rw [toNat_extractLsb'_ofNat _ _ (by omega)]
    omega
  · rw [toNat_extractLsb'_ofNat _ _ (by omega)]
    omega
  · rw [toNat_extractLsb'_ofNat _ _ (by omega)]
    omega
  · rcases place with gap | above
    · simp only [List.mem_cons, List.not_mem_nil, or_false] at gap
      rcases gap with rfl | rfl | rfl | rfl
      all_goals exact getLsbD_ofNat_of_digit (b := false) (by decide) (by simp only [Bool.toNat_false]; omega)
    · exact getLsbD_ofNat_above (m := 29) (by omega) above

section

variable {a : InspectAddress}

theorem InspectAddress.afterRead_of_fixed (fixed : a.postIncrement = false) : a.afterRead = a := by
  simp [afterRead, fixed]

theorem InspectAddress.afterRead_of_inside (increment : a.postIncrement = true) (inside : a.offset ≠ 252) :
    a.afterRead = { a with offset := a.offset + 4 } := by
  rw [afterRead, if_pos increment, advance, if_neg inside]

/-- The last block of the map area is 8, that of record memory 8191. -/
theorem InspectAddress.afterRead_of_end (increment : a.postIncrement = true) (last : a.offset = 252) :
    a.afterRead = { a with
      offset := 0
      block := if (a.mapArea = true ∧ a.block = 8) ∨ (a.mapArea = false ∧ a.block = 8191) then 0
        else a.block + 1 } := by
  simp only [afterRead, advance, increment, last, if_true]
  cases a.mapArea <;> simp

end

/-! ### The data at the address (R193, R204) -/

theorem getLsbD_laneMask : ∀ (l : BitVec 4) (i : Fin 32), (laneMask l).getLsbD i = l.getLsbD (i / 8) := by decide

theorem getLsbD_and_laneMask (w : Word) (l : BitVec 4) (i : Nat) :
    (w &&& laneMask l).getLsbD i = (w.getLsbD i && l.getLsbD (i / 8)) := by
  rw [BitVec.getLsbD_and]
  by_cases inside : i < 32
  · rw [getLsbD_laneMask l ⟨i, inside⟩]
  · rw [BitVec.getLsbD_of_ge w i (by omega), Bool.false_and, Bool.false_and]

theorem and_laneMask_all (w : Word) : w &&& laneMask 15 = w := by
  rw [show laneMask 15 = BitVec.allOnes 32 by decide, BitVec.and_allOnes]

theorem execInspectionDataRead_of_lanes {s : State} {l : BitVec 4} (addressed : l ≠ 0) :
    execInspectionDataRead l s =
      .next { s with readData := s.inspectData &&& laneMask l, inspect := s.inspect.afterRead } := by
  have wellFormed : (Instr.inspectionDataRead l).wellFormed = true := bne_iff_ne.mpr addressed
  rw [execInspectionDataRead, if_neg (by rw [wellFormed]; decide)]

theorem execInspectionDataRead_word (s : State) : execInspectionDataRead 15 s =
    .next { s with readData := s.inspectData, inspect := s.inspect.afterRead } := by
  rw [execInspectionDataRead_of_lanes (by decide), and_laneMask_all]

theorem State.inspectByte_of_memory {s : State} (memory : s.inspect.mapArea = false) (j : Nat) :
    s.inspectByte j = if s.loading = true ∨ s.total ≤ s.inspect.block.toNat then 0
      else s.readByte (256 * s.inspect.block.toNat + s.inspect.offset.toNat + j) := by
  rw [Nat.add_assoc, Nat.mul_comm]
  simp only [inspectByte, memory, windowByte]
  rfl

theorem State.inspectData_of_memory {s : State} (memory : s.inspect.mapArea = false) :
    s.inspectData = if s.loading = true ∨ s.total ≤ s.inspect.block.toNat then 0
      else
        let a := 256 * s.inspect.block.toNat + s.inspect.offset.toNat
        s.readByte (a + 3) ++ s.readByte (a + 2) ++ s.readByte (a + 1) ++ s.readByte a := by
  simp only [inspectData, inspectByte_of_memory memory]
  split <;> rfl

theorem State.inspectByte_of_map {s : State} {n : StationNo} (map : s.inspect.mapArea = true)
    (station : s.inspect.mapStation.toNat = n.toNat) (j : Nat) :
    s.inspectByte j = s.mapByte n s.inspect.block.toNat (s.inspect.offset.toNat + j) := by
  simp only [inspectByte, map, if_true, stationNo_ofNat?_eq_some_iff.mpr station]

/-! ### The map area (R182, R203) -/

section

variable {s : State} {n : StationNo} {e : Nat}

/-- Element e stands in block e / 128 at the even place of its pair. -/
theorem State.mapByte_element (loaded : s.loading = false) (inside : e < 1024) {k : Nat} (pair : k < 2) :
    s.mapByte n (e / 128) (2 * (e % 128) + k) =
      if (s.station n).dotCount ≤ e then (if k = 0 then 0xFF else 0)
      else if k = 0 then byte ((s.station n).mapEntry e).1.code else ((s.station n).mapEntry e).2 := by
  have block : e / 128 < 8 := by omega
  have element : e / 128 * 128 + (2 * (e % 128) + k) / 2 = e := by omega
  have place : (2 * (e % 128) + k) % 2 = k := by omega
  simp only [mapByte, if_pos block, loaded, element, place]
  rfl

theorem State.mapByte_of_dot (loaded : s.loading = false) (inside : e < 1024)
    (dot : e < (s.station n).dotCount) :
    s.mapByte n (e / 128) (2 * (e % 128)) = (match ((s.station n).map.getD e (.good, 0)).1 with
        | .good => 0
        | .open => 1
        | .short => 2) ∧
      s.mapByte n (e / 128) (2 * (e % 128) + 1) = ((s.station n).map.getD e (.good, 0)).2 := by
  rw [mapByte_element loaded inside (k := 1) (by decide), if_neg (by omega), if_neg (by decide),
    ← Nat.add_zero (2 * (e % 128)), mapByte_element loaded inside (by decide), if_neg (by omega), if_pos rfl]
  refine ⟨?_, rfl⟩
  unfold Station.mapEntry
  cases ((s.station n).map.getD e (.good, 0)).1 <;> rfl

theorem State.mapByte_of_noDot (loaded : s.loading = false) (inside : e < 1024)
    (noDot : (s.station n).dotCount ≤ e) :
    s.mapByte n (e / 128) (2 * (e % 128)) = 0xFF ∧ s.mapByte n (e / 128) (2 * (e % 128) + 1) = 0 := by
  rw [mapByte_element loaded inside (k := 1) (by decide), if_pos noDot, if_neg (by decide),
    ← Nat.add_zero (2 * (e % 128)), mapByte_element loaded inside (by decide), if_pos noDot, if_pos rfl]
  exact ⟨rfl, rfl⟩

end

section

theorem length_of_mem_failedDots {x : List Byte} {dots : List FailedDot} (h : x ∈ dots.map FailedDot.bytes) :
    x.length = 3 := by
  obtain ⟨_, -, rfl⟩ := List.mem_map.mp h
  rfl

variable (s : State) (n : StationNo)

/-- Behind the count block 8 holds the list of failed elements. -/
theorem State.mapByte_summary (k : Nat) : s.mapByte n 8 (2 + k) =
    (((s.station n).summary.dots.map FailedDot.bytes).flatten).getD k 0 := by
  have count : (bytesLE 2 (s.station n).summary.count).length = 2 := rfl
  show (bytesLE 2 (s.station n).summary.count ++ _).getD (2 + k) 0 = _
  rw [List.getD_append_right _ _ _ _ (by omega), count, Nat.add_sub_cancel_left]

variable {n}

theorem State.mapByte_failedDot {j : Nat} {d : FailedDot} (listed : (s.station n).summary.dots[j]? = some d) :
    s.mapByte n 8 (2 + 3 * j) = d.reading ∧ s.mapByte n 8 (3 + 3 * j) = byte d.element ∧
      s.mapByte n 8 (4 + 3 * j) = byte (d.element / 256 % 4 + 16 * d.cls.code) := by
  have entry : ((s.station n).summary.dots.map FailedDot.bytes).getD j [] = d.bytes := by
    simp [List.getD_eq_getElem?_getD, listed]
  have at_ {k : Nat} (three : k < 3) : s.mapByte n 8 (2 + (3 * j + k)) = d.bytes.getD k 0 := by
    rw [mapByte_summary, getD_flatten (fun _ => length_of_mem_failedDots) three, entry]
  rw [show 2 + 3 * j = 2 + (3 * j + 0) by omega, show 3 + 3 * j = 2 + (3 * j + 1) by omega,
    show 4 + 3 * j = 2 + (3 * j + 2) by omega, at_ (by decide), at_ (by decide), at_ (by decide), Nat.mul_comm 16]
  exact ⟨rfl, rfl, rfl⟩

theorem State.mapByte_behind {o : Nat} (behind : 2 + 3 * (s.station n).summary.dots.length ≤ o) :
    s.mapByte n 8 o = 0 := by
  obtain ⟨k, rfl⟩ := Nat.exists_eq_add_of_le (show 2 ≤ o by omega)
  have length : ((s.station n).summary.dots.map FailedDot.bytes).flatten.length =
      3 * (s.station n).summary.dots.length := by
    rw [List.length_flatten, List.map_map, show List.length ∘ FailedDot.bytes = fun _ => 3 from rfl]
    simp [Nat.mul_comm]
  rw [mapByte_summary]
  exact List.getD_eq_default _ _ (by omega)

theorem State.mapByte_above {b : Nat} (above : 8 < b) (o : Nat) : s.mapByte n b o = 0 := by
  simp only [mapByte, if_neg (show ¬ b < 8 by omega), if_neg (show ¬ b = 8 by omega)]

end

/-- Settles O20: the fields of the address are digits of its word, and a read of four bytes shows record memory or the
map area byte by byte. -/
theorem inspectionWindow : Obligations.InspectionWindow := by
  refine ⟨fun _ _ => rfl, fun s memory => ?_, fun s n map station => ?_,
    fun s n e loaded inside => ⟨mapByte_of_dot loaded inside, mapByte_of_noDot loaded inside⟩,
    fun s n => ⟨rfl, rfl, fun _ _ => s.mapByte_failedDot, fun _ => s.mapByte_behind,
      fun _ o above => s.mapByte_above above o⟩,
    fun s l addressed => execInspectionDataRead_of_lanes addressed, fun s w read => ?_, getLsbD_and_laneMask,
    fun _ => InspectAddress.afterRead_of_fixed, fun _ => InspectAddress.afterRead_of_inside,
    fun _ => InspectAddress.afterRead_of_end⟩
  · show execInspectionDataRead 15 s = _
    rw [execInspectionDataRead_word, inspectData_of_memory memory]
  · show execInspectionDataRead 15 s = _
    simp only [execInspectionDataRead_word, inspectData, inspectByte_of_map map station]
    rfl
  · subst read
    exact s.inspect.word_reads

end Sys2Proof.Machine
end

section
/-! What the end of an event keeps: the items that the shared operations keep, the filter timers, and the check and the
label in composition that are under way when it comes (R115, R134, R186). -/

namespace Sys2Proof.Machine

open State

namespace State

/-! ### A fact over the end of an event -/

theorem startAll_keeps {P : State → Prop} (start : ∀ s m, P s → P (s.startStation m)) {s : State} (h : P s) :
    P s.startAll :=
  foldl_keeps start _ s h

/-- What the start tests, the begins of a check and a draw of a free value keep, the service test with the start tests
keeps (R186). -/
theorem serveAndStart_keeps {P : State → Prop} (counted : ∀ s i, P s → P { s with freeIndex := i })
    (start : ∀ s m, P s → P (s.startStation m)) (begin : ∀ s m, P s → P (s.beginCheck m .auto)) (k : Nat) :
    ∀ s : State, P s → P (s.serveAndStart k) := by
  induction k with
  | zero => exact fun s => startAll_keeps start
  | succ k ih =>
    intro s h
    unfold serveAndStart
    split
    · exact startAll_keeps start h
    split
    · dsimp only
      split
      · exact startAll_keeps start (begin _ _ (counted _ _ h))
      · exact ih _ (start _ _ (counted _ _ h))
    · exact startAll_keeps start (begin _ _ h)

/-! ### The label in composition (R115) -/

theorem composer_serveAndStart (s : State) (k : Nat) : (s.serveAndStart k).composer = s.composer :=
  serveAndStart_keeps (P := fun x => x.composer = s.composer) (fun _ _ h => h)
    (fun x m h => (laneWork_startStation x m).composer.trans h)
    (fun x m h => (composer_beginCheck x m .auto).trans h) k s rfl

/-- The Composer takes no label while it is BUSY, and nothing else at the end of an event touches the one it has. -/
theorem composer_finishEvent_of_busy {s : State} (busy : s.composer.isSome = true) :
    s.finishEvent.composer = s.composer := by
  have choice : s.pairAll.chooseLabels = s.pairAll :=
    composerChoose_self _ (.inl (by rw [composer_pairAll]; exact busy))
  obtain ⟨parked, -⟩ := parkTimers_rest (s.pairAll.chooseLabels.serveAndStart 5)
  obtain ⟨-, settled, -⟩ := sameLanes_settleBus s.settleStations
  calc s.finishEvent.composer
    _ = s.settleStations.composer := settled
    _ = (s.pairAll.chooseLabels.serveAndStart 5).composer := parked
    _ = s.pairAll.chooseLabels.composer := composer_serveAndStart ..
    _ = s.composer := by rw [choice, composer_pairAll]

/-! ### The filter timer (R134) -/

section

variable (n : StationNo)

theorem filterTimer_mediaFault (s : State) :
    ((s.mediaFault n).station n).filterTimer = (s.station n).filterTimer := by
  obtain ⟨_, e⟩ := station_mediaFault s n
  rw [e]
  rfl

theorem filterTimer_beginPrinting (s : State) (k : LineKind) :
    ((s.beginPrinting n k).station n).filterTimer = (s.station n).filterTimer := by
  unfold beginPrinting
  dsimp only
  split
  · rw [station_updStation]
  split
  · exact filterTimer_mediaFault n s
  split
  · exact filterTimer_mediaFault n s
  cases k with
  | printed =>
    obtain ⟨_, _, e, -⟩ := firePrinted_eq (s.stepMotor n) n
    dsimp only
    rw [e]
    simp only [setFeed, stepMotor, station_updStation]
  | leading | peel | eject | calibrate => simp only [setFeed, stepMotor, station_updStation]

theorem filterTimer_printStart (s : State) (l : Label) :
    ((s.printStart n l).station n).filterTimer = (s.station n).filterTimer := by
  rw [printStart_eq, filterTimer_beginPrinting, resetUnregistered, station_updStation, station_takeHead_eq]
  rfl

theorem filterTimer_startLoop (r : Nat) :
    ∀ s : State, ((State.startLoop n r s).station n).filterTimer = (s.station n).filterTimer := by
  induction r with
  | zero => exact fun _ => rfl
  | succ r ih =>
    intro s
    unfold startLoop
    split
    · rfl
    · exact filterTimer_printStart ..
    · rw [ih, station_finishHead, station_updStation]

theorem filterTimer_startStation (s : State) (m : StationNo) :
    ((s.startStation m).station n).filterTimer = (s.station n).filterTimer := by
  by_cases e : n = m
  · subst e
    exact filterTimer_startLoop n _ s
  · rw [(laneWork_startStation s m).others n e]

theorem filterTimer_beginAtStation (s : State) :
    ((s.beginAtStation n).station n).filterTimer = (s.station n).filterTimer := by
  unfold beginAtStation
  cases (s.station n).state
  case idle | held =>
    dsimp only
    rw [station_enterChecking]
    rfl
  case parked =>
    dsimp only
    rw [station_updStation, station_wakeUp]
    rfl
  case waking =>
    dsimp only
    rw [station_updStation]
  all_goals rfl

theorem filterTimer_beginCheck (s : State) (m : StationNo) :
    ((s.beginCheck m .auto).station n).filterTimer = (s.station n).filterTimer := by
  by_cases e : n = m
  · subst e
    exact filterTimer_beginAtStation n s
  · rw [station_beginCheck_ne s .auto e]

/-- The trigger filter runs on over the end of an event. -/
theorem filterTimer_finishEvent (s : State) :
    (s.finishEvent.station n).filterTimer = (s.station n).filterTimer := by
  obtain ⟨_, _, paired⟩ := (pairWork_pairAll s n).rest
  obtain ⟨_, -, chosen⟩ := (choiceKeeps_chooseLabels s.pairAll).stations n
  have before : (s.pairAll.chooseLabels.station n).filterTimer = (s.station n).filterTimer := by
    rw [chosen, paired]
  rw [finishEvent, (chanWork_settleBus _).station, settleStations, station_parkTimers]
  exact serveAndStart_keeps (P := fun x => (x.station n).filterTimer = (s.station n).filterTimer)
    (fun _ _ h => h) (fun x m h => (filterTimer_startStation n x m).trans h)
    (fun x m h => (filterTimer_beginCheck n x m).trans h) 5 _ before

end

/-! ### The items that the shared operations keep -/

theorem Kept.sameCard {s t : State} (k : s.Kept t) : s.SameCard t :=
  ⟨k.loading, k.defaulted, k.boardTag, k.total, fun n => (k.lanes n).dotCount⟩

theorem Kept.sameEngine {s t : State} (k : s.Kept t) : s.SameEngine t :=
  ⟨k.arbiter, k.autoPoll, k.eventEnable, k.inspect, k.readData⟩

/-- At a station that is neither IDLE nor PARKED the end of an event touches the queues and the park timer alone. -/
theorem station_finishEvent_of_busy {s : State} {n : StationNo} (idle : (s.station n).state ≠ .idle)
    (parked : (s.station n).state ≠ .parked) : s.finishEvent.station n = { s.station n with
      triggers := (s.finishEvent.station n).triggers, queue := (s.finishEvent.station n).queue,
      parkTimer := (s.finishEvent.station n).parkTimer } := by
  obtain ⟨_, _, _, ended⟩ := lane_finishEvent_of_away (s := s) (n := n)
    (by simp [StationState.checkable, idle, parked])
  rw [ended]

end State

/-- Settles O9, from what the shared operations keep, what the end of an event may do to a channel, and the filter timer,
the check and the label in composition, which stand. -/
theorem eventEndKeeps : Obligations.EventEndKeeps := by
  rintro s _ rfl
  have kept := kept_finishEvent s
  refine ⟨kept.sameCard, kept.sameEngine, kept.pending, kept.clock, nextStamp_finishEvent s, kept.raised,
    fun c => ?_, fun n => ?_, fun checking => check_finishEvent (.inl checking),
    fun busy => ⟨composer_finishEvent_of_busy busy, sameMemory_finishEvent (.inl busy)⟩⟩
  · have regs := kept.regs c
    have settled := settled_finishEvent s c
    exact ⟨regs.base, regs.size, regs.fetchIndex, settled.hand, settled.held, settled.stopCause,
      settled.stopPending, settled.failing, settled.autoPollTimer, settled.written, settled.pending⟩
  · have lane := kept.lanes n
    exact ⟨lane.profile, lane.thermal, lane.map, lane.summary, lane.lastCode, lane.lastResult, lane.mediaLatch,
      lane.mediaPresent, lane.headOpen, lane.triggerHigh, filterTimer_finishEvent n s, fetching_finishEvent s n,
      station_finishEvent_of_busy⟩

end Sys2Proof.Machine
end
